-- ==== Sys2Proof/Word.lean ====
section
/-! DEFINITION. The word types of the TZ-8 and their plainest arithmetic (spec/00_scope.md R1, R2). -/

namespace Sys2Proof

/-- A doubleword: the width of a workspace register (R123). -/
abbrev Word := BitVec 64

/-- One byte of memory. -/
abbrev Byte := BitVec 8

/-- The address space of a program is 53 bits wide (R142, R243, R254). -/
def vaSpace : Nat := 2 ^ 53

/-- An address taken modulo 2^53. -/
def vaOf (w : Word) : Nat := w.toNat % vaSpace

/-- SExt of R157: the low bits `x`, sign-extended to 64 bits. -/
abbrev sext {n : Nat} (x : BitVec n) : Word := x.signExtend 64

/-- ZExt of R157: the low bits `x`, zero-extended to 64 bits. -/
abbrev zext {n : Nat} (x : BitVec n) : Word := x.setWidth 64

/-- Bits `lo + n - 1` to `lo` of a word (R2). -/
abbrev field (x : Word) (lo n : Nat) : BitVec n := x.extractLsb' lo n

/-- The number in bits `lo + n - 1` to `lo` of a word. -/
abbrev fieldNat (x : Word) (lo n : Nat) : Nat := (x.extractLsb' lo n).toNat

end Sys2Proof
end

