-- ==== Sys2Proof/Syntax.lean ====
section
/-! DEFINITION. The steps of the TZ-8: one constructor per row of spec/opcode_table.json. The rows from ADD to
C_CMT are instructions; their arguments are the fields of the row's encoding, in the row's order (spec/08_encoding.md
R138 to R153), and a form whose second operand is the literal word carries it as `lit` (R135, R151). The rows from
NOTIFY on are steps of the device that no program issues (spec/95_what_each_step_holds.md): the agent and the place
of the step are their arguments. -/

namespace Sys2Proof

/-- Every instruction and every device step of the TZ-8. -/
inductive Instr where
  /-- ADD (R161). Adds two registers, or a register and a constant-bank value, wrapping at the width. -/
  | add (k w : BitVec 1) (rb ra rd : BitVec 5) (stl : BitVec 2)
  /-- ADD_L (R161). ADD whose second operand is the following literal word. -/
  | addL (w : BitVec 1) (ra rd : BitVec 5) (stl : BitVec 2) (lit : BitVec 32)
  /-- SUB (R161). Subtracts the second operand from the first, wrapping. -/
  | sub (k w : BitVec 1) (rb ra rd : BitVec 5) (stl : BitVec 2)
  /-- SUB_L (R161). SUB with a literal second operand. -/
  | subL (w : BitVec 1) (ra rd : BitVec 5) (stl : BitVec 2) (lit : BitVec 32)
  /-- AND (R161). Bitwise AND. -/
  | and (k w : BitVec 1) (rb ra rd : BitVec 5) (stl : BitVec 2)
  /-- AND_L (R161). AND with a literal second operand. -/
  | andL (w : BitVec 1) (ra rd : BitVec 5) (stl : BitVec 2) (lit : BitVec 32)
  /-- OR (R161). Bitwise OR. -/
  | or (k w : BitVec 1) (rb ra rd : BitVec 5) (stl : BitVec 2)
  /-- OR_L (R161). OR with a literal second operand. -/
  | orL (w : BitVec 1) (ra rd : BitVec 5) (stl : BitVec 2) (lit : BitVec 32)
  /-- XOR (R161). Bitwise XOR. -/
  | xor (k w : BitVec 1) (rb ra rd : BitVec 5) (stl : BitVec 2)
  /-- XOR_L (R161). XOR with a literal second operand. -/
  | xorL (w : BitVec 1) (ra rd : BitVec 5) (stl : BitVec 2) (lit : BitVec 32)
  /-- ANDN (R161). First operand AND NOT second operand. -/
  | andn (k w : BitVec 1) (rb ra rd : BitVec 5) (stl : BitVec 2)
  /-- ANDN_L (R161). ANDN with a literal second operand. -/
  | andnL (w : BitVec 1) (ra rd : BitVec 5) (stl : BitVec 2) (lit : BitVec 32)
  /-- SLL (R161). Logical left shift by the low bits of the second operand. -/
  | sll (k w : BitVec 1) (rb ra rd : BitVec 5) (stl : BitVec 2)
  /-- SLL_L (R161). SLL with a literal shift operand. -/
  | sllL (w : BitVec 1) (ra rd : BitVec 5) (stl : BitVec 2) (lit : BitVec 32)
  /-- SRL (R161). Logical right shift. -/
  | srl (k w : BitVec 1) (rb ra rd : BitVec 5) (stl : BitVec 2)
  /-- SRL_L (R161). SRL with a literal shift operand. -/
  | srlL (w : BitVec 1) (ra rd : BitVec 5) (stl : BitVec 2) (lit : BitVec 32)
  /-- SRA (R161). Arithmetic right shift. -/
  | sra (k w : BitVec 1) (rb ra rd : BitVec 5) (stl : BitVec 2)
  /-- SRA_L (R161). SRA with a literal shift operand. -/
  | sraL (w : BitVec 1) (ra rd : BitVec 5) (stl : BitVec 2) (lit : BitVec 32)
  /-- ROR (R161). Rotate right within the width. -/
  | ror (k w : BitVec 1) (rb ra rd : BitVec 5) (stl : BitVec 2)
  /-- ROR_L (R161). ROR with a literal rotate operand. -/
  | rorL (w : BitVec 1) (ra rd : BitVec 5) (stl : BitVec 2) (lit : BitVec 32)
  /-- MUL (R162). Low bits of the product, latency 3. -/
  | mul (k w : BitVec 1) (rb ra rd : BitVec 5) (stl : BitVec 2)
  /-- MUL_L (R162). MUL with a literal operand. -/
  | mulL (w : BitVec 1) (ra rd : BitVec 5) (stl : BitVec 2) (lit : BitVec 32)
  /-- MULH (R162). High bits of the signed product. -/
  | mulh (k w : BitVec 1) (rb ra rd : BitVec 5) (stl : BitVec 2)
  /-- MULH_L (R162). MULH with a literal operand. -/
  | mulhL (w : BitVec 1) (ra rd : BitVec 5) (stl : BitVec 2) (lit : BitVec 32)
  /-- MULHU (R162). High bits of the unsigned product. -/
  | mulhu (k w : BitVec 1) (rb ra rd : BitVec 5) (stl : BitVec 2)
  /-- MULHU_L (R162). MULHU with a literal operand. -/
  | mulhuL (w : BitVec 1) (ra rd : BitVec 5) (stl : BitVec 2) (lit : BitVec 32)
  /-- DIV (R163). Signed division truncated toward zero, with the divide-by-zero cases and optional DIVZERO trap. -/
  | div (k w : BitVec 1) (rb ra rd : BitVec 5) (stl : BitVec 2)
  /-- DIV_L (R163). DIV with a literal divisor. -/
  | divL (w : BitVec 1) (ra rd : BitVec 5) (stl : BitVec 2) (lit : BitVec 32)
  /-- DIVU (R163). Unsigned division. -/
  | divu (k w : BitVec 1) (rb ra rd : BitVec 5) (stl : BitVec 2)
  /-- DIVU_L (R163). DIVU with a literal divisor. -/
  | divuL (w : BitVec 1) (ra rd : BitVec 5) (stl : BitVec 2) (lit : BitVec 32)
  /-- REM (R163). Signed remainder with the sign of the dividend. -/
  | rem (k w : BitVec 1) (rb ra rd : BitVec 5) (stl : BitVec 2)
  /-- REM_L (R163). REM with a literal divisor. -/
  | remL (w : BitVec 1) (ra rd : BitVec 5) (stl : BitVec 2) (lit : BitVec 32)
  /-- REMU (R163). Unsigned remainder. -/
  | remu (k w : BitVec 1) (rb ra rd : BitVec 5) (stl : BitVec 2)
  /-- REMU_L (R163). REMU with a literal divisor. -/
  | remuL (w : BitVec 1) (ra rd : BitVec 5) (stl : BitVec 2) (lit : BitVec 32)
  /-- MIN (R161). Signed minimum. -/
  | min (k w : BitVec 1) (rb ra rd : BitVec 5) (stl : BitVec 2)
  /-- MIN_L (R161). MIN with a literal operand. -/
  | minL (w : BitVec 1) (ra rd : BitVec 5) (stl : BitVec 2) (lit : BitVec 32)
  /-- MAX (R161). Signed maximum. -/
  | max (k w : BitVec 1) (rb ra rd : BitVec 5) (stl : BitVec 2)
  /-- MAX_L (R161). MAX with a literal operand. -/
  | maxL (w : BitVec 1) (ra rd : BitVec 5) (stl : BitVec 2) (lit : BitVec 32)
  /-- MINU (R161). Unsigned minimum. -/
  | minu (k w : BitVec 1) (rb ra rd : BitVec 5) (stl : BitVec 2)
  /-- MINU_L (R161). MINU with a literal operand. -/
  | minuL (w : BitVec 1) (ra rd : BitVec 5) (stl : BitVec 2) (lit : BitVec 32)
  /-- MAXU (R161). Unsigned maximum. -/
  | maxu (k w : BitVec 1) (rb ra rd : BitVec 5) (stl : BitVec 2)
  /-- MAXU_L (R161). MAXU with a literal operand. -/
  | maxuL (w : BitVec 1) (ra rd : BitVec 5) (stl : BitVec 2) (lit : BitVec 32)
  /-- CLZ (R164). Counts leading zero bits. -/
  | clz (w : BitVec 1) (ra rd : BitVec 5) (stl : BitVec 2)
  /-- CTZ (R164). Counts trailing zero bits. -/
  | ctz (w : BitVec 1) (ra rd : BitVec 5) (stl : BitVec 2)
  /-- POPC (R164). Counts set bits. -/
  | popc (w : BitVec 1) (ra rd : BitVec 5) (stl : BitVec 2)
  /-- SEL (R165). Selects wa or wb by a predicate. -/
  | sel (ps : BitVec 3) (rb ra rd : BitVec 5) (stl : BitVec 2)
  /-- SEL_L (R165). SEL whose alternative is the literal word. -/
  | selL (ps : BitVec 3) (ra rd : BitVec 5) (stl : BitVec 2) (lit : BitVec 32)
  /-- CMP (R166). Compares two operands under EQ, LT, LTU or TST into a predicate. -/
  | cmp (k w : BitVec 1) (rb ra : BitVec 5) (cc : BitVec 2) (pd : BitVec 3) (stl : BitVec 2)
  /-- CMP_L (R166). CMP against a literal word. -/
  | cmpL (w : BitVec 1) (ra : BitVec 5) (cc : BitVec 2) (pd : BitVec 3) (stl : BitVec 2) (lit : BitVec 32)
  /-- PLOG (R167). Computes a predicate from two predicates by a 4-bit truth table. -/
  | plog (ttLo : BitVec 2) (pb : BitVec 3) (ttHi : BitVec 2) (pa pd : BitVec 3) (stl : BitVec 2)
  /-- ADDI (R168). Adds a sign-extended 12-bit immediate. -/
  | addi (imm : BitVec 12) (ra rd : BitVec 5) (stl : BitVec 2)
  /-- ANDI (R168). ANDs a sign-extended immediate. -/
  | andi (imm : BitVec 12) (ra rd : BitVec 5) (stl : BitVec 2)
  /-- ORI (R168). ORs a sign-extended immediate. -/
  | ori (imm : BitVec 12) (ra rd : BitVec 5) (stl : BitVec 2)
  /-- XORI (R168). XORs a sign-extended immediate. -/
  | xori (imm : BitVec 12) (ra rd : BitVec 5) (stl : BitVec 2)
  /-- SLLI (R168). Left shift by an immediate amount. -/
  | slli (sh : BitVec 6) (ra rd : BitVec 5) (stl : BitVec 2)
  /-- SRLI (R168). Logical right shift by an immediate amount. -/
  | srli (sh : BitVec 6) (ra rd : BitVec 5) (stl : BitVec 2)
  /-- SRAI (R168). Arithmetic right shift by an immediate amount. -/
  | srai (sh : BitVec 6) (ra rd : BitVec 5) (stl : BitVec 2)
  /-- CMPI (R166). Compares a register with a sign-extended immediate into a predicate. -/
  | cmpi (imm : BitVec 12) (ra : BitVec 5) (cc : BitVec 2) (pd : BitVec 3) (stl : BitVec 2)
  /-- LUI (R169). Writes a sign-extended 20-bit upper immediate. -/
  | lui (imm : BitVec 20) (rd : BitVec 5)
  /-- FLI (R170). Loads an F20 floating constant as FP32. -/
  | fli (imm : BitVec 20) (rd : BitVec 5)
  /-- FADDI (R171). Adds an F20 constant to the FP32 value in wd. -/
  | faddi (imm : BitVec 20) (rd : BitVec 5)
  /-- FMULI (R171). Multiplies the FP32 value in wd by an F20 constant. -/
  | fmuli (imm : BitVec 20) (rd : BitVec 5)
  /-- BEQ (R172). Branches when two registers are equal. -/
  | beq (off : BitVec 12) (rb ra : BitVec 5) (stl : BitVec 2)
  /-- BNE (R172). Branches when two registers differ. -/
  | bne (off : BitVec 12) (rb ra : BitVec 5) (stl : BitVec 2)
  /-- BLT (R172). Branches on signed less-than. -/
  | blt (off : BitVec 12) (rb ra : BitVec 5) (stl : BitVec 2)
  /-- BGE (R172). Branches on signed greater-or-equal. -/
  | bge (off : BitVec 12) (rb ra : BitVec 5) (stl : BitVec 2)
  /-- BLTU (R172). Branches on unsigned less-than. -/
  | bltu (off : BitVec 12) (rb ra : BitVec 5) (stl : BitVec 2)
  /-- BGEU (R172). Branches on unsigned greater-or-equal. -/
  | bgeu (off : BitVec 12) (rb ra : BitVec 5) (stl : BitVec 2)
  /-- BPT (R173). Branches when a predicate is true. -/
  | bpt (off : BitVec 12) (pa : BitVec 3) (stl : BitVec 2)
  /-- BPF (R173). Branches when a predicate is false. -/
  | bpf (off : BitVec 12) (pa : BitVec 3) (stl : BitVec 2)
  /-- JAL (R174). Writes the link and jumps PC-relative. -/
  | jal (off : BitVec 18) (rd : BitVec 5) (stl : BitVec 2)
  /-- JALR (R175). Jumps to a register plus offset, writing the link, trapping ALIGN on an odd target. -/
  | jalr (off : BitVec 13) (ra rd : BitVec 5) (stl : BitVec 2)
  /-- LOOP (R176). Decrements a counter and branches while it is nonzero. -/
  | loop (off : BitVec 18) (rd : BitVec 5) (stl : BitVec 2)
  /-- LD (R255). Loads a value of the given size, with alignment, translation and poison checks. -/
  | ld (off : BitVec 6) (aq : BitVec 1) (hint : BitVec 2) (sz : BitVec 3) (ra rd : BitVec 5) (stl : BitVec 2)
  /-- ST (R255). Stores a value of the given size. -/
  | st (off : BitVec 6) (rl : BitVec 1) (hint : BitVec 2) (sz : BitVec 3) (ra rd : BitVec 5) (stl : BitVec 2)
  /-- PREF (R258). Requests a line at the level its hint names, never trapping. -/
  | pref (off : BitVec 6) (hint : BitVec 2) (ra : BitVec 5) (stl : BitVec 2)
  /-- DISC (R259). Drops a line from replicas and the home copy without write-back. -/
  | disc (off : BitVec 6) (ra : BitVec 5) (stl : BitVec 2)
  /-- FADD (R181). Floating-point addition rounded once in cr.frm. -/
  | fadd (k : BitVec 1) (w : BitVec 2) (rb ra rd : BitVec 5) (stl : BitVec 2)
  /-- FADD_L (R181). FADD with a literal operand. -/
  | faddL (w : BitVec 2) (ra rd : BitVec 5) (stl : BitVec 2) (lit : BitVec 32)
  /-- FSUB (R181). Floating-point subtraction. -/
  | fsub (k : BitVec 1) (w : BitVec 2) (rb ra rd : BitVec 5) (stl : BitVec 2)
  /-- FSUB_L (R181). FSUB with a literal operand. -/
  | fsubL (w : BitVec 2) (ra rd : BitVec 5) (stl : BitVec 2) (lit : BitVec 32)
  /-- FMUL (R181). Floating-point multiplication. -/
  | fmul (k : BitVec 1) (w : BitVec 2) (rb ra rd : BitVec 5) (stl : BitVec 2)
  /-- FMUL_L (R181). FMUL with a literal operand. -/
  | fmulL (w : BitVec 2) (ra rd : BitVec 5) (stl : BitVec 2) (lit : BitVec 32)
  /-- FDIV (R181). Floating-point division, variable latency. -/
  | fdiv (k : BitVec 1) (w : BitVec 2) (rb ra rd : BitVec 5) (stl : BitVec 2)
  /-- FDIV_L (R181). FDIV with a literal operand. -/
  | fdivL (w : BitVec 2) (ra rd : BitVec 5) (stl : BitVec 2) (lit : BitVec 32)
  /-- FSQRT (R181). Floating-point square root. -/
  | fsqrt (w : BitVec 2) (ra rd : BitVec 5) (stl : BitVec 2)
  /-- FMA (R181). Fused a times b plus d. -/
  | fma (k : BitVec 1) (w : BitVec 2) (rb ra rd : BitVec 5) (stl : BitVec 2)
  /-- FMA_L (R181). FMA with a literal operand. -/
  | fmaL (w : BitVec 2) (ra rd : BitVec 5) (stl : BitVec 2) (lit : BitVec 32)
  /-- FMAD (R181). Fused d times a plus b. -/
  | fmad (k : BitVec 1) (w : BitVec 2) (rb ra rd : BitVec 5) (stl : BitVec 2)
  /-- FMAD_L (R181). FMAD with a literal addend. -/
  | fmadL (w : BitVec 2) (ra rd : BitVec 5) (stl : BitVec 2) (lit : BitVec 32)
  /-- FNMA (R181). Fused d minus a times b. -/
  | fnma (k : BitVec 1) (w : BitVec 2) (rb ra rd : BitVec 5) (stl : BitVec 2)
  /-- FNMA_L (R181). FNMA with a literal operand. -/
  | fnmaL (w : BitVec 2) (ra rd : BitVec 5) (stl : BitVec 2) (lit : BitVec 32)
  /-- FMIN (R182). minimumNumber of two values. -/
  | fmin (k : BitVec 1) (w : BitVec 2) (rb ra rd : BitVec 5) (stl : BitVec 2)
  /-- FMIN_L (R182). FMIN with a literal operand. -/
  | fminL (w : BitVec 2) (ra rd : BitVec 5) (stl : BitVec 2) (lit : BitVec 32)
  /-- FMAX (R182). maximumNumber of two values. -/
  | fmax (k : BitVec 1) (w : BitVec 2) (rb ra rd : BitVec 5) (stl : BitVec 2)
  /-- FMAX_L (R182). FMAX with a literal operand. -/
  | fmaxL (w : BitVec 2) (ra rd : BitVec 5) (stl : BitVec 2) (lit : BitVec 32)
  /-- FSGN (R183). Sign injection in the .j, .jn or .jx variant. -/
  | fsgn (var w : BitVec 2) (rb ra rd : BitVec 5) (stl : BitVec 2)
  /-- FCMP (R184). Floating-point compare into a predicate. -/
  | fcmp (k : BitVec 1) (w : BitVec 2) (rb ra : BitVec 5) (cc : BitVec 2) (pd : BitVec 3) (stl : BitVec 2)
  /-- FCMP_L (R184). FCMP against a literal operand. -/
  | fcmpL (w : BitVec 2) (ra : BitVec 5) (cc : BitVec 2) (pd : BitVec 3) (stl : BitVec 2) (lit : BitVec 32)
  /-- FCLASS (R185). Writes a one-hot class word of a floating value. -/
  | fclass (w : BitVec 2) (ra rd : BitVec 5) (stl : BitVec 2)
  /-- FCVT (R186). Converts a scalar between formats. -/
  | fcvt (src dst : BitVec 4) (ra rd : BitVec 5) (stl : BitVec 2)
  /-- FEX2 (R187). SFU exp2 of an FP32 value. -/
  | fex2 (ra rd : BitVec 5) (stl : BitVec 2)
  /-- FLG2 (R187). SFU log2. -/
  | flg2 (ra rd : BitVec 5) (stl : BitVec 2)
  /-- FRCP (R187). SFU reciprocal. -/
  | frcp (ra rd : BitVec 5) (stl : BitVec 2)
  /-- FRSQ (R187). SFU reciprocal square root. -/
  | frsq (ra rd : BitVec 5) (stl : BitVec 2)
  /-- FSINP (R187). SFU sin(pi a). -/
  | fsinp (ra rd : BitVec 5) (stl : BitVec 2)
  /-- FCOSP (R187). SFU cos(pi a). -/
  | fcosp (ra rd : BitVec 5) (stl : BitVec 2)
  /-- VADD (R196). Element-wise add. -/
  | vadd (s : BitVec 1) (mk : BitVec 3) (rb ra rd : BitVec 5) (stl : BitVec 2)
  /-- VSUB (R196). Element-wise subtract. -/
  | vsub (s : BitVec 1) (mk : BitVec 3) (rb ra rd : BitVec 5) (stl : BitVec 2)
  /-- VMUL (R196). Element-wise multiply. -/
  | vmul (s : BitVec 1) (mk : BitVec 3) (rb ra rd : BitVec 5) (stl : BitVec 2)
  /-- VFMA (R196). Element-wise fused multiply-add into vd. -/
  | vfma (s : BitVec 1) (mk : BitVec 3) (rb ra rd : BitVec 5) (stl : BitVec 2)
  /-- VDIV (R196). Element-wise divide. -/
  | vdiv (s : BitVec 1) (mk : BitVec 3) (rb ra rd : BitVec 5) (stl : BitVec 2)
  /-- VSQRT (R196). Element-wise square root. -/
  | vsqrt (mk : BitVec 3) (ra rd : BitVec 5) (stl : BitVec 2)
  /-- VMIN (R196). Element-wise minimum. -/
  | vmin (s : BitVec 1) (mk : BitVec 3) (rb ra rd : BitVec 5) (stl : BitVec 2)
  /-- VMAX (R196). Element-wise maximum. -/
  | vmax (s : BitVec 1) (mk : BitVec 3) (rb ra rd : BitVec 5) (stl : BitVec 2)
  /-- VABS (R196). Element-wise absolute value. -/
  | vabs (mk : BitVec 3) (ra rd : BitVec 5) (stl : BitVec 2)
  /-- VNEG (R196). Element-wise negation. -/
  | vneg (mk : BitVec 3) (ra rd : BitVec 5) (stl : BitVec 2)
  /-- VAND (R196). Element-wise AND. -/
  | vand (s : BitVec 1) (mk : BitVec 3) (rb ra rd : BitVec 5) (stl : BitVec 2)
  /-- VOR (R196). Element-wise OR. -/
  | vor (s : BitVec 1) (mk : BitVec 3) (rb ra rd : BitVec 5) (stl : BitVec 2)
  /-- VXOR (R196). Element-wise XOR. -/
  | vxor (s : BitVec 1) (mk : BitVec 3) (rb ra rd : BitVec 5) (stl : BitVec 2)
  /-- VSHL (R196). Element-wise left shift. -/
  | vshl (s : BitVec 1) (mk : BitVec 3) (rb ra rd : BitVec 5) (stl : BitVec 2)
  /-- VSHR (R196). Element-wise logical right shift. -/
  | vshr (s : BitVec 1) (mk : BitVec 3) (rb ra rd : BitVec 5) (stl : BitVec 2)
  /-- VSRA (R196). Element-wise arithmetic right shift. -/
  | vsra (s : BitVec 1) (mk : BitVec 3) (rb ra rd : BitVec 5) (stl : BitVec 2)
  /-- VCMP (R197). Element-wise compare into a mask. -/
  | vcmp (s : BitVec 1) (mk : BitVec 3) (rb ra : BitVec 5) (cc : BitVec 2) (md : BitVec 3) (stl : BitVec 2)
  /-- VSEL (R198). Selects elements of va or vb by a mask. -/
  | vsel (s : BitVec 1) (mk : BitVec 3) (rb ra rd : BitVec 5) (stl : BitVec 2)
  /-- VCVT (R199). Converts vector elements to another format. -/
  | vcvt (mk : BitVec 3) (ft ra rd : BitVec 5) (stl : BitVec 2)
  /-- VSFU (R200). Sends one SFU request covering the active elements. -/
  | vsfu (mk fn : BitVec 3) (ra rd : BitVec 5) (stl : BitVec 2)
  /-- VCLAIM (R201). Releases any grant and claims an aligned block of lanes. -/
  | vclaim (lg : BitVec 3) (rd : BitVec 5) (stl : BitVec 2)
  /-- VREL (R202). Releases the lane grant. -/
  | vrel (stl : BitVec 2)
  /-- VLEN (R202). Writes the current grant size. -/
  | vlen (rd : BitVec 5) (stl : BitVec 2)
  /-- VLD (R203). Unit-stride vector load setting the tag. -/
  | vld (mk : BitVec 3) (ft ra rd : BitVec 5) (stl : BitVec 2)
  /-- VLDS (R203). Strided vector load. -/
  | vlds (mk : BitVec 3) (rb ra rd : BitVec 5) (stl : BitVec 2)
  /-- VLDX (R203). Indexed vector load. -/
  | vldx (mk : BitVec 3) (rb ra rd : BitVec 5) (stl : BitVec 2)
  /-- VST (R203). Unit-stride vector store. -/
  | vst (mk : BitVec 3) (ra rd : BitVec 5) (stl : BitVec 2)
  /-- VSTS (R203). Strided vector store. -/
  | vsts (mk : BitVec 3) (rb ra rd : BitVec 5) (stl : BitVec 2)
  /-- VSTX (R203). Indexed vector store. -/
  | vstx (mk : BitVec 3) (rb ra rd : BitVec 5) (stl : BitVec 2)
  /-- VBC (R204). Broadcasts a workspace value to elements. -/
  | vbc (mk : BitVec 3) (ft ra rd : BitVec 5) (stl : BitVec 2)
  /-- VPERM (R204). Permutes elements by an index vector. -/
  | vperm (mk : BitVec 3) (rb ra rd : BitVec 5) (stl : BitVec 2)
  /-- VSLIDE (R204). Slides elements by a register count. -/
  | vslide (mk : BitVec 3) (rb ra rd : BitVec 5) (stl : BitVec 2)
  /-- VRED (R205). Reduces active elements by a fixed pairwise tree. -/
  | vred (mk op : BitVec 3) (ra rd : BitVec 5) (stl : BitVec 2)
  /-- VSCAN (R205). Computes inclusive running values. -/
  | vscan (mk op : BitVec 3) (ra rd : BitVec 5) (stl : BitVec 2)
  /-- VMOP (R204). Computes a mask from two masks by a truth table. -/
  | vmop (mb : BitVec 3) (ttLo : BitVec 2) (ma : BitVec 3) (ttHi : BitVec 2) (md : BitVec 3) (stl : BitVec 2)
  /-- VTAG (R204). Sets a vector register's tag. -/
  | vtag (ft rd : BitVec 5) (stl : BitVec 2)
  /-- VXTR (R204). Extracts one element into a workspace register. -/
  | vxtr (rb ra rd : BitVec 5) (stl : BitVec 2)
  /-- MZERO (R286). Zeroes an accumulator and sets its tag. -/
  | mzero (dbl : BitVec 1) (ad stl : BitVec 2)
  /-- MZERO_G (R288). Claims the cluster's three other cells and zeroes ad in all four. -/
  | mzeroG (dbl : BitVec 1) (pd : BitVec 3) (ad stl : BitVec 2)
  /-- MMA (R287). Queues a matrix multiply-accumulate on one cell. -/
  | mma (rb ra : BitVec 5) (ad stl : BitVec 2)
  /-- MMA_RESUME (R294). Resumes the parked product at its faulting block. -/
  | mmaResume (rb ra : BitVec 5) (ad stl : BitVec 2)
  /-- MMAG (R289). Queues a 256x256 product on the four claimed cells. -/
  | mmag (rb ra : BitVec 5) (ad stl : BitVec 2)
  /-- MMAG_RESUME (R294). Resumes a parked MMAG. -/
  | mmagResume (rb ra : BitVec 5) (ad stl : BitVec 2)
  /-- MDRAIN (R290). Writes an accumulator to local memory with checksum check. -/
  | mdrain (grp : BitVec 1) (rb ra : BitVec 5) (ad stl : BitVec 2)
  /-- MFILL (R292). Loads an accumulator exactly from local memory. -/
  | mfill (rb ra : BitVec 5) (ad stl : BitVec 2)
  /-- ASTAGE (R280). Queues a copy of A rows into the A buffer. -/
  | astage (rb ra rd : BitVec 5) (stl : BitVec 2)
  /-- PLOAD (R281). Queues a panel load into the column store. -/
  | pload (rb ra rd : BitVec 5) (stl : BitVec 2)
  /-- PEVICT (R282). Marks a panel entry ABSENT. -/
  | pevict (ra : BitVec 5) (stl : BitVec 2)
  /-- PSTAT (R282). Reads a panel table entry. -/
  | pstat (src : BitVec 1) (ra rd : BitVec 5) (stl : BitVec 2)
  /-- HSPOST (R285). Increments a cell semaphore, waiting while it is 15. -/
  | hspost (hs : BitVec 3) (stl : BitVec 2)
  /-- HSWAIT (R285). Waits for and decrements a cell semaphore. -/
  | hswait (hs : BitVec 3) (stl : BitVec 2)
  /-- COPY (R308). Issues a block copy to the copy engine. -/
  | copy (rb : BitVec 5) (ra : BitVec 3) (stl : BitVec 2)
  /-- GATH (R309). Issues an indexed gather. -/
  | gath (rb : BitVec 5) (ra : BitVec 3) (stl : BitVec 2)
  /-- GATH_CB (R310). Issues a gather of whole CB128 rows. -/
  | gathCb (rb : BitVec 5) (ra : BitVec 3) (stl : BitVec 2)
  /-- SCAT (R309). Issues an indexed scatter. -/
  | scat (rb : BitVec 5) (ra : BitVec 3) (stl : BitVec 2)
  /-- MGOPEN (R312). Opens a merge context. -/
  | mgopen (rb ra : BitVec 5) (stl : BitVec 2)
  /-- MGFEED (R313). Feeds one sorted run on a stream. -/
  | mgfeed (rb : BitVec 5) (ra : BitVec 3) (stl : BitVec 2)
  /-- MGCLOSE (R315). Closes a merge context and writes its CB128 output. -/
  | mgclose (ra : BitVec 5) (stl : BitVec 2)
  /-- QFENCE (R307). Waits for this core's commands to the named queues. -/
  | qfence (qs : BitVec 5) (stl : BitVec 2)
  /-- EVWAIT (R303). Waits for, reads and clears an event line. -/
  | evwait (nb : BitVec 1) (ev : BitVec 3) (rd : BitVec 5) (stl : BitVec 2)
  /-- SBIND (R265). Binds a stream generator to a register. -/
  | sbind (dir : BitVec 1) (sz : BitVec 3) (gen : BitVec 2) (ra : BitVec 3) (rd : BitVec 4) (stl : BitVec 2)
  /-- SUNBIND (R265). Unbinds a stream generator. -/
  | sunbind (gen stl : BitVec 2)
  /-- BANKSET (R273). Requests a cluster bank mode and waits for the outcome. -/
  | bankset (mode : BitVec 2) (ra : BitVec 5) (pd : BitVec 3) (stl : BitVec 2)
  /-- SPSET (R273). Resizes the core scratchpad. -/
  | spset (ra : BitVec 5) (pd : BitVec 3) (stl : BitVec 2)
  /-- AADD (R327). Atomic integer add at memory. -/
  | aadd (noRet : BitVec 1) (ty rb ra rd : BitVec 5) (stl : BitVec 2)
  /-- AAND (R327). Atomic AND. -/
  | aand (noRet : BitVec 1) (ty rb ra rd : BitVec 5) (stl : BitVec 2)
  /-- AOR (R327). Atomic OR. -/
  | aor (noRet : BitVec 1) (ty rb ra rd : BitVec 5) (stl : BitVec 2)
  /-- AXOR (R327). Atomic XOR. -/
  | axor (noRet : BitVec 1) (ty rb ra rd : BitVec 5) (stl : BitVec 2)
  /-- AMIN (R327). Atomic minimum. -/
  | amin (noRet : BitVec 1) (ty rb ra rd : BitVec 5) (stl : BitVec 2)
  /-- AMAX (R327). Atomic maximum. -/
  | amax (noRet : BitVec 1) (ty rb ra rd : BitVec 5) (stl : BitVec 2)
  /-- ASWAP (R327). Atomic swap. -/
  | aswap (noRet : BitVec 1) (ty rb ra rd : BitVec 5) (stl : BitVec 2)
  /-- ACAS (R328). 64-bit atomic compare-and-swap. -/
  | acas (noRet : BitVec 1) (ty rb ra rd : BitVec 5) (stl : BitVec 2)
  /-- ACASQ (R329). 16-byte atomic compare-and-swap on register pairs. -/
  | acasq (noRet : BitVec 1) (rb : BitVec 4) (ra : BitVec 5) (rd : BitVec 4) (stl : BitVec 2)
  /-- AFADD (R330). Atomic floating-point add in RNE. -/
  | afadd (noRet : BitVec 1) (ty rb ra rd : BitVec 5) (stl : BitVec 2)
  /-- AFMIN (R330). Atomic floating-point minimumNumber. -/
  | afmin (noRet : BitVec 1) (ty rb ra rd : BitVec 5) (stl : BitVec 2)
  /-- AFMAX (R330). Atomic floating-point maximumNumber. -/
  | afmax (noRet : BitVec 1) (ty rb ra rd : BitVec 5) (stl : BitVec 2)
  /-- ATOPK (R334). Posts an entry into a top-k record. -/
  | atopk (noRet : BitVec 1) (rb ra rd : BitVec 5) (stl : BitVec 2)
  /-- VATOM (R335). Performs one atomic per indexed vector element. -/
  | vatom (noRet : BitVec 1) (op : BitVec 4) (rb ra rd : BitVec 5) (stl : BitVec 2)
  /-- AFLAG (R332). Reads and clears the home slice's atomic flag register. -/
  | aflag (ra rd : BitVec 5) (stl : BitVec 2)
  /-- FENCE (R262). Release then acquire at a scope. -/
  | fence (scope : BitVec 3) (stl : BitVec 2)
  /-- TFENCE (R263). Fence plus write-back and TLB invalidation. -/
  | tfence (page : BitVec 1) (scope : BitVec 3) (ra : BitVec 5) (stl : BitVec 2)
  /-- BMASK (R339). Writes the barrier channel membership mask. -/
  | bmask (ra : BitVec 5) (stl : BitVec 2)
  /-- BARV (R340). Arrives at a wired barrier channel. -/
  | barv (ch : BitVec 4) (stl : BitVec 2)
  /-- BWAIT (R340). Waits for the channel phase to flip. -/
  | bwait (ch : BitVec 4) (stl : BitVec 2)
  /-- BTEST (R340). Tests the channel phase without waiting. -/
  | btest (ch : BitVec 4) (pd : BitVec 3) (stl : BitVec 2)
  /-- MBINIT (R345). Initialises a barrier object. -/
  | mbinit (rb ra : BitVec 5) (stl : BitVec 2)
  /-- MBARV (R345). Releases and arrives at a barrier object. -/
  | mbarv (scope : BitVec 3) (ra rd : BitVec 5) (stl : BitVec 2)
  /-- MBWAIT (R345). Waits for a barrier object generation or error phase. -/
  | mbwait (scope : BitVec 3) (rb ra rd : BitVec 5) (stl : BitVec 2)
  /-- MBTEST (R345). Reads a barrier object's state with acquire. -/
  | mbtest (scope : BitVec 3) (ra rd : BitVec 5) (stl : BitVec 2)
  /-- SWINIT (R347). Initialises a sync word target. -/
  | swinit (rb ra : BitVec 5) (stl : BitVec 2)
  /-- SWWAIT (R347). Waits for a sync word generation to change. -/
  | swwait (scope : BitVec 3) (rb ra rd : BitVec 5) (stl : BitVec 2)
  /-- SWTEST (R347). Reads a sync word with acquire. -/
  | swtest (scope : BitVec 3) (ra rd : BitVec 5) (stl : BitVec 2)
  /-- QPUSH (R269). Pushes a word to a cluster FIFO queue. -/
  | qpush (nb : BitVec 1) (qn : BitVec 4) (ra : BitVec 5) (pd : BitVec 3) (stl : BitVec 2)
  /-- QPOP (R269). Pops a word from a cluster FIFO queue. -/
  | qpop (nb : BitVec 1) (qn : BitVec 4) (pd : BitVec 3) (rd : BitVec 5) (stl : BitVec 2)
  /-- QSEND (R271). Sends a word of a packet to a queue of any cluster. -/
  | qsend (last : BitVec 1) (rb ra : BitVec 5) (stl : BitVec 2)
  /-- INDESC (R210). Reads an input descriptor word or field. -/
  | indesc (sel : BitVec 3) (word slot : BitVec 2) (rd : BitVec 5) (stl : BitVec 2)
  /-- EMIT (R212). Checks and buffers one product. -/
  | emit (ra : BitVec 3) (stl : BitVec 2)
  /-- EMITV (R212). Checks and buffers an array of products. -/
  | emitv (rb ra : BitVec 5) (stl : BitVec 2)
  /-- COMMIT (R213). Ends the firing: releases, inserts products and removes inputs. -/
  | commit (stl : BitVec 2)
  /-- ABORT (R216). Ends the firing without effect on the pool, running any undo stack. -/
  | abort (stl : BitVec 2)
  /-- BOP (R222). Declares a boosted operation in the conflict filter and undo stack. -/
  | bop (kHi : BitVec 1) (rb ra kLo : BitVec 5) (stl : BitVec 2)
  /-- BOP_END (R225). Closes the open operation section. -/
  | bopEnd (stl : BitVec 2)
  /-- IDEM (R217). Closes the idempotent region and opens one with a live-in mask. -/
  | idem (ra : BitVec 5) (stl : BitVec 2)
  /-- KLD (R220). Reads a constant of the region's bank. -/
  | kld (kn rd : BitVec 5) (stl : BitVec 2)
  /-- KLD_X (R220). Reads a constant indexed by a register. -/
  | kldX (ra rd : BitVec 5) (stl : BitVec 2)
  /-- TRAP (R374). Traps SYS with an immediate. -/
  | trap (nHi nMid nLo : BitVec 5) (stl : BitVec 2)
  /-- ERET (R375). Resumes the interrupted context at cr.epc. -/
  | eret (stl : BitVec 2)
  /-- ERET_FAULT (R371). Faults the region from the handler. -/
  | eretFault (stl : BitVec 2)
  /-- ERET_END (R375). Ends a compatibility thread. -/
  | eretEnd (stl : BitVec 2)
  /-- CRR (R376). Reads a control register. -/
  | crr (cr rd : BitVec 5) (stl : BitVec 2)
  /-- CRW (R376). Writes a control register with its checks. -/
  | crw (cr ra : BitVec 5) (stl : BitVec 2)
  /-- IDS (R376). Reads the identification word. -/
  | ids (rd : BitVec 5) (stl : BitVec 2)
  /-- WAITI (R377). Waits for an event line, a pre-emption request or a timeout. -/
  | waiti (ra rd : BitVec 5) (stl : BitVec 2)
  /-- RSPAWN (R378). Activates a child region. -/
  | rspawn (ra rd : BitVec 5) (stl : BitVec 2)
  /-- CTXSW (R379). Saves the context and switches to another context block. -/
  | ctxsw (ra : BitVec 5) (stl : BitVec 2)
  /-- C_ILL (R150). Traps ILLOP. -/
  | cIll (n : BitVec 11)
  /-- C_MOV (R178). Copies a register. -/
  | cMov (rs rd : BitVec 5)
  /-- C_ADDI (R178). Adds a 6-bit immediate to a register. -/
  | cAddi (imm : BitVec 6) (rd : BitVec 5)
  /-- C_ADD (R178). Adds a register into another. -/
  | cAdd (rs rd : BitVec 5)
  /-- C_SUB (R178). Subtracts a register from another. -/
  | cSub (rs rd : BitVec 5)
  /-- C_LDD (R178). Loads a doubleword relative to sp. -/
  | cLdd (uoff : BitVec 6) (rd : BitVec 5)
  /-- C_STD (R178). Stores a doubleword relative to sp. -/
  | cStd (uoff : BitVec 6) (rs : BitVec 5)
  /-- C_BEQZ (R178). Branches when a register is zero. -/
  | cBeqz (off : BitVec 6) (rs : BitVec 5)
  /-- C_BNEZ (R178). Branches when a register is nonzero. -/
  | cBnez (off : BitVec 6) (rs : BitVec 5)
  /-- C_J (R178). Short jump. -/
  | cJ (off : BitVec 11)
  /-- C_RET (R178). Returns through lr. -/
  | cRet
  /-- C_WAIT (R377). WAITI with zero operands. -/
  | cWait
  /-- C_NOP (R178). Does nothing. -/
  | cNop
  /-- C_CMT (R178). COMMIT in compact form. -/
  | cCmt
  /-- NOTIFY (R78). Host write to a queue notify register; the device reads WIDX. -/
  | notify (func proc slot : Nat)
  /-- NOP (R82). Launch packet with no effect. -/
  | nop (func proc slot : Nat)
  /-- START (R82). Launch packet activating a region, optionally held. -/
  | start (func proc slot : Nat)
  /-- SEED (R85). Launch packet inserting descriptors, optionally releasing a held region. -/
  | seed (func proc slot : Nat)
  /-- AWAIT (R82). Launch packet holding the queue until the region completes. -/
  | await (func proc slot : Nat)
  /-- AWAIT_COMPLETION (R82). The awaited region's DONE is observed and RESULT written. -/
  | awaitCompletion (func proc slot : Nat)
  /-- SIGNAL (R82). Launch packet storing a value and optionally raising MSI-X. -/
  | signal (func proc slot : Nat)
  /-- COPY_PACKET (R82). Launch packet copying bytes. -/
  | copyPacket (func proc slot : Nat)
  /-- CPJUMP (R82). Launch packet handing a command stream to the command processor. -/
  | cpjump (func proc slot : Nat)
  /-- CMD_LOOP (R89). Command repeating the next SPAN commands. -/
  | cmdLoop (func proc slot : Nat)
  /-- CMD_IF (R89). Command skipping commands on a false condition. -/
  | cmdIf (func proc slot : Nat)
  /-- CMD_START (R89). Command activating a region. -/
  | cmdStart (func proc slot : Nat)
  /-- CMD_SEED (R89). Command seeding a region. -/
  | cmdSeed (func proc slot : Nat)
  /-- CMD_WAIT (R89). Command waiting on a word condition or region DONE. -/
  | cmdWait (func proc slot : Nat)
  /-- CMD_SIGNAL (R89). Command storing a value and optionally interrupting. -/
  | cmdSignal (func proc slot : Nat)
  /-- CMD_RET (R89). Ends the stream and completes the CPJUMP packet. -/
  | cmdRet (func proc slot : Nat)
  /-- ROOT (R443). Writes a process's root table and enable, ignored while it has active regions. -/
  | root (func : Nat) (val : Word)
  /-- QVA (R77). Registers a queue descriptor in a slot. -/
  | qva (func : Nat) (val : Word)
  /-- QOFF (R443). Disables a queue slot after its packets complete. -/
  | qoff (func : Nat) (val : Word)
  /-- FTAIL (R443). Host consumes fault records, freeing room for held records. -/
  | ftail (func : Nat) (val : Word)
  /-- NTAIL (R443). Host consumes notices, freeing room for held notices. -/
  | ntail (func : Nat) (val : Word)
  /-- RETRY (R387). Reply that invalidates the page's TLB entries and retries joined accesses. -/
  | retry (func : Nat) (id : BitVec 32)
  /-- DELIVER (R387). Reply that makes joined accesses raise TFAULT into their handlers. -/
  | deliver (func : Nat) (id : BitVec 32)
  /-- NREL (R446). Releases a held escalation so the kill proceeds. -/
  | nrel (func : Nat) (val : Word)
  /-- CSTART (R447). Requests a compatibility thread start. -/
  | cstart (func : Nat) (val : Word)
  /-- COMPAT_THREAD_LOAD (R447). The named core becomes idle and loads the thread's context and handler images. -/
  | compatThreadLoad (core : Nat)
  /-- FRESET (R448). Resets a function. -/
  | freset (func : Nat) (val : Word)
  /-- SLEN (R92). Sets a function's slice length, rejecting values out of range. -/
  | slen (val : Word)
  /-- MAP (R100). Loads a slice map from an image, refused under R100. -/
  | map (val : Word)
  /-- NVEC (R444). Sets a VF's MSI-X count for its next enable. -/
  | nvec (val : Word)
  /-- REGISTER_WRITE (R443). Write to a control-page register with no behaviour of its own. -/
  | registerWrite (func off : Nat) (val : Word)
  /-- POWER_ON (R449). Boot ROM verifies and loads firmware or enters FAILED. -/
  | powerOn (image1 image2 : Bool)
  /-- LIFECYCLE_CHANGE (R450). Life-cycle state change with a full memory wipe. -/
  | lifecycleChange (dest : BitVec 2) (b0 nb : Nat)
  /-- ATTESTATION (R451). Management request returning a signed attestation. -/
  | attestation (nonce : BitVec 512)
  /-- SIEVE_MATCH (R107). A sieve searches one region and logical slice and reserves a group. -/
  | sieveMatch (slice : Nat)
  /-- OVERFLOW_SWEEP (R105). A sieve evaluates rules over resident and overflow tiles and makes room. -/
  | overflowSweep (region lslice : Nat)
  /-- GROUP_ARRIVAL (R113). An offered group reaches a cluster and is accepted or returned. -/
  | groupArrival (group cluster : Nat)
  /-- DISPATCH (R129). A core receives a fresh workspace, firing block and PC. -/
  | dispatch (group : Nat)
  /-- PRODUCT_INSERT (R388). A product reaches its home slice, is inserted and acknowledged. -/
  | productInsert (firing index : Nat)
  /-- PRODUCT_ACK (R388). An acknowledgement reaches the group's slice; the firing leaves flight. -/
  | productAck (firing index : Nat)
  /-- STABILITY_WAVE (R393). Every 4,096 cycles each slice samples idle and dirty bits. -/
  | stabilityWave (slice : Nat)
  /-- WAVE_REPORT (R394). Wave results reach the scheduler; a region passes, ending a step or completing. -/
  | waveReport
  /-- REGION_COMPLETE (R395). A draining region with nothing in flight writes its counters, STATUS and DONE. -/
  | regionComplete (region : Nat)
  /-- COMPLETION_TILE (R71). A completion tile reaches the parent's home slice and is inserted or dropped. -/
  | completionTile (region : Nat)
  /-- SLICE_END (R93). A function's time slice expires, pre-empting its firings and saving state. -/
  | sliceEnd
  /-- SLICE_START (R237). A function takes the partition and its saved state is restored. -/
  | sliceStart (func : Nat)
  /-- PREEMPT_STOP (R382). A core reaches a stoppable point; the firing is released or kept. -/
  | preemptStop (core : Nat)
  /-- FIRING_RESUME (R384). A kept firing resumes on a free core of its cluster. -/
  | firingResume (firing : Nat)
  /-- BTIME_EXPIRY (R67). TRUN exceeds BTIME and the region drains. -/
  | btimeExpiry (region : Nat)
  /-- BUDGET (R372). A firing in flight takes the BUDGET trap at an instruction boundary. -/
  | budget (core : Nat)
  /-- CONFLICT_ABORT (R223). A notified boosted firing aborts at its first boundary with OPEN 0. -/
  | conflictAbort (firing : Nat)
  /-- SFU_COMPLETE (R189). An SFU request reaches the head and writes its result and flags. -/
  | sfuComplete (cluster : Nat)
  /-- ENGINE_PERFORM (R304). An engine queue begins its next command. -/
  | enginePerform (cluster engine : Nat)
  /-- ENGINE_PIECE (R346). A piece of a command is performed and raises its sync word. -/
  | enginePiece (cluster engine : Nat)
  /-- ENGINE_REPORT (R302). A data command completes and reports to its object or event line. -/
  | engineReport (cluster engine : Nat)
  /-- STAGING_PERFORM (R280). The staging queue performs an ASTAGE or PLOAD. -/
  | stagingPerform (cluster cell : Nat)
  /-- MATRIX_PERFORM (R287). The matrix queue performs a product, accumulating or parking on error. -/
  | matrixPerform (cluster cell : Nat)
  /-- PANEL_RELOAD (R295). In hardware mode the loader reloads an absent panel and resumes the product. -/
  | panelReload (cluster cell : Nat)
  /-- PHASE_FLIP (R340). A channel group's phase flips and reaches its members. -/
  | phaseFlip (channel span unit func : Nat)
  /-- BANK_MODE_CHANGE (R236). A requested bank mode takes effect after earlier accesses drain. -/
  | bankModeChange (cluster bank : Nat)
  /-- QSEND_BOUND_EXPIRY (R384). An open packet not accepted within 2^24 cycles is closed and its firing aborted. -/
  | qsendBoundExpiry (core : Nat)
  /-- WAITI_TIMEOUT (R377). A WAITI ends after 4,096 control cycles. -/
  | waitiTimeout (core : Nat)
  /-- CLAIM_HOLDOFF_EXPIRY (R288). The 4,096-cycle dispatch hold-off after a failed claim ends. -/
  | claimHoldoffExpiry (cluster cell : Nat)
  /-- DESCRIPTOR_ECC_ERROR (R32). An uncorrectable error destroys a descriptor. -/
  | descriptorEccError (region lslice age : Nat)
  /-- ENGINE_INTERNAL_ERROR (R397). An engine command is replayed from its record. -/
  | engineInternalError (cluster engine : Nat)
  /-- DISPATCH_LOST (R397). A lost dispatch is offered again from its record. -/
  | dispatchLost (group : Nat)
  /-- DECODE_FAULT (R154). An encoding that is not an instruction (reserved major, function code, field value or nonzero reserved bit) reaches decode and traps ILLOP. -/
  | decodeFault (bits : BitVec 32)
  /-- FETCH_FAULT (R137). The fetch of an instruction halfword or literal takes TFAULT, AFAULT or POISON before the instruction is known. -/
  | fetchFault (cause : BitVec 8) (addr : Word)
  /-- UNCORRECTABLE_ERROR (R254). A soft error leaves an 8-byte ECC granule of memory or column store poisoned in one copy. -/
  | uncorrectableError (copy : BitVec 3) (holder granule : Nat)
  /-- RESET (R450). A module reset returns the device to BOOT, wiping every memory and returning fenced cores to service. -/
  | reset
  /-- VF_ENABLE (R444). The host enables a virtual function, at which its pending MSI-X count takes effect. -/
  | vfEnable (func : Nat)
  /-- COMPAT_THREAD_RESUME (R385). A stopped compatibility thread is resumed from its save area, which clears VALID. -/
  | compatThreadResume (core : Nat)
  deriving DecidableEq, Repr

end Sys2Proof
end

