-- ==== Sys2Proof/WellFormed.lean ====
section
/-! DEFINITION. Which terms of Instr are well formed: the checks on field values that decode makes beyond the fixed
bits of a row (spec/08_encoding.md R138 to R154 and the encoding tables of the instruction chapters), and the ranges of
the places a device step may name. -/

namespace Sys2Proof

/-- A register number that names the low half of a pair is even (R144, R153). -/
def evenReg (r : BitVec 5) : Bool := r.toNat % 2 == 0

/-- The FT values of R148 that stand for a defined tag of R34. -/
def definedTag5 (v : BitVec 5) : Bool := decide (v.toNat ≤ 8) || decide (16 ≤ v.toNat ∧ v.toNat ≤ 23)

/-- FCVT's pair of conversion indexes: both defined, different, and not both integer formats (R148, R153). -/
def convPairOk (src dst : BitVec 4) : Bool :=
  decide (src.toNat ≤ 13) && decide (dst.toNat ≤ 13) && src != dst && !(decide (src.toNat < 8) && decide (dst.toNat < 8))

/-- The element types of AADD to AMAX (R153). -/
def intAtomTy (ty : BitVec 5) : Bool := ty == 3 || ty == 4 || ty == 7 || ty == 8

/-- The element types of AFADD, AFMIN and AFMAX (R153). -/
def floatAtomTy (ty : BitVec 5) : Bool := decide (0x13 ≤ ty.toNat ∧ ty.toNat ≤ 0x17)

/-- In a no-return form the RD field is reserved (R146). -/
def noRetOk (noRet : BitVec 1) (rd : BitVec 5) : Bool := noRet == 0 || rd == 0

/-- A queue is named by its function, process and slot (R77, R92, R94). -/
def queueOk (func proc slot : Nat) : Bool := decide (func ≤ 63) && decide (proc ≤ 255) && decide (slot ≤ 63)

/-- The bays of a partition are an aligned group of 1, 2, 4 or 8 (R91). -/
def baysOk (b0 nb : Nat) : Bool :=
  (nb == 1 || nb == 2 || nb == 4 || nb == 8) && b0 % nb == 0 && decide (b0 + nb ≤ 8)

/-- The check of an instruction or step. -/
def wf (i : Instr) : Bool :=
  match i with
  | .add _ _ _ _ _ _ => true
  | .addL _ _ _ _ _ => true
  | .sub _ _ _ _ _ _ => true
  | .subL _ _ _ _ _ => true
  | .and _ _ _ _ _ _ => true
  | .andL _ _ _ _ _ => true
  | .or _ _ _ _ _ _ => true
  | .orL _ _ _ _ _ => true
  | .xor _ _ _ _ _ _ => true
  | .xorL _ _ _ _ _ => true
  | .andn _ _ _ _ _ _ => true
  | .andnL _ _ _ _ _ => true
  | .sll _ _ _ _ _ _ => true
  | .sllL _ _ _ _ _ => true
  | .srl _ _ _ _ _ _ => true
  | .srlL _ _ _ _ _ => true
  | .sra _ _ _ _ _ _ => true
  | .sraL _ _ _ _ _ => true
  | .ror _ _ _ _ _ _ => true
  | .rorL _ _ _ _ _ => true
  | .mul _ _ _ _ _ _ => true
  | .mulL _ _ _ _ _ => true
  | .mulh _ _ _ _ _ _ => true
  | .mulhL _ _ _ _ _ => true
  | .mulhu _ _ _ _ _ _ => true
  | .mulhuL _ _ _ _ _ => true
  | .div _ _ _ _ _ _ => true
  | .divL _ _ _ _ _ => true
  | .divu _ _ _ _ _ _ => true
  | .divuL _ _ _ _ _ => true
  | .rem _ _ _ _ _ _ => true
  | .remL _ _ _ _ _ => true
  | .remu _ _ _ _ _ _ => true
  | .remuL _ _ _ _ _ => true
  | .min _ _ _ _ _ _ => true
  | .minL _ _ _ _ _ => true
  | .max _ _ _ _ _ _ => true
  | .maxL _ _ _ _ _ => true
  | .minu _ _ _ _ _ _ => true
  | .minuL _ _ _ _ _ => true
  | .maxu _ _ _ _ _ _ => true
  | .maxuL _ _ _ _ _ => true
  | .clz _ _ _ _ => true
  | .ctz _ _ _ _ => true
  | .popc _ _ _ _ => true
  | .sel _ _ _ _ _ => true
  | .selL _ _ _ _ _ => true
  | .cmp _ _ _ _ _ _ _ => true
  | .cmpL _ _ _ _ _ _ => true
  | .plog _ _ _ _ _ _ => true
  | .addi _ _ _ _ => true
  | .andi _ _ _ _ => true
  | .ori _ _ _ _ => true
  | .xori _ _ _ _ => true
  | .slli _ _ _ _ => true
  | .srli _ _ _ _ => true
  | .srai _ _ _ _ => true
  | .cmpi _ _ _ _ _ => true
  | .lui _ _ => true
  | .fli _ _ => true
  | .faddi _ _ => true
  | .fmuli _ _ => true
  | .beq _ _ _ _ => true
  | .bne _ _ _ _ => true
  | .blt _ _ _ _ => true
  | .bge _ _ _ _ => true
  | .bltu _ _ _ _ => true
  | .bgeu _ _ _ _ => true
  | .bpt _ _ _ => true
  | .bpf _ _ _ => true
  | .jal _ _ _ => true
  | .jalr _ _ _ _ => true
  | .loop _ _ _ => true
  | .ld _ _ _ sz _ rd _ => sz != 4 || evenReg rd
  | .st _ _ _ sz _ rd _ => sz.toNat ≤ 4 && (sz != 4 || evenReg rd)
  | .pref _ _ _ _ => true
  | .disc _ _ _ => true
  | .fadd _ w _ _ _ _ => w != 3
  | .faddL w _ _ _ _ => w != 3
  | .fsub _ w _ _ _ _ => w != 3
  | .fsubL w _ _ _ _ => w != 3
  | .fmul _ w _ _ _ _ => w != 3
  | .fmulL w _ _ _ _ => w != 3
  | .fdiv _ w _ _ _ _ => w != 3
  | .fdivL w _ _ _ _ => w != 3
  | .fsqrt w _ _ _ => w != 3
  | .fma _ w _ _ _ _ => w != 3
  | .fmaL w _ _ _ _ => w != 3
  | .fmad _ w _ _ _ _ => w != 3
  | .fmadL w _ _ _ _ => w != 3
  | .fnma _ w _ _ _ _ => w != 3
  | .fnmaL w _ _ _ _ => w != 3
  | .fmin _ w _ _ _ _ => w != 3
  | .fminL w _ _ _ _ => w != 3
  | .fmax _ w _ _ _ _ => w != 3
  | .fmaxL w _ _ _ _ => w != 3
  | .fsgn var w _ _ _ _ => var != 3 && w != 3
  | .fcmp _ w _ _ _ _ _ => w != 3
  | .fcmpL w _ _ _ _ _ => w != 3
  | .fclass w _ _ _ => w != 3
  | .fcvt src dst _ _ _ => convPairOk src dst
  | .fex2 _ _ _ => true
  | .flg2 _ _ _ => true
  | .frcp _ _ _ => true
  | .frsq _ _ _ => true
  | .fsinp _ _ _ => true
  | .fcosp _ _ _ => true
  | .vadd _ _ _ _ _ _ => true
  | .vsub _ _ _ _ _ _ => true
  | .vmul _ _ _ _ _ _ => true
  | .vfma _ _ _ _ _ _ => true
  | .vdiv _ _ _ _ _ _ => true
  | .vsqrt _ _ _ _ => true
  | .vmin _ _ _ _ _ _ => true
  | .vmax _ _ _ _ _ _ => true
  | .vabs _ _ _ _ => true
  | .vneg _ _ _ _ => true
  | .vand _ _ _ _ _ _ => true
  | .vor _ _ _ _ _ _ => true
  | .vxor _ _ _ _ _ _ => true
  | .vshl _ _ _ _ _ _ => true
  | .vshr _ _ _ _ _ _ => true
  | .vsra _ _ _ _ _ _ => true
  | .vcmp _ _ _ _ _ _ _ => true
  | .vsel _ _ _ _ _ _ => true
  | .vcvt _ ft _ _ _ => definedTag5 ft
  | .vsfu _ fn _ _ _ => fn.toNat ≤ 5
  | .vclaim lg _ _ => lg.toNat ≤ 5
  | .vrel _ => true
  | .vlen _ _ => true
  | .vld _ ft _ _ _ => definedTag5 ft
  | .vlds _ _ _ _ _ => true
  | .vldx _ _ _ _ _ => true
  | .vst _ _ _ _ => true
  | .vsts _ _ _ _ _ => true
  | .vstx _ _ _ _ _ => true
  | .vbc _ ft _ _ _ => definedTag5 ft
  | .vperm _ _ _ _ _ => true
  | .vslide _ _ _ _ _ => true
  | .vred _ op _ _ _ => op.toNat ≤ 5
  | .vscan _ op _ _ _ => op.toNat ≤ 5
  | .vmop _ _ _ _ _ _ => true
  | .vtag ft _ _ => definedTag5 ft
  | .vxtr _ _ _ _ => true
  | .mzero _ _ _ => true
  | .mzeroG _ _ _ _ => true
  | .mma _ _ _ _ => true
  | .mmaResume _ _ _ _ => true
  | .mmag _ _ _ _ => true
  | .mmagResume _ _ _ _ => true
  | .mdrain _ _ _ _ _ => true
  | .mfill _ _ _ _ => true
  | .astage _ _ _ _ => true
  | .pload _ _ _ _ => true
  | .pevict _ _ => true
  | .pstat _ _ _ _ => true
  | .hspost _ _ => true
  | .hswait _ _ => true
  | .copy _ _ _ => true
  | .gath _ _ _ => true
  | .gathCb _ _ _ => true
  | .scat _ _ _ => true
  | .mgopen _ _ _ => true
  | .mgfeed _ _ _ => true
  | .mgclose _ _ => true
  | .qfence qs _ => qs != 0
  | .evwait _ _ _ _ => true
  | .sbind dir sz _ _ _ _ => sz != 4 && (dir == 0 || sz.toNat < 5)
  | .sunbind _ _ => true
  | .bankset mode _ _ _ => mode != 3
  | .spset _ _ _ => true
  | .aadd noRet ty _ _ rd _ => intAtomTy ty && noRetOk noRet rd
  | .aand noRet ty _ _ rd _ => intAtomTy ty && noRetOk noRet rd
  | .aor noRet ty _ _ rd _ => intAtomTy ty && noRetOk noRet rd
  | .axor noRet ty _ _ rd _ => intAtomTy ty && noRetOk noRet rd
  | .amin noRet ty _ _ rd _ => intAtomTy ty && noRetOk noRet rd
  | .amax noRet ty _ _ rd _ => intAtomTy ty && noRetOk noRet rd
  | .aswap noRet ty _ _ rd _ => (intAtomTy ty || ty == 0) && noRetOk noRet rd
  | .acas _ ty _ _ _ _ => ty == 4 || ty == 8 || ty == 0
  | .acasq _ _ _ _ _ => true
  | .afadd noRet ty _ _ rd _ => floatAtomTy ty && noRetOk noRet rd
  | .afmin noRet ty _ _ rd _ => floatAtomTy ty && noRetOk noRet rd
  | .afmax noRet ty _ _ rd _ => floatAtomTy ty && noRetOk noRet rd
  | .atopk noRet _ _ rd _ => noRetOk noRet rd
  | .vatom _ op _ _ _ _ => op.toNat ≤ 6 || (9 ≤ op.toNat && op.toNat ≤ 11)
  | .aflag _ _ _ => true
  | .fence scope _ => scope.toNat ≤ 4
  | .tfence page scope ra _ => scope.toNat ≤ 4 && (page == 1 || ra == 0)
  | .bmask _ _ => true
  | .barv ch _ => ch != 15
  | .bwait ch _ => ch != 15
  | .btest ch _ _ => ch != 15
  | .mbinit _ _ _ => true
  | .mbarv scope _ _ _ => scope.toNat ≤ 4
  | .mbwait scope _ _ _ _ => scope.toNat ≤ 4
  | .mbtest scope _ _ _ => scope.toNat ≤ 4
  | .swinit _ _ _ => true
  | .swwait scope _ _ _ _ => scope.toNat ≤ 4
  | .swtest scope _ _ _ => scope.toNat ≤ 4
  | .qpush nb _ _ pd _ => nb == 1 || pd == 0
  | .qpop nb _ pd _ _ => nb == 1 || pd == 0
  | .qsend _ _ _ _ => true
  | .indesc sel word _ _ _ => sel == 0 || word == 0
  | .emit _ _ => true
  | .emitv _ _ _ => true
  | .commit _ => true
  | .abort _ => true
  | .bop _ _ _ _ _ => true
  | .bopEnd _ => true
  | .idem _ _ => true
  | .kld _ _ _ => true
  | .kldX _ _ _ => true
  | .trap _ _ _ _ => true
  | .eret _ => true
  | .eretFault _ => true
  | .eretEnd _ => true
  | .crr cr _ _ => cr.toNat ≤ 10
  | .crw cr _ _ => cr.toNat ≤ 10
  | .ids _ _ => true
  | .waiti _ _ _ => true
  | .rspawn _ _ _ => true
  | .ctxsw _ _ => true
  | .cIll _ => true
  | .cMov _ _ => true
  | .cAddi _ _ => true
  | .cAdd _ _ => true
  | .cSub _ _ => true
  | .cLdd _ _ => true
  | .cStd _ _ => true
  | .cBeqz _ _ => true
  | .cBnez _ _ => true
  | .cJ _ => true
  | .cRet => true
  | .cWait => true
  | .cNop => true
  | .cCmt => true
  | .notify func proc slot => queueOk func proc slot
  | .nop func proc slot => queueOk func proc slot
  | .start func proc slot => queueOk func proc slot
  | .seed func proc slot => queueOk func proc slot
  | .await func proc slot => queueOk func proc slot
  | .awaitCompletion func proc slot => queueOk func proc slot
  | .signal func proc slot => queueOk func proc slot
  | .copyPacket func proc slot => queueOk func proc slot
  | .cpjump func proc slot => queueOk func proc slot
  | .cmdLoop func proc slot => queueOk func proc slot
  | .cmdIf func proc slot => queueOk func proc slot
  | .cmdStart func proc slot => queueOk func proc slot
  | .cmdSeed func proc slot => queueOk func proc slot
  | .cmdWait func proc slot => queueOk func proc slot
  | .cmdSignal func proc slot => queueOk func proc slot
  | .cmdRet func proc slot => queueOk func proc slot
  | .root func _ => decide (func ≤ 63)
  | .qva func _ => decide (func ≤ 63)
  | .qoff func _ => decide (func ≤ 63)
  | .ftail func _ => decide (func ≤ 63)
  | .ntail func _ => decide (func ≤ 63)
  | .retry func _ => decide (func ≤ 63)
  | .deliver func _ => decide (func ≤ 63)
  | .nrel func _ => decide (func ≤ 63)
  | .cstart func _ => decide (func ≤ 63)
  | .compatThreadLoad core => decide (core < 4096)
  | .freset func _ => decide (func ≤ 63)
  | .slen _ => true
  | .map _ => true
  | .nvec _ => true
  | .registerWrite func _ _ => decide (func ≤ 63)
  | .powerOn _ _ => true
  | .lifecycleChange _ b0 nb => baysOk b0 nb
  | .attestation _ => true
  | .sieveMatch slice => decide (slice < 1024)
  | .overflowSweep _ lslice => decide (lslice < 8192)
  | .groupArrival _ cluster => decide (cluster < 256)
  | .dispatch _ => true
  | .productInsert _ index => decide (index < 64)
  | .productAck _ index => decide (index < 64)
  | .stabilityWave slice => decide (slice < 1024)
  | .waveReport => true
  | .regionComplete _ => true
  | .completionTile _ => true
  | .sliceEnd => true
  | .sliceStart func => decide (func ≤ 63)
  | .preemptStop core => decide (core < 4096)
  | .firingResume _ => true
  | .btimeExpiry _ => true
  | .budget core => decide (core < 4096)
  | .conflictAbort _ => true
  | .sfuComplete cluster => decide (cluster < 256)
  | .enginePerform cluster engine => decide (cluster < 256) && decide (engine < 3)
  | .enginePiece cluster engine => decide (cluster < 256) && decide (engine < 3)
  | .engineReport cluster engine => decide (cluster < 256) && decide (engine < 3)
  | .stagingPerform cluster cell => decide (cluster < 256) && decide (cell < 4)
  | .matrixPerform cluster cell => decide (cluster < 256) && decide (cell < 4)
  | .panelReload cluster cell => decide (cluster < 256) && decide (cell < 4)
  | .phaseFlip channel span _ _ => decide (channel < 15) && decide (span < 3)
  | .bankModeChange cluster bank => decide (cluster < 256) && decide (bank < 64)
  | .qsendBoundExpiry core => decide (core < 4096)
  | .waitiTimeout core => decide (core < 4096)
  | .claimHoldoffExpiry cluster cell => decide (cluster < 256) && decide (cell < 4)
  | .descriptorEccError _ lslice _ => decide (lslice < 8192)
  | .engineInternalError cluster engine => decide (cluster < 256) && decide (engine < 3)
  | .dispatchLost _ => true
  | .decodeFault _ => true
  | .fetchFault cause _ => cause == 6 || cause == 7 || cause == 8
  | .uncorrectableError _ _ _ => true
  | .reset => true
  | .vfEnable func => decide (func ≤ 63)
  | .compatThreadResume core => decide (core < 4096)

/-- An instruction whose fields the encoding admits. -/
abbrev WellFormed (i : Instr) : Prop := wf i = true

end Sys2Proof
end

