-- ==== Sys2Proof/Decode.lean ====
section
/-! DEFINITION. Decode and encode (spec/08_encoding.md). Decode is total on any bytes and rejects by name; every
rejection is an ILLOP of R154. The encoder is written from the same field layouts. Words are read as numbers: bit 0 is
the least significant bit of the first halfword (R1, R135). -/

namespace Sys2Proof

/-- Why an encoding is not an instruction (R154). -/
inductive Reject where
  /-- MAJ 0xF, or CMAJ 14 or 15. -/
  | reservedMajor
  /-- A function code that R152 does not assign. -/
  | reservedFunction
  /-- A fixed or reserved bit has the wrong value. -/
  | reservedBits
  /-- A field holds a reserved value. -/
  | reservedValue
  /-- L and K are both set (R139). -/
  | literalAndConstant
  /-- Fewer bytes were given than the instruction has. -/
  | tooShort
  deriving DecidableEq, Repr

/-- The `n`-bit field of `w` whose low bit is bit `lo`. -/
def fld (w lo n : Nat) : BitVec n := BitVec.ofNat n (w / 2 ^ lo)

/-- Bits `lo + n - 1` to `lo` of `w` hold `v`. -/
def bitsAre (w lo n v : Nat) : Bool := w / 2 ^ lo % 2 ^ n == v

/-- The ALU major, MAJ 0x0 (R152). -/
def decodeAlu (w lit : Nat) : Except Reject Instr :=
  match w / 4194304 % 64 with
  | 0 =>
    if bitsAre w 29 1 0 && bitsAre w 31 1 0 then .ok (.add (fld w 30 1) (fld w 28 1) (fld w 17 5) (fld w 12 5) (fld w 7 5) (fld w 5 2)) else
    if bitsAre w 17 5 0 && bitsAre w 29 3 4 then .ok (.addL (fld w 28 1) (fld w 12 5) (fld w 7 5) (fld w 5 2) (BitVec.ofNat 32 lit)) else
    if bitsAre w 30 2 3 then .error .literalAndConstant else .error .reservedBits
  | 1 =>
    if bitsAre w 29 1 0 && bitsAre w 31 1 0 then .ok (.sub (fld w 30 1) (fld w 28 1) (fld w 17 5) (fld w 12 5) (fld w 7 5) (fld w 5 2)) else
    if bitsAre w 17 5 0 && bitsAre w 29 3 4 then .ok (.subL (fld w 28 1) (fld w 12 5) (fld w 7 5) (fld w 5 2) (BitVec.ofNat 32 lit)) else
    if bitsAre w 30 2 3 then .error .literalAndConstant else .error .reservedBits
  | 2 =>
    if bitsAre w 29 1 0 && bitsAre w 31 1 0 then .ok (.and (fld w 30 1) (fld w 28 1) (fld w 17 5) (fld w 12 5) (fld w 7 5) (fld w 5 2)) else
    if bitsAre w 17 5 0 && bitsAre w 29 3 4 then .ok (.andL (fld w 28 1) (fld w 12 5) (fld w 7 5) (fld w 5 2) (BitVec.ofNat 32 lit)) else
    if bitsAre w 30 2 3 then .error .literalAndConstant else .error .reservedBits
  | 3 =>
    if bitsAre w 29 1 0 && bitsAre w 31 1 0 then .ok (.or (fld w 30 1) (fld w 28 1) (fld w 17 5) (fld w 12 5) (fld w 7 5) (fld w 5 2)) else
    if bitsAre w 17 5 0 && bitsAre w 29 3 4 then .ok (.orL (fld w 28 1) (fld w 12 5) (fld w 7 5) (fld w 5 2) (BitVec.ofNat 32 lit)) else
    if bitsAre w 30 2 3 then .error .literalAndConstant else .error .reservedBits
  | 4 =>
    if bitsAre w 29 1 0 && bitsAre w 31 1 0 then .ok (.xor (fld w 30 1) (fld w 28 1) (fld w 17 5) (fld w 12 5) (fld w 7 5) (fld w 5 2)) else
    if bitsAre w 17 5 0 && bitsAre w 29 3 4 then .ok (.xorL (fld w 28 1) (fld w 12 5) (fld w 7 5) (fld w 5 2) (BitVec.ofNat 32 lit)) else
    if bitsAre w 30 2 3 then .error .literalAndConstant else .error .reservedBits
  | 5 =>
    if bitsAre w 29 1 0 && bitsAre w 31 1 0 then .ok (.andn (fld w 30 1) (fld w 28 1) (fld w 17 5) (fld w 12 5) (fld w 7 5) (fld w 5 2)) else
    if bitsAre w 17 5 0 && bitsAre w 29 3 4 then .ok (.andnL (fld w 28 1) (fld w 12 5) (fld w 7 5) (fld w 5 2) (BitVec.ofNat 32 lit)) else
    if bitsAre w 30 2 3 then .error .literalAndConstant else .error .reservedBits
  | 6 =>
    if bitsAre w 29 1 0 && bitsAre w 31 1 0 then .ok (.sll (fld w 30 1) (fld w 28 1) (fld w 17 5) (fld w 12 5) (fld w 7 5) (fld w 5 2)) else
    if bitsAre w 17 5 0 && bitsAre w 29 3 4 then .ok (.sllL (fld w 28 1) (fld w 12 5) (fld w 7 5) (fld w 5 2) (BitVec.ofNat 32 lit)) else
    if bitsAre w 30 2 3 then .error .literalAndConstant else .error .reservedBits
  | 7 =>
    if bitsAre w 29 1 0 && bitsAre w 31 1 0 then .ok (.srl (fld w 30 1) (fld w 28 1) (fld w 17 5) (fld w 12 5) (fld w 7 5) (fld w 5 2)) else
    if bitsAre w 17 5 0 && bitsAre w 29 3 4 then .ok (.srlL (fld w 28 1) (fld w 12 5) (fld w 7 5) (fld w 5 2) (BitVec.ofNat 32 lit)) else
    if bitsAre w 30 2 3 then .error .literalAndConstant else .error .reservedBits
  | 8 =>
    if bitsAre w 29 1 0 && bitsAre w 31 1 0 then .ok (.sra (fld w 30 1) (fld w 28 1) (fld w 17 5) (fld w 12 5) (fld w 7 5) (fld w 5 2)) else
    if bitsAre w 17 5 0 && bitsAre w 29 3 4 then .ok (.sraL (fld w 28 1) (fld w 12 5) (fld w 7 5) (fld w 5 2) (BitVec.ofNat 32 lit)) else
    if bitsAre w 30 2 3 then .error .literalAndConstant else .error .reservedBits
  | 9 =>
    if bitsAre w 29 1 0 && bitsAre w 31 1 0 then .ok (.ror (fld w 30 1) (fld w 28 1) (fld w 17 5) (fld w 12 5) (fld w 7 5) (fld w 5 2)) else
    if bitsAre w 17 5 0 && bitsAre w 29 3 4 then .ok (.rorL (fld w 28 1) (fld w 12 5) (fld w 7 5) (fld w 5 2) (BitVec.ofNat 32 lit)) else
    if bitsAre w 30 2 3 then .error .literalAndConstant else .error .reservedBits
  | 10 =>
    if bitsAre w 29 1 0 && bitsAre w 31 1 0 then .ok (.mul (fld w 30 1) (fld w 28 1) (fld w 17 5) (fld w 12 5) (fld w 7 5) (fld w 5 2)) else
    if bitsAre w 17 5 0 && bitsAre w 29 3 4 then .ok (.mulL (fld w 28 1) (fld w 12 5) (fld w 7 5) (fld w 5 2) (BitVec.ofNat 32 lit)) else
    if bitsAre w 30 2 3 then .error .literalAndConstant else .error .reservedBits
  | 11 =>
    if bitsAre w 29 1 0 && bitsAre w 31 1 0 then .ok (.mulh (fld w 30 1) (fld w 28 1) (fld w 17 5) (fld w 12 5) (fld w 7 5) (fld w 5 2)) else
    if bitsAre w 17 5 0 && bitsAre w 29 3 4 then .ok (.mulhL (fld w 28 1) (fld w 12 5) (fld w 7 5) (fld w 5 2) (BitVec.ofNat 32 lit)) else
    if bitsAre w 30 2 3 then .error .literalAndConstant else .error .reservedBits
  | 12 =>
    if bitsAre w 29 1 0 && bitsAre w 31 1 0 then .ok (.mulhu (fld w 30 1) (fld w 28 1) (fld w 17 5) (fld w 12 5) (fld w 7 5) (fld w 5 2)) else
    if bitsAre w 17 5 0 && bitsAre w 29 3 4 then .ok (.mulhuL (fld w 28 1) (fld w 12 5) (fld w 7 5) (fld w 5 2) (BitVec.ofNat 32 lit)) else
    if bitsAre w 30 2 3 then .error .literalAndConstant else .error .reservedBits
  | 13 =>
    if bitsAre w 29 1 0 && bitsAre w 31 1 0 then .ok (.div (fld w 30 1) (fld w 28 1) (fld w 17 5) (fld w 12 5) (fld w 7 5) (fld w 5 2)) else
    if bitsAre w 17 5 0 && bitsAre w 29 3 4 then .ok (.divL (fld w 28 1) (fld w 12 5) (fld w 7 5) (fld w 5 2) (BitVec.ofNat 32 lit)) else
    if bitsAre w 30 2 3 then .error .literalAndConstant else .error .reservedBits
  | 14 =>
    if bitsAre w 29 1 0 && bitsAre w 31 1 0 then .ok (.divu (fld w 30 1) (fld w 28 1) (fld w 17 5) (fld w 12 5) (fld w 7 5) (fld w 5 2)) else
    if bitsAre w 17 5 0 && bitsAre w 29 3 4 then .ok (.divuL (fld w 28 1) (fld w 12 5) (fld w 7 5) (fld w 5 2) (BitVec.ofNat 32 lit)) else
    if bitsAre w 30 2 3 then .error .literalAndConstant else .error .reservedBits
  | 15 =>
    if bitsAre w 29 1 0 && bitsAre w 31 1 0 then .ok (.rem (fld w 30 1) (fld w 28 1) (fld w 17 5) (fld w 12 5) (fld w 7 5) (fld w 5 2)) else
    if bitsAre w 17 5 0 && bitsAre w 29 3 4 then .ok (.remL (fld w 28 1) (fld w 12 5) (fld w 7 5) (fld w 5 2) (BitVec.ofNat 32 lit)) else
    if bitsAre w 30 2 3 then .error .literalAndConstant else .error .reservedBits
  | 16 =>
    if bitsAre w 29 1 0 && bitsAre w 31 1 0 then .ok (.remu (fld w 30 1) (fld w 28 1) (fld w 17 5) (fld w 12 5) (fld w 7 5) (fld w 5 2)) else
    if bitsAre w 17 5 0 && bitsAre w 29 3 4 then .ok (.remuL (fld w 28 1) (fld w 12 5) (fld w 7 5) (fld w 5 2) (BitVec.ofNat 32 lit)) else
    if bitsAre w 30 2 3 then .error .literalAndConstant else .error .reservedBits
  | 17 =>
    if bitsAre w 29 1 0 && bitsAre w 31 1 0 then .ok (.min (fld w 30 1) (fld w 28 1) (fld w 17 5) (fld w 12 5) (fld w 7 5) (fld w 5 2)) else
    if bitsAre w 17 5 0 && bitsAre w 29 3 4 then .ok (.minL (fld w 28 1) (fld w 12 5) (fld w 7 5) (fld w 5 2) (BitVec.ofNat 32 lit)) else
    if bitsAre w 30 2 3 then .error .literalAndConstant else .error .reservedBits
  | 18 =>
    if bitsAre w 29 1 0 && bitsAre w 31 1 0 then .ok (.max (fld w 30 1) (fld w 28 1) (fld w 17 5) (fld w 12 5) (fld w 7 5) (fld w 5 2)) else
    if bitsAre w 17 5 0 && bitsAre w 29 3 4 then .ok (.maxL (fld w 28 1) (fld w 12 5) (fld w 7 5) (fld w 5 2) (BitVec.ofNat 32 lit)) else
    if bitsAre w 30 2 3 then .error .literalAndConstant else .error .reservedBits
  | 19 =>
    if bitsAre w 29 1 0 && bitsAre w 31 1 0 then .ok (.minu (fld w 30 1) (fld w 28 1) (fld w 17 5) (fld w 12 5) (fld w 7 5) (fld w 5 2)) else
    if bitsAre w 17 5 0 && bitsAre w 29 3 4 then .ok (.minuL (fld w 28 1) (fld w 12 5) (fld w 7 5) (fld w 5 2) (BitVec.ofNat 32 lit)) else
    if bitsAre w 30 2 3 then .error .literalAndConstant else .error .reservedBits
  | 20 =>
    if bitsAre w 29 1 0 && bitsAre w 31 1 0 then .ok (.maxu (fld w 30 1) (fld w 28 1) (fld w 17 5) (fld w 12 5) (fld w 7 5) (fld w 5 2)) else
    if bitsAre w 17 5 0 && bitsAre w 29 3 4 then .ok (.maxuL (fld w 28 1) (fld w 12 5) (fld w 7 5) (fld w 5 2) (BitVec.ofNat 32 lit)) else
    if bitsAre w 30 2 3 then .error .literalAndConstant else .error .reservedBits
  | 21 =>
    if bitsAre w 17 5 0 && bitsAre w 29 3 0 then .ok (.clz (fld w 28 1) (fld w 12 5) (fld w 7 5) (fld w 5 2)) else
    .error .reservedBits
  | 22 =>
    if bitsAre w 17 5 0 && bitsAre w 29 3 0 then .ok (.ctz (fld w 28 1) (fld w 12 5) (fld w 7 5) (fld w 5 2)) else
    .error .reservedBits
  | 23 =>
    if bitsAre w 17 5 0 && bitsAre w 29 3 0 then .ok (.popc (fld w 28 1) (fld w 12 5) (fld w 7 5) (fld w 5 2)) else
    .error .reservedBits
  | 24 =>
    if bitsAre w 31 1 0 then .ok (.sel (fld w 28 3) (fld w 17 5) (fld w 12 5) (fld w 7 5) (fld w 5 2)) else
    if bitsAre w 17 5 0 && bitsAre w 31 1 1 then .ok (.selL (fld w 28 3) (fld w 12 5) (fld w 7 5) (fld w 5 2) (BitVec.ofNat 32 lit)) else
    .error .reservedBits
  | 25 =>
    if bitsAre w 29 1 0 && bitsAre w 31 1 0 then .ok (.cmp (fld w 30 1) (fld w 28 1) (fld w 17 5) (fld w 12 5) (fld w 10 2) (fld w 7 3) (fld w 5 2)) else
    if bitsAre w 17 5 0 && bitsAre w 29 3 4 then .ok (.cmpL (fld w 28 1) (fld w 12 5) (fld w 10 2) (fld w 7 3) (fld w 5 2) (BitVec.ofNat 32 lit)) else
    if bitsAre w 30 2 3 then .error .literalAndConstant else .error .reservedBits
  | 26 =>
    if bitsAre w 10 2 0 && bitsAre w 28 4 0 then .ok (.plog (fld w 20 2) (fld w 17 3) (fld w 15 2) (fld w 12 3) (fld w 7 3) (fld w 5 2)) else
    .error .reservedBits
  | _ => .error .reservedFunction

/-- The ALUI major, MAJ 0x1 (R152). -/
def decodeAlui (w _lit : Nat) : Except Reject Instr :=
  match w / 131072 % 8 with
  | 0 =>
    if true then .ok (.addi (fld w 20 12) (fld w 12 5) (fld w 7 5) (fld w 5 2)) else
    .error .reservedBits
  | 1 =>
    if true then .ok (.andi (fld w 20 12) (fld w 12 5) (fld w 7 5) (fld w 5 2)) else
    .error .reservedBits
  | 2 =>
    if true then .ok (.ori (fld w 20 12) (fld w 12 5) (fld w 7 5) (fld w 5 2)) else
    .error .reservedBits
  | 3 =>
    if true then .ok (.xori (fld w 20 12) (fld w 12 5) (fld w 7 5) (fld w 5 2)) else
    .error .reservedBits
  | 4 =>
    if bitsAre w 26 6 0 then .ok (.slli (fld w 20 6) (fld w 12 5) (fld w 7 5) (fld w 5 2)) else
    .error .reservedBits
  | 5 =>
    if bitsAre w 26 6 0 then .ok (.srli (fld w 20 6) (fld w 12 5) (fld w 7 5) (fld w 5 2)) else
    .error .reservedBits
  | 6 =>
    if bitsAre w 26 6 0 then .ok (.srai (fld w 20 6) (fld w 12 5) (fld w 7 5) (fld w 5 2)) else
    .error .reservedBits
  | 7 =>
    if true then .ok (.cmpi (fld w 20 12) (fld w 12 5) (fld w 10 2) (fld w 7 3) (fld w 5 2)) else
    .error .reservedBits
  | _ => .error .reservedFunction

/-- The FIMM major, MAJ 0x2 (R152). -/
def decodeFimm (w _lit : Nat) : Except Reject Instr :=
  match w / 32 % 4 with
  | 0 =>
    if true then .ok (.lui (fld w 12 20) (fld w 7 5)) else
    .error .reservedBits
  | 1 =>
    if true then .ok (.fli (fld w 12 20) (fld w 7 5)) else
    .error .reservedBits
  | 2 =>
    if true then .ok (.faddi (fld w 12 20) (fld w 7 5)) else
    .error .reservedBits
  | 3 =>
    if true then .ok (.fmuli (fld w 12 20) (fld w 7 5)) else
    .error .reservedBits
  | _ => .error .reservedFunction

/-- The BR major, MAJ 0x3 (R152). -/
def decodeBr (w _lit : Nat) : Except Reject Instr :=
  match w / 131072 % 8 with
  | 0 =>
    if true then .ok (.beq (fld w 20 12) (fld w 12 5) (fld w 7 5) (fld w 5 2)) else
    .error .reservedBits
  | 1 =>
    if true then .ok (.bne (fld w 20 12) (fld w 12 5) (fld w 7 5) (fld w 5 2)) else
    .error .reservedBits
  | 2 =>
    if true then .ok (.blt (fld w 20 12) (fld w 12 5) (fld w 7 5) (fld w 5 2)) else
    .error .reservedBits
  | 3 =>
    if true then .ok (.bge (fld w 20 12) (fld w 12 5) (fld w 7 5) (fld w 5 2)) else
    .error .reservedBits
  | 4 =>
    if true then .ok (.bltu (fld w 20 12) (fld w 12 5) (fld w 7 5) (fld w 5 2)) else
    .error .reservedBits
  | 5 =>
    if true then .ok (.bgeu (fld w 20 12) (fld w 12 5) (fld w 7 5) (fld w 5 2)) else
    .error .reservedBits
  | 6 =>
    if bitsAre w 10 7 0 then .ok (.bpt (fld w 20 12) (fld w 7 3) (fld w 5 2)) else
    .error .reservedBits
  | 7 =>
    if bitsAre w 10 7 0 then .ok (.bpf (fld w 20 12) (fld w 7 3) (fld w 5 2)) else
    .error .reservedBits
  | _ => .error .reservedFunction

/-- The JMP major, MAJ 0x4 (R152). -/
def decodeJmp (w _lit : Nat) : Except Reject Instr :=
  match w / 4096 % 4 with
  | 0 =>
    if true then .ok (.jal (fld w 14 18) (fld w 7 5) (fld w 5 2)) else
    .error .reservedBits
  | 1 =>
    if true then .ok (.jalr (fld w 19 13) (fld w 14 5) (fld w 7 5) (fld w 5 2)) else
    .error .reservedBits
  | 2 =>
    if true then .ok (.loop (fld w 14 18) (fld w 7 5) (fld w 5 2)) else
    .error .reservedBits
  | _ => .error .reservedFunction

/-- The MEM major, MAJ 0x5 (R152). -/
def decodeMem (w _lit : Nat) : Except Reject Instr :=
  match w / 16777216 % 4 with
  | 0 =>
    if bitsAre w 23 1 0 then .ok (.ld (fld w 26 6) (fld w 22 1) (fld w 20 2) (fld w 17 3) (fld w 12 5) (fld w 7 5) (fld w 5 2)) else
    .error .reservedBits
  | 1 =>
    if bitsAre w 22 1 0 then .ok (.st (fld w 26 6) (fld w 23 1) (fld w 20 2) (fld w 17 3) (fld w 12 5) (fld w 7 5) (fld w 5 2)) else
    .error .reservedBits
  | 2 =>
    if bitsAre w 7 5 0 && bitsAre w 17 3 0 && bitsAre w 22 2 0 then .ok (.pref (fld w 26 6) (fld w 20 2) (fld w 12 5) (fld w 5 2)) else
    .error .reservedBits
  | 3 =>
    if bitsAre w 7 5 0 && bitsAre w 17 7 8 then .ok (.disc (fld w 26 6) (fld w 12 5) (fld w 5 2)) else
    .error .reservedBits
  | _ => .error .reservedFunction

/-- The FPS major, MAJ 0x6 (R152). -/
def decodeFps (w lit : Nat) : Except Reject Instr :=
  match w / 4194304 % 64 with
  | 0 =>
    if bitsAre w 31 1 0 then .ok (.fadd (fld w 30 1) (fld w 28 2) (fld w 17 5) (fld w 12 5) (fld w 7 5) (fld w 5 2)) else
    if bitsAre w 17 5 0 && bitsAre w 30 2 2 then .ok (.faddL (fld w 28 2) (fld w 12 5) (fld w 7 5) (fld w 5 2) (BitVec.ofNat 32 lit)) else
    if bitsAre w 30 2 3 then .error .literalAndConstant else .error .reservedBits
  | 1 =>
    if bitsAre w 31 1 0 then .ok (.fsub (fld w 30 1) (fld w 28 2) (fld w 17 5) (fld w 12 5) (fld w 7 5) (fld w 5 2)) else
    if bitsAre w 17 5 0 && bitsAre w 30 2 2 then .ok (.fsubL (fld w 28 2) (fld w 12 5) (fld w 7 5) (fld w 5 2) (BitVec.ofNat 32 lit)) else
    if bitsAre w 30 2 3 then .error .literalAndConstant else .error .reservedBits
  | 2 =>
    if bitsAre w 31 1 0 then .ok (.fmul (fld w 30 1) (fld w 28 2) (fld w 17 5) (fld w 12 5) (fld w 7 5) (fld w 5 2)) else
    if bitsAre w 17 5 0 && bitsAre w 30 2 2 then .ok (.fmulL (fld w 28 2) (fld w 12 5) (fld w 7 5) (fld w 5 2) (BitVec.ofNat 32 lit)) else
    if bitsAre w 30 2 3 then .error .literalAndConstant else .error .reservedBits
  | 3 =>
    if bitsAre w 31 1 0 then .ok (.fdiv (fld w 30 1) (fld w 28 2) (fld w 17 5) (fld w 12 5) (fld w 7 5) (fld w 5 2)) else
    if bitsAre w 17 5 0 && bitsAre w 30 2 2 then .ok (.fdivL (fld w 28 2) (fld w 12 5) (fld w 7 5) (fld w 5 2) (BitVec.ofNat 32 lit)) else
    if bitsAre w 30 2 3 then .error .literalAndConstant else .error .reservedBits
  | 4 =>
    if bitsAre w 17 5 0 && bitsAre w 30 2 0 then .ok (.fsqrt (fld w 28 2) (fld w 12 5) (fld w 7 5) (fld w 5 2)) else
    .error .reservedBits
  | 5 =>
    if bitsAre w 31 1 0 then .ok (.fma (fld w 30 1) (fld w 28 2) (fld w 17 5) (fld w 12 5) (fld w 7 5) (fld w 5 2)) else
    if bitsAre w 17 5 0 && bitsAre w 30 2 2 then .ok (.fmaL (fld w 28 2) (fld w 12 5) (fld w 7 5) (fld w 5 2) (BitVec.ofNat 32 lit)) else
    if bitsAre w 30 2 3 then .error .literalAndConstant else .error .reservedBits
  | 6 =>
    if bitsAre w 31 1 0 then .ok (.fmad (fld w 30 1) (fld w 28 2) (fld w 17 5) (fld w 12 5) (fld w 7 5) (fld w 5 2)) else
    if bitsAre w 17 5 0 && bitsAre w 30 2 2 then .ok (.fmadL (fld w 28 2) (fld w 12 5) (fld w 7 5) (fld w 5 2) (BitVec.ofNat 32 lit)) else
    if bitsAre w 30 2 3 then .error .literalAndConstant else .error .reservedBits
  | 7 =>
    if bitsAre w 31 1 0 then .ok (.fnma (fld w 30 1) (fld w 28 2) (fld w 17 5) (fld w 12 5) (fld w 7 5) (fld w 5 2)) else
    if bitsAre w 17 5 0 && bitsAre w 30 2 2 then .ok (.fnmaL (fld w 28 2) (fld w 12 5) (fld w 7 5) (fld w 5 2) (BitVec.ofNat 32 lit)) else
    if bitsAre w 30 2 3 then .error .literalAndConstant else .error .reservedBits
  | 8 =>
    if bitsAre w 31 1 0 then .ok (.fmin (fld w 30 1) (fld w 28 2) (fld w 17 5) (fld w 12 5) (fld w 7 5) (fld w 5 2)) else
    if bitsAre w 17 5 0 && bitsAre w 30 2 2 then .ok (.fminL (fld w 28 2) (fld w 12 5) (fld w 7 5) (fld w 5 2) (BitVec.ofNat 32 lit)) else
    if bitsAre w 30 2 3 then .error .literalAndConstant else .error .reservedBits
  | 9 =>
    if bitsAre w 31 1 0 then .ok (.fmax (fld w 30 1) (fld w 28 2) (fld w 17 5) (fld w 12 5) (fld w 7 5) (fld w 5 2)) else
    if bitsAre w 17 5 0 && bitsAre w 30 2 2 then .ok (.fmaxL (fld w 28 2) (fld w 12 5) (fld w 7 5) (fld w 5 2) (BitVec.ofNat 32 lit)) else
    if bitsAre w 30 2 3 then .error .literalAndConstant else .error .reservedBits
  | 10 =>
    if true then .ok (.fsgn (fld w 30 2) (fld w 28 2) (fld w 17 5) (fld w 12 5) (fld w 7 5) (fld w 5 2)) else
    .error .reservedBits
  | 11 =>
    if bitsAre w 31 1 0 then .ok (.fcmp (fld w 30 1) (fld w 28 2) (fld w 17 5) (fld w 12 5) (fld w 10 2) (fld w 7 3) (fld w 5 2)) else
    if bitsAre w 17 5 0 && bitsAre w 30 2 2 then .ok (.fcmpL (fld w 28 2) (fld w 12 5) (fld w 10 2) (fld w 7 3) (fld w 5 2) (BitVec.ofNat 32 lit)) else
    if bitsAre w 30 2 3 then .error .literalAndConstant else .error .reservedBits
  | 12 =>
    if bitsAre w 17 5 0 && bitsAre w 30 2 0 then .ok (.fclass (fld w 28 2) (fld w 12 5) (fld w 7 5) (fld w 5 2)) else
    .error .reservedBits
  | 13 =>
    if bitsAre w 21 1 0 then .ok (.fcvt (fld w 28 4) (fld w 17 4) (fld w 12 5) (fld w 7 5) (fld w 5 2)) else
    .error .reservedBits
  | 14 =>
    if bitsAre w 17 5 0 && bitsAre w 28 4 1 then .ok (.fex2 (fld w 12 5) (fld w 7 5) (fld w 5 2)) else
    .error .reservedBits
  | 15 =>
    if bitsAre w 17 5 0 && bitsAre w 28 4 1 then .ok (.flg2 (fld w 12 5) (fld w 7 5) (fld w 5 2)) else
    .error .reservedBits
  | 16 =>
    if bitsAre w 17 5 0 && bitsAre w 28 4 1 then .ok (.frcp (fld w 12 5) (fld w 7 5) (fld w 5 2)) else
    .error .reservedBits
  | 17 =>
    if bitsAre w 17 5 0 && bitsAre w 28 4 1 then .ok (.frsq (fld w 12 5) (fld w 7 5) (fld w 5 2)) else
    .error .reservedBits
  | 18 =>
    if bitsAre w 17 5 0 && bitsAre w 28 4 1 then .ok (.fsinp (fld w 12 5) (fld w 7 5) (fld w 5 2)) else
    .error .reservedBits
  | 19 =>
    if bitsAre w 17 5 0 && bitsAre w 28 4 1 then .ok (.fcosp (fld w 12 5) (fld w 7 5) (fld w 5 2)) else
    .error .reservedBits
  | _ => .error .reservedFunction

/-- The VA major, MAJ 0x7 (R152). -/
def decodeVa (w _lit : Nat) : Except Reject Instr :=
  match w / 4194304 % 64 with
  | 0 =>
    if true then .ok (.vadd (fld w 31 1) (fld w 28 3) (fld w 17 5) (fld w 12 5) (fld w 7 5) (fld w 5 2)) else
    .error .reservedBits
  | 1 =>
    if true then .ok (.vsub (fld w 31 1) (fld w 28 3) (fld w 17 5) (fld w 12 5) (fld w 7 5) (fld w 5 2)) else
    .error .reservedBits
  | 2 =>
    if true then .ok (.vmul (fld w 31 1) (fld w 28 3) (fld w 17 5) (fld w 12 5) (fld w 7 5) (fld w 5 2)) else
    .error .reservedBits
  | 3 =>
    if true then .ok (.vfma (fld w 31 1) (fld w 28 3) (fld w 17 5) (fld w 12 5) (fld w 7 5) (fld w 5 2)) else
    .error .reservedBits
  | 4 =>
    if true then .ok (.vdiv (fld w 31 1) (fld w 28 3) (fld w 17 5) (fld w 12 5) (fld w 7 5) (fld w 5 2)) else
    .error .reservedBits
  | 5 =>
    if bitsAre w 17 5 0 && bitsAre w 31 1 0 then .ok (.vsqrt (fld w 28 3) (fld w 12 5) (fld w 7 5) (fld w 5 2)) else
    .error .reservedBits
  | 6 =>
    if true then .ok (.vmin (fld w 31 1) (fld w 28 3) (fld w 17 5) (fld w 12 5) (fld w 7 5) (fld w 5 2)) else
    .error .reservedBits
  | 7 =>
    if true then .ok (.vmax (fld w 31 1) (fld w 28 3) (fld w 17 5) (fld w 12 5) (fld w 7 5) (fld w 5 2)) else
    .error .reservedBits
  | 8 =>
    if bitsAre w 17 5 0 && bitsAre w 31 1 0 then .ok (.vabs (fld w 28 3) (fld w 12 5) (fld w 7 5) (fld w 5 2)) else
    .error .reservedBits
  | 9 =>
    if bitsAre w 17 5 0 && bitsAre w 31 1 0 then .ok (.vneg (fld w 28 3) (fld w 12 5) (fld w 7 5) (fld w 5 2)) else
    .error .reservedBits
  | 10 =>
    if true then .ok (.vand (fld w 31 1) (fld w 28 3) (fld w 17 5) (fld w 12 5) (fld w 7 5) (fld w 5 2)) else
    .error .reservedBits
  | 11 =>
    if true then .ok (.vor (fld w 31 1) (fld w 28 3) (fld w 17 5) (fld w 12 5) (fld w 7 5) (fld w 5 2)) else
    .error .reservedBits
  | 12 =>
    if true then .ok (.vxor (fld w 31 1) (fld w 28 3) (fld w 17 5) (fld w 12 5) (fld w 7 5) (fld w 5 2)) else
    .error .reservedBits
  | 13 =>
    if true then .ok (.vshl (fld w 31 1) (fld w 28 3) (fld w 17 5) (fld w 12 5) (fld w 7 5) (fld w 5 2)) else
    .error .reservedBits
  | 14 =>
    if true then .ok (.vshr (fld w 31 1) (fld w 28 3) (fld w 17 5) (fld w 12 5) (fld w 7 5) (fld w 5 2)) else
    .error .reservedBits
  | 15 =>
    if true then .ok (.vsra (fld w 31 1) (fld w 28 3) (fld w 17 5) (fld w 12 5) (fld w 7 5) (fld w 5 2)) else
    .error .reservedBits
  | 16 =>
    if true then .ok (.vcmp (fld w 31 1) (fld w 28 3) (fld w 17 5) (fld w 12 5) (fld w 10 2) (fld w 7 3) (fld w 5 2)) else
    .error .reservedBits
  | 17 =>
    if true then .ok (.vsel (fld w 31 1) (fld w 28 3) (fld w 17 5) (fld w 12 5) (fld w 7 5) (fld w 5 2)) else
    .error .reservedBits
  | 18 =>
    if bitsAre w 31 1 0 then .ok (.vcvt (fld w 28 3) (fld w 17 5) (fld w 12 5) (fld w 7 5) (fld w 5 2)) else
    .error .reservedBits
  | 19 =>
    if bitsAre w 20 2 0 && bitsAre w 31 1 0 then .ok (.vsfu (fld w 28 3) (fld w 17 3) (fld w 12 5) (fld w 7 5) (fld w 5 2)) else
    .error .reservedBits
  | _ => .error .reservedFunction

/-- The VM major, MAJ 0x8 (R152). -/
def decodeVm (w _lit : Nat) : Except Reject Instr :=
  match w / 4194304 % 64 with
  | 0 =>
    if bitsAre w 12 5 0 && bitsAre w 20 2 0 && bitsAre w 28 4 0 then .ok (.vclaim (fld w 17 3) (fld w 7 5) (fld w 5 2)) else
    .error .reservedBits
  | 1 =>
    if bitsAre w 7 15 0 && bitsAre w 28 4 0 then .ok (.vrel (fld w 5 2)) else
    .error .reservedBits
  | 2 =>
    if bitsAre w 12 10 0 && bitsAre w 28 4 0 then .ok (.vlen (fld w 7 5) (fld w 5 2)) else
    .error .reservedBits
  | 3 =>
    if bitsAre w 31 1 0 then .ok (.vld (fld w 28 3) (fld w 17 5) (fld w 12 5) (fld w 7 5) (fld w 5 2)) else
    .error .reservedBits
  | 4 =>
    if bitsAre w 31 1 0 then .ok (.vlds (fld w 28 3) (fld w 17 5) (fld w 12 5) (fld w 7 5) (fld w 5 2)) else
    .error .reservedBits
  | 5 =>
    if bitsAre w 31 1 0 then .ok (.vldx (fld w 28 3) (fld w 17 5) (fld w 12 5) (fld w 7 5) (fld w 5 2)) else
    .error .reservedBits
  | 6 =>
    if bitsAre w 17 5 0 && bitsAre w 31 1 0 then .ok (.vst (fld w 28 3) (fld w 12 5) (fld w 7 5) (fld w 5 2)) else
    .error .reservedBits
  | 7 =>
    if bitsAre w 31 1 0 then .ok (.vsts (fld w 28 3) (fld w 17 5) (fld w 12 5) (fld w 7 5) (fld w 5 2)) else
    .error .reservedBits
  | 8 =>
    if bitsAre w 31 1 0 then .ok (.vstx (fld w 28 3) (fld w 17 5) (fld w 12 5) (fld w 7 5) (fld w 5 2)) else
    .error .reservedBits
  | 9 =>
    if bitsAre w 31 1 0 then .ok (.vbc (fld w 28 3) (fld w 17 5) (fld w 12 5) (fld w 7 5) (fld w 5 2)) else
    .error .reservedBits
  | 10 =>
    if bitsAre w 31 1 0 then .ok (.vperm (fld w 28 3) (fld w 17 5) (fld w 12 5) (fld w 7 5) (fld w 5 2)) else
    .error .reservedBits
  | 11 =>
    if bitsAre w 31 1 1 then .ok (.vslide (fld w 28 3) (fld w 17 5) (fld w 12 5) (fld w 7 5) (fld w 5 2)) else
    .error .reservedBits
  | 12 =>
    if bitsAre w 20 2 0 && bitsAre w 31 1 0 then .ok (.vred (fld w 28 3) (fld w 17 3) (fld w 12 5) (fld w 7 5) (fld w 5 2)) else
    .error .reservedBits
  | 13 =>
    if bitsAre w 20 2 0 && bitsAre w 31 1 0 then .ok (.vscan (fld w 28 3) (fld w 17 3) (fld w 12 5) (fld w 7 5) (fld w 5 2)) else
    .error .reservedBits
  | 14 =>
    if bitsAre w 20 2 0 && bitsAre w 28 4 0 then .ok (.vmop (fld w 17 3) (fld w 15 2) (fld w 12 3) (fld w 10 2) (fld w 7 3) (fld w 5 2)) else
    .error .reservedBits
  | 15 =>
    if bitsAre w 12 5 0 && bitsAre w 28 4 0 then .ok (.vtag (fld w 17 5) (fld w 7 5) (fld w 5 2)) else
    .error .reservedBits
  | 16 =>
    if bitsAre w 28 4 0 then .ok (.vxtr (fld w 17 5) (fld w 12 5) (fld w 7 5) (fld w 5 2)) else
    .error .reservedBits
  | _ => .error .reservedFunction

/-- The MTX major, MAJ 0x9 (R152). -/
def decodeMtx (w _lit : Nat) : Except Reject Instr :=
  match w / 4194304 % 32 with
  | 0 =>
    if bitsAre w 9 13 0 && bitsAre w 28 4 0 then .ok (.mzero (fld w 27 1) (fld w 7 2) (fld w 5 2)) else
    if bitsAre w 9 8 0 && bitsAre w 20 2 0 && bitsAre w 28 4 1 then .ok (.mzeroG (fld w 27 1) (fld w 17 3) (fld w 7 2) (fld w 5 2)) else
    .error .reservedBits
  | 1 =>
    if bitsAre w 9 3 0 && bitsAre w 27 5 0 then .ok (.mma (fld w 17 5) (fld w 12 5) (fld w 7 2) (fld w 5 2)) else
    if bitsAre w 9 3 0 && bitsAre w 27 5 1 then .ok (.mmaResume (fld w 17 5) (fld w 12 5) (fld w 7 2) (fld w 5 2)) else
    .error .reservedBits
  | 2 =>
    if bitsAre w 9 3 0 && bitsAre w 27 5 0 then .ok (.mmag (fld w 17 5) (fld w 12 5) (fld w 7 2) (fld w 5 2)) else
    if bitsAre w 9 3 0 && bitsAre w 27 5 1 then .ok (.mmagResume (fld w 17 5) (fld w 12 5) (fld w 7 2) (fld w 5 2)) else
    .error .reservedBits
  | 3 =>
    if bitsAre w 9 3 0 && bitsAre w 27 1 0 && bitsAre w 29 3 0 then .ok (.mdrain (fld w 28 1) (fld w 17 5) (fld w 12 5) (fld w 7 2) (fld w 5 2)) else
    .error .reservedBits
  | 4 =>
    if bitsAre w 9 3 0 && bitsAre w 27 5 0 then .ok (.mfill (fld w 17 5) (fld w 12 5) (fld w 7 2) (fld w 5 2)) else
    .error .reservedBits
  | 5 =>
    if bitsAre w 27 5 0 then .ok (.astage (fld w 17 5) (fld w 12 5) (fld w 7 5) (fld w 5 2)) else
    .error .reservedBits
  | 6 =>
    if bitsAre w 27 5 0 then .ok (.pload (fld w 17 5) (fld w 12 5) (fld w 7 5) (fld w 5 2)) else
    .error .reservedBits
  | 7 =>
    if bitsAre w 7 5 0 && bitsAre w 17 5 0 && bitsAre w 27 5 0 then .ok (.pevict (fld w 12 5) (fld w 5 2)) else
    .error .reservedBits
  | 8 =>
    if bitsAre w 17 5 0 && bitsAre w 28 4 0 then .ok (.pstat (fld w 27 1) (fld w 12 5) (fld w 7 5) (fld w 5 2)) else
    .error .reservedBits
  | 9 =>
    if bitsAre w 7 10 0 && bitsAre w 20 2 0 && bitsAre w 27 5 0 then .ok (.hspost (fld w 17 3) (fld w 5 2)) else
    .error .reservedBits
  | 10 =>
    if bitsAre w 7 10 0 && bitsAre w 20 2 0 && bitsAre w 27 5 0 then .ok (.hswait (fld w 17 3) (fld w 5 2)) else
    .error .reservedBits
  | _ => .error .reservedFunction

/-- The ENG major, MAJ 0xA (R152). -/
def decodeEng (w _lit : Nat) : Except Reject Instr :=
  match w / 4194304 % 32 with
  | 0 =>
    if bitsAre w 7 7 0 && bitsAre w 27 5 0 then .ok (.copy (fld w 17 5) (fld w 14 3) (fld w 5 2)) else
    .error .reservedBits
  | 1 =>
    if bitsAre w 7 7 0 && bitsAre w 27 5 0 then .ok (.gath (fld w 17 5) (fld w 14 3) (fld w 5 2)) else
    if bitsAre w 7 7 0 && bitsAre w 27 5 1 then .ok (.gathCb (fld w 17 5) (fld w 14 3) (fld w 5 2)) else
    .error .reservedBits
  | 2 =>
    if bitsAre w 7 7 0 && bitsAre w 27 5 0 then .ok (.scat (fld w 17 5) (fld w 14 3) (fld w 5 2)) else
    .error .reservedBits
  | 3 =>
    if bitsAre w 7 5 0 && bitsAre w 27 5 0 then .ok (.mgopen (fld w 17 5) (fld w 12 5) (fld w 5 2)) else
    .error .reservedBits
  | 4 =>
    if bitsAre w 7 7 0 && bitsAre w 27 5 0 then .ok (.mgfeed (fld w 17 5) (fld w 14 3) (fld w 5 2)) else
    .error .reservedBits
  | 5 =>
    if bitsAre w 7 5 0 && bitsAre w 17 5 0 && bitsAre w 27 5 0 then .ok (.mgclose (fld w 12 5) (fld w 5 2)) else
    .error .reservedBits
  | 6 =>
    if bitsAre w 7 15 0 then .ok (.qfence (fld w 27 5) (fld w 5 2)) else
    .error .reservedBits
  | 7 =>
    if bitsAre w 12 5 0 && bitsAre w 20 2 0 && bitsAre w 28 4 0 then .ok (.evwait (fld w 27 1) (fld w 17 3) (fld w 7 5) (fld w 5 2)) else
    .error .reservedBits
  | 8 =>
    if bitsAre w 11 3 1 && bitsAre w 19 3 0 && bitsAre w 31 1 0 then .ok (.sbind (fld w 30 1) (fld w 27 3) (fld w 17 2) (fld w 14 3) (fld w 7 4) (fld w 5 2)) else
    .error .reservedBits
  | 9 =>
    if bitsAre w 7 10 0 && bitsAre w 19 3 0 && bitsAre w 27 5 0 then .ok (.sunbind (fld w 17 2) (fld w 5 2)) else
    .error .reservedBits
  | 10 =>
    if bitsAre w 10 2 0 && bitsAre w 17 5 0 && bitsAre w 29 3 0 then .ok (.bankset (fld w 27 2) (fld w 12 5) (fld w 7 3) (fld w 5 2)) else
    .error .reservedBits
  | 11 =>
    if bitsAre w 10 2 0 && bitsAre w 17 5 0 && bitsAre w 27 5 0 then .ok (.spset (fld w 12 5) (fld w 7 3) (fld w 5 2)) else
    .error .reservedBits
  | _ => .error .reservedFunction

/-- The ATOM major, MAJ 0xB (R152). -/
def decodeAtom (w _lit : Nat) : Except Reject Instr :=
  match w / 4194304 % 16 with
  | 0 =>
    if true then .ok (.aadd (fld w 31 1) (fld w 26 5) (fld w 17 5) (fld w 12 5) (fld w 7 5) (fld w 5 2)) else
    .error .reservedBits
  | 1 =>
    if true then .ok (.aand (fld w 31 1) (fld w 26 5) (fld w 17 5) (fld w 12 5) (fld w 7 5) (fld w 5 2)) else
    .error .reservedBits
  | 2 =>
    if true then .ok (.aor (fld w 31 1) (fld w 26 5) (fld w 17 5) (fld w 12 5) (fld w 7 5) (fld w 5 2)) else
    .error .reservedBits
  | 3 =>
    if true then .ok (.axor (fld w 31 1) (fld w 26 5) (fld w 17 5) (fld w 12 5) (fld w 7 5) (fld w 5 2)) else
    .error .reservedBits
  | 4 =>
    if true then .ok (.amin (fld w 31 1) (fld w 26 5) (fld w 17 5) (fld w 12 5) (fld w 7 5) (fld w 5 2)) else
    .error .reservedBits
  | 5 =>
    if true then .ok (.amax (fld w 31 1) (fld w 26 5) (fld w 17 5) (fld w 12 5) (fld w 7 5) (fld w 5 2)) else
    .error .reservedBits
  | 6 =>
    if true then .ok (.aswap (fld w 31 1) (fld w 26 5) (fld w 17 5) (fld w 12 5) (fld w 7 5) (fld w 5 2)) else
    .error .reservedBits
  | 7 =>
    if true then .ok (.acas (fld w 31 1) (fld w 26 5) (fld w 17 5) (fld w 12 5) (fld w 7 5) (fld w 5 2)) else
    .error .reservedBits
  | 8 =>
    if bitsAre w 7 1 0 && bitsAre w 17 1 0 && bitsAre w 26 5 0 then .ok (.acasq (fld w 31 1) (fld w 18 4) (fld w 12 5) (fld w 8 4) (fld w 5 2)) else
    .error .reservedBits
  | 9 =>
    if true then .ok (.afadd (fld w 31 1) (fld w 26 5) (fld w 17 5) (fld w 12 5) (fld w 7 5) (fld w 5 2)) else
    .error .reservedBits
  | 10 =>
    if true then .ok (.afmin (fld w 31 1) (fld w 26 5) (fld w 17 5) (fld w 12 5) (fld w 7 5) (fld w 5 2)) else
    .error .reservedBits
  | 11 =>
    if true then .ok (.afmax (fld w 31 1) (fld w 26 5) (fld w 17 5) (fld w 12 5) (fld w 7 5) (fld w 5 2)) else
    .error .reservedBits
  | 12 =>
    if bitsAre w 26 5 0 then .ok (.atopk (fld w 31 1) (fld w 17 5) (fld w 12 5) (fld w 7 5) (fld w 5 2)) else
    .error .reservedBits
  | 13 =>
    if bitsAre w 30 1 0 then .ok (.vatom (fld w 31 1) (fld w 26 4) (fld w 17 5) (fld w 12 5) (fld w 7 5) (fld w 5 2)) else
    .error .reservedBits
  | 14 =>
    if bitsAre w 17 5 0 && bitsAre w 26 6 0 then .ok (.aflag (fld w 12 5) (fld w 7 5) (fld w 5 2)) else
    .error .reservedBits
  | _ => .error .reservedFunction

/-- The SYNC major, MAJ 0xC (R152). -/
def decodeSync (w _lit : Nat) : Except Reject Instr :=
  match w / 4194304 % 32 with
  | 0 =>
    if bitsAre w 7 15 0 && bitsAre w 30 2 0 then .ok (.fence (fld w 27 3) (fld w 5 2)) else
    .error .reservedBits
  | 1 =>
    if bitsAre w 7 5 0 && bitsAre w 17 5 0 && bitsAre w 31 1 0 then .ok (.tfence (fld w 30 1) (fld w 27 3) (fld w 12 5) (fld w 5 2)) else
    .error .reservedBits
  | 2 =>
    if bitsAre w 7 5 0 && bitsAre w 17 5 0 && bitsAre w 27 5 0 then .ok (.bmask (fld w 12 5) (fld w 5 2)) else
    .error .reservedBits
  | 3 =>
    if bitsAre w 7 10 0 && bitsAre w 21 1 0 && bitsAre w 27 5 0 then .ok (.barv (fld w 17 4) (fld w 5 2)) else
    .error .reservedBits
  | 4 =>
    if bitsAre w 7 10 0 && bitsAre w 21 1 0 && bitsAre w 27 5 0 then .ok (.bwait (fld w 17 4) (fld w 5 2)) else
    .error .reservedBits
  | 5 =>
    if bitsAre w 10 7 0 && bitsAre w 21 1 0 && bitsAre w 27 5 0 then .ok (.btest (fld w 17 4) (fld w 7 3) (fld w 5 2)) else
    .error .reservedBits
  | 6 =>
    if bitsAre w 7 5 0 && bitsAre w 27 5 0 then .ok (.mbinit (fld w 17 5) (fld w 12 5) (fld w 5 2)) else
    .error .reservedBits
  | 7 =>
    if bitsAre w 17 5 0 && bitsAre w 30 2 0 then .ok (.mbarv (fld w 27 3) (fld w 12 5) (fld w 7 5) (fld w 5 2)) else
    .error .reservedBits
  | 8 =>
    if bitsAre w 30 2 0 then .ok (.mbwait (fld w 27 3) (fld w 17 5) (fld w 12 5) (fld w 7 5) (fld w 5 2)) else
    .error .reservedBits
  | 9 =>
    if bitsAre w 17 5 0 && bitsAre w 30 2 0 then .ok (.mbtest (fld w 27 3) (fld w 12 5) (fld w 7 5) (fld w 5 2)) else
    .error .reservedBits
  | 10 =>
    if bitsAre w 7 5 0 && bitsAre w 27 5 0 then .ok (.swinit (fld w 17 5) (fld w 12 5) (fld w 5 2)) else
    .error .reservedBits
  | 11 =>
    if bitsAre w 30 2 0 then .ok (.swwait (fld w 27 3) (fld w 17 5) (fld w 12 5) (fld w 7 5) (fld w 5 2)) else
    .error .reservedBits
  | 12 =>
    if bitsAre w 17 5 0 && bitsAre w 30 2 0 then .ok (.swtest (fld w 27 3) (fld w 12 5) (fld w 7 5) (fld w 5 2)) else
    .error .reservedBits
  | 13 =>
    if bitsAre w 10 2 0 && bitsAre w 21 1 0 && bitsAre w 28 4 0 then .ok (.qpush (fld w 27 1) (fld w 17 4) (fld w 12 5) (fld w 7 3) (fld w 5 2)) else
    .error .reservedBits
  | 14 =>
    if bitsAre w 15 2 0 && bitsAre w 21 1 0 && bitsAre w 28 4 0 then .ok (.qpop (fld w 27 1) (fld w 17 4) (fld w 12 3) (fld w 7 5) (fld w 5 2)) else
    .error .reservedBits
  | 15 =>
    if bitsAre w 7 5 0 && bitsAre w 28 4 0 then .ok (.qsend (fld w 27 1) (fld w 17 5) (fld w 12 5) (fld w 5 2)) else
    .error .reservedBits
  | _ => .error .reservedFunction

/-- The POOL major, MAJ 0xD (R152). -/
def decodePool (w _lit : Nat) : Except Reject Instr :=
  match w / 4194304 % 32 with
  | 0 =>
    if bitsAre w 14 3 0 && bitsAre w 19 3 0 && bitsAre w 30 2 0 then .ok (.indesc (fld w 27 3) (fld w 17 2) (fld w 12 2) (fld w 7 5) (fld w 5 2)) else
    .error .reservedBits
  | 1 =>
    if bitsAre w 7 7 0 && bitsAre w 17 5 0 && bitsAre w 27 5 0 then .ok (.emit (fld w 14 3) (fld w 5 2)) else
    .error .reservedBits
  | 2 =>
    if bitsAre w 7 5 0 && bitsAre w 27 5 0 then .ok (.emitv (fld w 17 5) (fld w 12 5) (fld w 5 2)) else
    .error .reservedBits
  | 3 =>
    if bitsAre w 7 15 0 && bitsAre w 27 5 0 then .ok (.commit (fld w 5 2)) else
    .error .reservedBits
  | 4 =>
    if bitsAre w 7 15 0 && bitsAre w 27 5 0 then .ok (.abort (fld w 5 2)) else
    .error .reservedBits
  | 5 =>
    if bitsAre w 28 4 0 then .ok (.bop (fld w 27 1) (fld w 17 5) (fld w 12 5) (fld w 7 5) (fld w 5 2)) else
    if bitsAre w 7 15 0 && bitsAre w 27 5 2 then .ok (.bopEnd (fld w 5 2)) else
    .error .reservedBits
  | 6 =>
    if bitsAre w 7 5 0 && bitsAre w 17 5 0 && bitsAre w 27 5 0 then .ok (.idem (fld w 12 5) (fld w 5 2)) else
    .error .reservedBits
  | 7 =>
    if bitsAre w 12 5 0 && bitsAre w 27 5 0 then .ok (.kld (fld w 17 5) (fld w 7 5) (fld w 5 2)) else
    if bitsAre w 17 5 0 && bitsAre w 27 5 1 then .ok (.kldX (fld w 12 5) (fld w 7 5) (fld w 5 2)) else
    .error .reservedBits
  | _ => .error .reservedFunction

/-- The SYS major, MAJ 0xE (R152). -/
def decodeSys (w _lit : Nat) : Except Reject Instr :=
  match w / 4194304 % 32 with
  | 0 =>
    if bitsAre w 27 5 0 then .ok (.trap (fld w 17 5) (fld w 12 5) (fld w 7 5) (fld w 5 2)) else
    .error .reservedBits
  | 1 =>
    if bitsAre w 7 15 0 && bitsAre w 27 5 0 then .ok (.eret (fld w 5 2)) else
    if bitsAre w 7 15 0 && bitsAre w 27 5 1 then .ok (.eretFault (fld w 5 2)) else
    if bitsAre w 7 15 0 && bitsAre w 27 5 2 then .ok (.eretEnd (fld w 5 2)) else
    .error .reservedBits
  | 2 =>
    if bitsAre w 12 5 0 && bitsAre w 27 5 0 then .ok (.crr (fld w 17 5) (fld w 7 5) (fld w 5 2)) else
    .error .reservedBits
  | 3 =>
    if bitsAre w 7 5 0 && bitsAre w 27 5 0 then .ok (.crw (fld w 17 5) (fld w 12 5) (fld w 5 2)) else
    .error .reservedBits
  | 4 =>
    if bitsAre w 12 10 0 && bitsAre w 27 5 0 then .ok (.ids (fld w 7 5) (fld w 5 2)) else
    .error .reservedBits
  | 5 =>
    if bitsAre w 17 5 0 && bitsAre w 27 5 0 then .ok (.waiti (fld w 12 5) (fld w 7 5) (fld w 5 2)) else
    .error .reservedBits
  | 6 =>
    if bitsAre w 17 5 0 && bitsAre w 27 5 0 then .ok (.rspawn (fld w 12 5) (fld w 7 5) (fld w 5 2)) else
    .error .reservedBits
  | 7 =>
    if bitsAre w 7 5 0 && bitsAre w 17 5 0 && bitsAre w 27 5 0 then .ok (.ctxsw (fld w 12 5) (fld w 5 2)) else
    .error .reservedBits
  | _ => .error .reservedFunction

/-- A 32-bit instruction by its major opcode (R138, R152), before the checks on field values. -/
def decodeMajor (w lit : Nat) : Except Reject Instr :=
  match w / 2 % 16 with
  | 0 => decodeAlu w lit
  | 1 => decodeAlui w lit
  | 2 => decodeFimm w lit
  | 3 => decodeBr w lit
  | 4 => decodeJmp w lit
  | 5 => decodeMem w lit
  | 6 => decodeFps w lit
  | 7 => decodeVa w lit
  | 8 => decodeVm w lit
  | 9 => decodeMtx w lit
  | 10 => decodeEng w lit
  | 11 => decodeAtom w lit
  | 12 => decodeSync w lit
  | 13 => decodePool w lit
  | 14 => decodeSys w lit
  | _ => .error .reservedMajor

/-- A compact instruction by its CMAJ (R149). C.ILL is an instruction whose whole effect is a trap (R150). -/
def decodeCompactMajor (w : Nat) : Except Reject Instr :=
  match w / 2 % 16 with
  | 0 => .ok (.cIll (fld w 5 11))
  | 1 => if bitsAre w 15 1 0 then .ok (.cMov (fld w 10 5) (fld w 5 5)) else .error .reservedBits
  | 2 => .ok (.cAddi (fld w 10 6) (fld w 5 5))
  | 3 => if bitsAre w 15 1 0 then .ok (.cAdd (fld w 10 5) (fld w 5 5)) else .error .reservedBits
  | 4 => if bitsAre w 15 1 0 then .ok (.cSub (fld w 10 5) (fld w 5 5)) else .error .reservedBits
  | 5 => .ok (.cLdd (fld w 10 6) (fld w 5 5))
  | 6 => .ok (.cStd (fld w 10 6) (fld w 5 5))
  | 7 => .ok (.cBeqz (fld w 10 6) (fld w 5 5))
  | 8 => .ok (.cBnez (fld w 10 6) (fld w 5 5))
  | 9 => .ok (.cJ (fld w 5 11))
  | 10 => if bitsAre w 5 11 0 then .ok (.cRet) else .error .reservedBits
  | 11 => if bitsAre w 5 11 0 then .ok (.cWait) else .error .reservedBits
  | 12 => if bitsAre w 5 11 0 then .ok (.cNop) else .error .reservedBits
  | 13 => if bitsAre w 5 11 0 then .ok (.cCmt) else .error .reservedBits
  | _ => .error .reservedMajor

/-- The check on field values, made on the whole encoding whatever the operands hold (R154). -/
def checkFields (r : Except Reject Instr) : Except Reject Instr :=
  match r with
  | .ok i => if wf i then .ok i else .error .reservedValue
  | .error e => .error e

/-- Decode of a 32-bit instruction `w` whose literal word, if it has one, is `lit`. -/
def decodeWord (w lit : Nat) : Except Reject Instr := checkFields (decodeMajor w lit)

/-- Decode of a compact instruction. -/
def decodeHalf (w : Nat) : Except Reject Instr := checkFields (decodeCompactMajor w)

/-- R135: a literal word follows a 32-bit instruction of the ALU or FPS major whose function gives bit 31 the meaning L
and whose bit 31 is set. -/
def hasLiteral (w : Nat) : Bool :=
  w / 2 ^ 31 % 2 == 1 &&
    ((w / 2 % 16 == 0 && (decide (w / 2 ^ 22 % 64 ≤ 20) || w / 2 ^ 22 % 64 == 24 || w / 2 ^ 22 % 64 == 25)) ||
     (w / 2 % 16 == 6 && (decide (w / 2 ^ 22 % 64 ≤ 3) || (decide (5 ≤ w / 2 ^ 22 % 64) && decide (w / 2 ^ 22 % 64 ≤ 9)) ||
        w / 2 ^ 22 % 64 == 11)))

/-- The number whose little-endian bytes are `bs`. -/
def leNat (bs : List Byte) : Nat :=
  match bs with
  | [] => 0
  | b :: r => b.toNat + 256 * leNat r

/-- The `n` low bytes of a number, least significant first (R1). -/
def leBytes (n v : Nat) : List Byte :=
  match n with
  | 0 => []
  | k + 1 => BitVec.ofNat 8 v :: leBytes k (v / 256)

/-- Decode of a stream of bytes: the instruction and the bytes after it. -/
def decode (bs : List Byte) : Except Reject (Instr × List Byte) :=
  if bs.length < 2 then .error .tooShort else
  let h := leNat (bs.take 2)
  if h % 2 == 0 then
    match decodeHalf h with
    | .ok i => .ok (i, bs.drop 2)
    | .error e => .error e
  else if bs.length < 4 then .error .tooShort else
  let w := leNat (bs.take 4)
  if hasLiteral w then
    if bs.length < 8 then .error .tooShort else
    match decodeWord w (leNat ((bs.drop 4).take 4)) with
    | .ok i => .ok (i, bs.drop 8)
    | .error e => .error e
  else
    match decodeWord w 0 with
    | .ok i => .ok (i, bs.drop 4)
    | .error e => .error e

/-- The instruction that decode reads from one whose bits are `w`, numbered as spec/opcode_table.json numbers them, every
bit above `nbits` zero. -/
def decodeTableWord (nbits w : Nat) : Option Instr :=
  match decode (leBytes 8 (w % 2 ^ nbits)) with
  | .ok (i, _) => some i
  | .error _ => none

/-- The encoding of an instruction: its length in bytes (R135) and its bits as a number, the literal word above the
first 32 bits. A device step has no encoding. -/
def encode (i : Instr) : Option (Nat × Nat) :=
  match i with
  | .add k w rb ra rd stl => some (4, 1 + k.toNat * 1073741824 + w.toNat * 268435456 + rb.toNat * 131072 + ra.toNat * 4096 + rd.toNat * 128 + stl.toNat * 32)
  | .addL w ra rd stl lit => some (8, 2147483649 + w.toNat * 268435456 + ra.toNat * 4096 + rd.toNat * 128 + stl.toNat * 32 + lit.toNat * 4294967296)
  | .sub k w rb ra rd stl => some (4, 4194305 + k.toNat * 1073741824 + w.toNat * 268435456 + rb.toNat * 131072 + ra.toNat * 4096 + rd.toNat * 128 + stl.toNat * 32)
  | .subL w ra rd stl lit => some (8, 2151677953 + w.toNat * 268435456 + ra.toNat * 4096 + rd.toNat * 128 + stl.toNat * 32 + lit.toNat * 4294967296)
  | .and k w rb ra rd stl => some (4, 8388609 + k.toNat * 1073741824 + w.toNat * 268435456 + rb.toNat * 131072 + ra.toNat * 4096 + rd.toNat * 128 + stl.toNat * 32)
  | .andL w ra rd stl lit => some (8, 2155872257 + w.toNat * 268435456 + ra.toNat * 4096 + rd.toNat * 128 + stl.toNat * 32 + lit.toNat * 4294967296)
  | .or k w rb ra rd stl => some (4, 12582913 + k.toNat * 1073741824 + w.toNat * 268435456 + rb.toNat * 131072 + ra.toNat * 4096 + rd.toNat * 128 + stl.toNat * 32)
  | .orL w ra rd stl lit => some (8, 2160066561 + w.toNat * 268435456 + ra.toNat * 4096 + rd.toNat * 128 + stl.toNat * 32 + lit.toNat * 4294967296)
  | .xor k w rb ra rd stl => some (4, 16777217 + k.toNat * 1073741824 + w.toNat * 268435456 + rb.toNat * 131072 + ra.toNat * 4096 + rd.toNat * 128 + stl.toNat * 32)
  | .xorL w ra rd stl lit => some (8, 2164260865 + w.toNat * 268435456 + ra.toNat * 4096 + rd.toNat * 128 + stl.toNat * 32 + lit.toNat * 4294967296)
  | .andn k w rb ra rd stl => some (4, 20971521 + k.toNat * 1073741824 + w.toNat * 268435456 + rb.toNat * 131072 + ra.toNat * 4096 + rd.toNat * 128 + stl.toNat * 32)
  | .andnL w ra rd stl lit => some (8, 2168455169 + w.toNat * 268435456 + ra.toNat * 4096 + rd.toNat * 128 + stl.toNat * 32 + lit.toNat * 4294967296)
  | .sll k w rb ra rd stl => some (4, 25165825 + k.toNat * 1073741824 + w.toNat * 268435456 + rb.toNat * 131072 + ra.toNat * 4096 + rd.toNat * 128 + stl.toNat * 32)
  | .sllL w ra rd stl lit => some (8, 2172649473 + w.toNat * 268435456 + ra.toNat * 4096 + rd.toNat * 128 + stl.toNat * 32 + lit.toNat * 4294967296)
  | .srl k w rb ra rd stl => some (4, 29360129 + k.toNat * 1073741824 + w.toNat * 268435456 + rb.toNat * 131072 + ra.toNat * 4096 + rd.toNat * 128 + stl.toNat * 32)
  | .srlL w ra rd stl lit => some (8, 2176843777 + w.toNat * 268435456 + ra.toNat * 4096 + rd.toNat * 128 + stl.toNat * 32 + lit.toNat * 4294967296)
  | .sra k w rb ra rd stl => some (4, 33554433 + k.toNat * 1073741824 + w.toNat * 268435456 + rb.toNat * 131072 + ra.toNat * 4096 + rd.toNat * 128 + stl.toNat * 32)
  | .sraL w ra rd stl lit => some (8, 2181038081 + w.toNat * 268435456 + ra.toNat * 4096 + rd.toNat * 128 + stl.toNat * 32 + lit.toNat * 4294967296)
  | .ror k w rb ra rd stl => some (4, 37748737 + k.toNat * 1073741824 + w.toNat * 268435456 + rb.toNat * 131072 + ra.toNat * 4096 + rd.toNat * 128 + stl.toNat * 32)
  | .rorL w ra rd stl lit => some (8, 2185232385 + w.toNat * 268435456 + ra.toNat * 4096 + rd.toNat * 128 + stl.toNat * 32 + lit.toNat * 4294967296)
  | .mul k w rb ra rd stl => some (4, 41943041 + k.toNat * 1073741824 + w.toNat * 268435456 + rb.toNat * 131072 + ra.toNat * 4096 + rd.toNat * 128 + stl.toNat * 32)
  | .mulL w ra rd stl lit => some (8, 2189426689 + w.toNat * 268435456 + ra.toNat * 4096 + rd.toNat * 128 + stl.toNat * 32 + lit.toNat * 4294967296)
  | .mulh k w rb ra rd stl => some (4, 46137345 + k.toNat * 1073741824 + w.toNat * 268435456 + rb.toNat * 131072 + ra.toNat * 4096 + rd.toNat * 128 + stl.toNat * 32)
  | .mulhL w ra rd stl lit => some (8, 2193620993 + w.toNat * 268435456 + ra.toNat * 4096 + rd.toNat * 128 + stl.toNat * 32 + lit.toNat * 4294967296)
  | .mulhu k w rb ra rd stl => some (4, 50331649 + k.toNat * 1073741824 + w.toNat * 268435456 + rb.toNat * 131072 + ra.toNat * 4096 + rd.toNat * 128 + stl.toNat * 32)
  | .mulhuL w ra rd stl lit => some (8, 2197815297 + w.toNat * 268435456 + ra.toNat * 4096 + rd.toNat * 128 + stl.toNat * 32 + lit.toNat * 4294967296)
  | .div k w rb ra rd stl => some (4, 54525953 + k.toNat * 1073741824 + w.toNat * 268435456 + rb.toNat * 131072 + ra.toNat * 4096 + rd.toNat * 128 + stl.toNat * 32)
  | .divL w ra rd stl lit => some (8, 2202009601 + w.toNat * 268435456 + ra.toNat * 4096 + rd.toNat * 128 + stl.toNat * 32 + lit.toNat * 4294967296)
  | .divu k w rb ra rd stl => some (4, 58720257 + k.toNat * 1073741824 + w.toNat * 268435456 + rb.toNat * 131072 + ra.toNat * 4096 + rd.toNat * 128 + stl.toNat * 32)
  | .divuL w ra rd stl lit => some (8, 2206203905 + w.toNat * 268435456 + ra.toNat * 4096 + rd.toNat * 128 + stl.toNat * 32 + lit.toNat * 4294967296)
  | .rem k w rb ra rd stl => some (4, 62914561 + k.toNat * 1073741824 + w.toNat * 268435456 + rb.toNat * 131072 + ra.toNat * 4096 + rd.toNat * 128 + stl.toNat * 32)
  | .remL w ra rd stl lit => some (8, 2210398209 + w.toNat * 268435456 + ra.toNat * 4096 + rd.toNat * 128 + stl.toNat * 32 + lit.toNat * 4294967296)
  | .remu k w rb ra rd stl => some (4, 67108865 + k.toNat * 1073741824 + w.toNat * 268435456 + rb.toNat * 131072 + ra.toNat * 4096 + rd.toNat * 128 + stl.toNat * 32)
  | .remuL w ra rd stl lit => some (8, 2214592513 + w.toNat * 268435456 + ra.toNat * 4096 + rd.toNat * 128 + stl.toNat * 32 + lit.toNat * 4294967296)
  | .min k w rb ra rd stl => some (4, 71303169 + k.toNat * 1073741824 + w.toNat * 268435456 + rb.toNat * 131072 + ra.toNat * 4096 + rd.toNat * 128 + stl.toNat * 32)
  | .minL w ra rd stl lit => some (8, 2218786817 + w.toNat * 268435456 + ra.toNat * 4096 + rd.toNat * 128 + stl.toNat * 32 + lit.toNat * 4294967296)
  | .max k w rb ra rd stl => some (4, 75497473 + k.toNat * 1073741824 + w.toNat * 268435456 + rb.toNat * 131072 + ra.toNat * 4096 + rd.toNat * 128 + stl.toNat * 32)
  | .maxL w ra rd stl lit => some (8, 2222981121 + w.toNat * 268435456 + ra.toNat * 4096 + rd.toNat * 128 + stl.toNat * 32 + lit.toNat * 4294967296)
  | .minu k w rb ra rd stl => some (4, 79691777 + k.toNat * 1073741824 + w.toNat * 268435456 + rb.toNat * 131072 + ra.toNat * 4096 + rd.toNat * 128 + stl.toNat * 32)
  | .minuL w ra rd stl lit => some (8, 2227175425 + w.toNat * 268435456 + ra.toNat * 4096 + rd.toNat * 128 + stl.toNat * 32 + lit.toNat * 4294967296)
  | .maxu k w rb ra rd stl => some (4, 83886081 + k.toNat * 1073741824 + w.toNat * 268435456 + rb.toNat * 131072 + ra.toNat * 4096 + rd.toNat * 128 + stl.toNat * 32)
  | .maxuL w ra rd stl lit => some (8, 2231369729 + w.toNat * 268435456 + ra.toNat * 4096 + rd.toNat * 128 + stl.toNat * 32 + lit.toNat * 4294967296)
  | .clz w ra rd stl => some (4, 88080385 + w.toNat * 268435456 + ra.toNat * 4096 + rd.toNat * 128 + stl.toNat * 32)
  | .ctz w ra rd stl => some (4, 92274689 + w.toNat * 268435456 + ra.toNat * 4096 + rd.toNat * 128 + stl.toNat * 32)
  | .popc w ra rd stl => some (4, 96468993 + w.toNat * 268435456 + ra.toNat * 4096 + rd.toNat * 128 + stl.toNat * 32)
  | .sel ps rb ra rd stl => some (4, 100663297 + ps.toNat * 268435456 + rb.toNat * 131072 + ra.toNat * 4096 + rd.toNat * 128 + stl.toNat * 32)
  | .selL ps ra rd stl lit => some (8, 2248146945 + ps.toNat * 268435456 + ra.toNat * 4096 + rd.toNat * 128 + stl.toNat * 32 + lit.toNat * 4294967296)
  | .cmp k w rb ra cc pd stl => some (4, 104857601 + k.toNat * 1073741824 + w.toNat * 268435456 + rb.toNat * 131072 + ra.toNat * 4096 + cc.toNat * 1024 + pd.toNat * 128 + stl.toNat * 32)
  | .cmpL w ra cc pd stl lit => some (8, 2252341249 + w.toNat * 268435456 + ra.toNat * 4096 + cc.toNat * 1024 + pd.toNat * 128 + stl.toNat * 32 + lit.toNat * 4294967296)
  | .plog ttLo pb ttHi pa pd stl => some (4, 109051905 + ttLo.toNat * 1048576 + pb.toNat * 131072 + ttHi.toNat * 32768 + pa.toNat * 4096 + pd.toNat * 128 + stl.toNat * 32)
  | .addi imm ra rd stl => some (4, 3 + imm.toNat * 1048576 + ra.toNat * 4096 + rd.toNat * 128 + stl.toNat * 32)
  | .andi imm ra rd stl => some (4, 131075 + imm.toNat * 1048576 + ra.toNat * 4096 + rd.toNat * 128 + stl.toNat * 32)
  | .ori imm ra rd stl => some (4, 262147 + imm.toNat * 1048576 + ra.toNat * 4096 + rd.toNat * 128 + stl.toNat * 32)
  | .xori imm ra rd stl => some (4, 393219 + imm.toNat * 1048576 + ra.toNat * 4096 + rd.toNat * 128 + stl.toNat * 32)
  | .slli sh ra rd stl => some (4, 524291 + sh.toNat * 1048576 + ra.toNat * 4096 + rd.toNat * 128 + stl.toNat * 32)
  | .srli sh ra rd stl => some (4, 655363 + sh.toNat * 1048576 + ra.toNat * 4096 + rd.toNat * 128 + stl.toNat * 32)
  | .srai sh ra rd stl => some (4, 786435 + sh.toNat * 1048576 + ra.toNat * 4096 + rd.toNat * 128 + stl.toNat * 32)
  | .cmpi imm ra cc pd stl => some (4, 917507 + imm.toNat * 1048576 + ra.toNat * 4096 + cc.toNat * 1024 + pd.toNat * 128 + stl.toNat * 32)
  | .lui imm rd => some (4, 5 + imm.toNat * 4096 + rd.toNat * 128)
  | .fli imm rd => some (4, 37 + imm.toNat * 4096 + rd.toNat * 128)
  | .faddi imm rd => some (4, 69 + imm.toNat * 4096 + rd.toNat * 128)
  | .fmuli imm rd => some (4, 101 + imm.toNat * 4096 + rd.toNat * 128)
  | .beq off rb ra stl => some (4, 7 + off.toNat * 1048576 + rb.toNat * 4096 + ra.toNat * 128 + stl.toNat * 32)
  | .bne off rb ra stl => some (4, 131079 + off.toNat * 1048576 + rb.toNat * 4096 + ra.toNat * 128 + stl.toNat * 32)
  | .blt off rb ra stl => some (4, 262151 + off.toNat * 1048576 + rb.toNat * 4096 + ra.toNat * 128 + stl.toNat * 32)
  | .bge off rb ra stl => some (4, 393223 + off.toNat * 1048576 + rb.toNat * 4096 + ra.toNat * 128 + stl.toNat * 32)
  | .bltu off rb ra stl => some (4, 524295 + off.toNat * 1048576 + rb.toNat * 4096 + ra.toNat * 128 + stl.toNat * 32)
  | .bgeu off rb ra stl => some (4, 655367 + off.toNat * 1048576 + rb.toNat * 4096 + ra.toNat * 128 + stl.toNat * 32)
  | .bpt off pa stl => some (4, 786439 + off.toNat * 1048576 + pa.toNat * 128 + stl.toNat * 32)
  | .bpf off pa stl => some (4, 917511 + off.toNat * 1048576 + pa.toNat * 128 + stl.toNat * 32)
  | .jal off rd stl => some (4, 9 + off.toNat * 16384 + rd.toNat * 128 + stl.toNat * 32)
  | .jalr off ra rd stl => some (4, 4105 + off.toNat * 524288 + ra.toNat * 16384 + rd.toNat * 128 + stl.toNat * 32)
  | .loop off rd stl => some (4, 8201 + off.toNat * 16384 + rd.toNat * 128 + stl.toNat * 32)
  | .ld off aq hint sz ra rd stl => some (4, 11 + off.toNat * 67108864 + aq.toNat * 4194304 + hint.toNat * 1048576 + sz.toNat * 131072 + ra.toNat * 4096 + rd.toNat * 128 + stl.toNat * 32)
  | .st off rl hint sz ra rd stl => some (4, 16777227 + off.toNat * 67108864 + rl.toNat * 8388608 + hint.toNat * 1048576 + sz.toNat * 131072 + ra.toNat * 4096 + rd.toNat * 128 + stl.toNat * 32)
  | .pref off hint ra stl => some (4, 33554443 + off.toNat * 67108864 + hint.toNat * 1048576 + ra.toNat * 4096 + stl.toNat * 32)
  | .disc off ra stl => some (4, 51380235 + off.toNat * 67108864 + ra.toNat * 4096 + stl.toNat * 32)
  | .fadd k w rb ra rd stl => some (4, 13 + k.toNat * 1073741824 + w.toNat * 268435456 + rb.toNat * 131072 + ra.toNat * 4096 + rd.toNat * 128 + stl.toNat * 32)
  | .faddL w ra rd stl lit => some (8, 2147483661 + w.toNat * 268435456 + ra.toNat * 4096 + rd.toNat * 128 + stl.toNat * 32 + lit.toNat * 4294967296)
  | .fsub k w rb ra rd stl => some (4, 4194317 + k.toNat * 1073741824 + w.toNat * 268435456 + rb.toNat * 131072 + ra.toNat * 4096 + rd.toNat * 128 + stl.toNat * 32)
  | .fsubL w ra rd stl lit => some (8, 2151677965 + w.toNat * 268435456 + ra.toNat * 4096 + rd.toNat * 128 + stl.toNat * 32 + lit.toNat * 4294967296)
  | .fmul k w rb ra rd stl => some (4, 8388621 + k.toNat * 1073741824 + w.toNat * 268435456 + rb.toNat * 131072 + ra.toNat * 4096 + rd.toNat * 128 + stl.toNat * 32)
  | .fmulL w ra rd stl lit => some (8, 2155872269 + w.toNat * 268435456 + ra.toNat * 4096 + rd.toNat * 128 + stl.toNat * 32 + lit.toNat * 4294967296)
  | .fdiv k w rb ra rd stl => some (4, 12582925 + k.toNat * 1073741824 + w.toNat * 268435456 + rb.toNat * 131072 + ra.toNat * 4096 + rd.toNat * 128 + stl.toNat * 32)
  | .fdivL w ra rd stl lit => some (8, 2160066573 + w.toNat * 268435456 + ra.toNat * 4096 + rd.toNat * 128 + stl.toNat * 32 + lit.toNat * 4294967296)
  | .fsqrt w ra rd stl => some (4, 16777229 + w.toNat * 268435456 + ra.toNat * 4096 + rd.toNat * 128 + stl.toNat * 32)
  | .fma k w rb ra rd stl => some (4, 20971533 + k.toNat * 1073741824 + w.toNat * 268435456 + rb.toNat * 131072 + ra.toNat * 4096 + rd.toNat * 128 + stl.toNat * 32)
  | .fmaL w ra rd stl lit => some (8, 2168455181 + w.toNat * 268435456 + ra.toNat * 4096 + rd.toNat * 128 + stl.toNat * 32 + lit.toNat * 4294967296)
  | .fmad k w rb ra rd stl => some (4, 25165837 + k.toNat * 1073741824 + w.toNat * 268435456 + rb.toNat * 131072 + ra.toNat * 4096 + rd.toNat * 128 + stl.toNat * 32)
  | .fmadL w ra rd stl lit => some (8, 2172649485 + w.toNat * 268435456 + ra.toNat * 4096 + rd.toNat * 128 + stl.toNat * 32 + lit.toNat * 4294967296)
  | .fnma k w rb ra rd stl => some (4, 29360141 + k.toNat * 1073741824 + w.toNat * 268435456 + rb.toNat * 131072 + ra.toNat * 4096 + rd.toNat * 128 + stl.toNat * 32)
  | .fnmaL w ra rd stl lit => some (8, 2176843789 + w.toNat * 268435456 + ra.toNat * 4096 + rd.toNat * 128 + stl.toNat * 32 + lit.toNat * 4294967296)
  | .fmin k w rb ra rd stl => some (4, 33554445 + k.toNat * 1073741824 + w.toNat * 268435456 + rb.toNat * 131072 + ra.toNat * 4096 + rd.toNat * 128 + stl.toNat * 32)
  | .fminL w ra rd stl lit => some (8, 2181038093 + w.toNat * 268435456 + ra.toNat * 4096 + rd.toNat * 128 + stl.toNat * 32 + lit.toNat * 4294967296)
  | .fmax k w rb ra rd stl => some (4, 37748749 + k.toNat * 1073741824 + w.toNat * 268435456 + rb.toNat * 131072 + ra.toNat * 4096 + rd.toNat * 128 + stl.toNat * 32)
  | .fmaxL w ra rd stl lit => some (8, 2185232397 + w.toNat * 268435456 + ra.toNat * 4096 + rd.toNat * 128 + stl.toNat * 32 + lit.toNat * 4294967296)
  | .fsgn var w rb ra rd stl => some (4, 41943053 + var.toNat * 1073741824 + w.toNat * 268435456 + rb.toNat * 131072 + ra.toNat * 4096 + rd.toNat * 128 + stl.toNat * 32)
  | .fcmp k w rb ra cc pd stl => some (4, 46137357 + k.toNat * 1073741824 + w.toNat * 268435456 + rb.toNat * 131072 + ra.toNat * 4096 + cc.toNat * 1024 + pd.toNat * 128 + stl.toNat * 32)
  | .fcmpL w ra cc pd stl lit => some (8, 2193621005 + w.toNat * 268435456 + ra.toNat * 4096 + cc.toNat * 1024 + pd.toNat * 128 + stl.toNat * 32 + lit.toNat * 4294967296)
  | .fclass w ra rd stl => some (4, 50331661 + w.toNat * 268435456 + ra.toNat * 4096 + rd.toNat * 128 + stl.toNat * 32)
  | .fcvt src dst ra rd stl => some (4, 54525965 + src.toNat * 268435456 + dst.toNat * 131072 + ra.toNat * 4096 + rd.toNat * 128 + stl.toNat * 32)
  | .fex2 ra rd stl => some (4, 327155725 + ra.toNat * 4096 + rd.toNat * 128 + stl.toNat * 32)
  | .flg2 ra rd stl => some (4, 331350029 + ra.toNat * 4096 + rd.toNat * 128 + stl.toNat * 32)
  | .frcp ra rd stl => some (4, 335544333 + ra.toNat * 4096 + rd.toNat * 128 + stl.toNat * 32)
  | .frsq ra rd stl => some (4, 339738637 + ra.toNat * 4096 + rd.toNat * 128 + stl.toNat * 32)
  | .fsinp ra rd stl => some (4, 343932941 + ra.toNat * 4096 + rd.toNat * 128 + stl.toNat * 32)
  | .fcosp ra rd stl => some (4, 348127245 + ra.toNat * 4096 + rd.toNat * 128 + stl.toNat * 32)
  | .vadd s mk rb ra rd stl => some (4, 15 + s.toNat * 2147483648 + mk.toNat * 268435456 + rb.toNat * 131072 + ra.toNat * 4096 + rd.toNat * 128 + stl.toNat * 32)
  | .vsub s mk rb ra rd stl => some (4, 4194319 + s.toNat * 2147483648 + mk.toNat * 268435456 + rb.toNat * 131072 + ra.toNat * 4096 + rd.toNat * 128 + stl.toNat * 32)
  | .vmul s mk rb ra rd stl => some (4, 8388623 + s.toNat * 2147483648 + mk.toNat * 268435456 + rb.toNat * 131072 + ra.toNat * 4096 + rd.toNat * 128 + stl.toNat * 32)
  | .vfma s mk rb ra rd stl => some (4, 12582927 + s.toNat * 2147483648 + mk.toNat * 268435456 + rb.toNat * 131072 + ra.toNat * 4096 + rd.toNat * 128 + stl.toNat * 32)
  | .vdiv s mk rb ra rd stl => some (4, 16777231 + s.toNat * 2147483648 + mk.toNat * 268435456 + rb.toNat * 131072 + ra.toNat * 4096 + rd.toNat * 128 + stl.toNat * 32)
  | .vsqrt mk ra rd stl => some (4, 20971535 + mk.toNat * 268435456 + ra.toNat * 4096 + rd.toNat * 128 + stl.toNat * 32)
  | .vmin s mk rb ra rd stl => some (4, 25165839 + s.toNat * 2147483648 + mk.toNat * 268435456 + rb.toNat * 131072 + ra.toNat * 4096 + rd.toNat * 128 + stl.toNat * 32)
  | .vmax s mk rb ra rd stl => some (4, 29360143 + s.toNat * 2147483648 + mk.toNat * 268435456 + rb.toNat * 131072 + ra.toNat * 4096 + rd.toNat * 128 + stl.toNat * 32)
  | .vabs mk ra rd stl => some (4, 33554447 + mk.toNat * 268435456 + ra.toNat * 4096 + rd.toNat * 128 + stl.toNat * 32)
  | .vneg mk ra rd stl => some (4, 37748751 + mk.toNat * 268435456 + ra.toNat * 4096 + rd.toNat * 128 + stl.toNat * 32)
  | .vand s mk rb ra rd stl => some (4, 41943055 + s.toNat * 2147483648 + mk.toNat * 268435456 + rb.toNat * 131072 + ra.toNat * 4096 + rd.toNat * 128 + stl.toNat * 32)
  | .vor s mk rb ra rd stl => some (4, 46137359 + s.toNat * 2147483648 + mk.toNat * 268435456 + rb.toNat * 131072 + ra.toNat * 4096 + rd.toNat * 128 + stl.toNat * 32)
  | .vxor s mk rb ra rd stl => some (4, 50331663 + s.toNat * 2147483648 + mk.toNat * 268435456 + rb.toNat * 131072 + ra.toNat * 4096 + rd.toNat * 128 + stl.toNat * 32)
  | .vshl s mk rb ra rd stl => some (4, 54525967 + s.toNat * 2147483648 + mk.toNat * 268435456 + rb.toNat * 131072 + ra.toNat * 4096 + rd.toNat * 128 + stl.toNat * 32)
  | .vshr s mk rb ra rd stl => some (4, 58720271 + s.toNat * 2147483648 + mk.toNat * 268435456 + rb.toNat * 131072 + ra.toNat * 4096 + rd.toNat * 128 + stl.toNat * 32)
  | .vsra s mk rb ra rd stl => some (4, 62914575 + s.toNat * 2147483648 + mk.toNat * 268435456 + rb.toNat * 131072 + ra.toNat * 4096 + rd.toNat * 128 + stl.toNat * 32)
  | .vcmp s mk rb ra cc md stl => some (4, 67108879 + s.toNat * 2147483648 + mk.toNat * 268435456 + rb.toNat * 131072 + ra.toNat * 4096 + cc.toNat * 1024 + md.toNat * 128 + stl.toNat * 32)
  | .vsel s mk rb ra rd stl => some (4, 71303183 + s.toNat * 2147483648 + mk.toNat * 268435456 + rb.toNat * 131072 + ra.toNat * 4096 + rd.toNat * 128 + stl.toNat * 32)
  | .vcvt mk ft ra rd stl => some (4, 75497487 + mk.toNat * 268435456 + ft.toNat * 131072 + ra.toNat * 4096 + rd.toNat * 128 + stl.toNat * 32)
  | .vsfu mk fn ra rd stl => some (4, 79691791 + mk.toNat * 268435456 + fn.toNat * 131072 + ra.toNat * 4096 + rd.toNat * 128 + stl.toNat * 32)
  | .vclaim lg rd stl => some (4, 17 + lg.toNat * 131072 + rd.toNat * 128 + stl.toNat * 32)
  | .vrel stl => some (4, 4194321 + stl.toNat * 32)
  | .vlen rd stl => some (4, 8388625 + rd.toNat * 128 + stl.toNat * 32)
  | .vld mk ft ra rd stl => some (4, 12582929 + mk.toNat * 268435456 + ft.toNat * 131072 + ra.toNat * 4096 + rd.toNat * 128 + stl.toNat * 32)
  | .vlds mk rb ra rd stl => some (4, 16777233 + mk.toNat * 268435456 + rb.toNat * 131072 + ra.toNat * 4096 + rd.toNat * 128 + stl.toNat * 32)
  | .vldx mk rb ra rd stl => some (4, 20971537 + mk.toNat * 268435456 + rb.toNat * 131072 + ra.toNat * 4096 + rd.toNat * 128 + stl.toNat * 32)
  | .vst mk ra rd stl => some (4, 25165841 + mk.toNat * 268435456 + ra.toNat * 4096 + rd.toNat * 128 + stl.toNat * 32)
  | .vsts mk rb ra rd stl => some (4, 29360145 + mk.toNat * 268435456 + rb.toNat * 131072 + ra.toNat * 4096 + rd.toNat * 128 + stl.toNat * 32)
  | .vstx mk rb ra rd stl => some (4, 33554449 + mk.toNat * 268435456 + rb.toNat * 131072 + ra.toNat * 4096 + rd.toNat * 128 + stl.toNat * 32)
  | .vbc mk ft ra rd stl => some (4, 37748753 + mk.toNat * 268435456 + ft.toNat * 131072 + ra.toNat * 4096 + rd.toNat * 128 + stl.toNat * 32)
  | .vperm mk rb ra rd stl => some (4, 41943057 + mk.toNat * 268435456 + rb.toNat * 131072 + ra.toNat * 4096 + rd.toNat * 128 + stl.toNat * 32)
  | .vslide mk rb ra rd stl => some (4, 2193621009 + mk.toNat * 268435456 + rb.toNat * 131072 + ra.toNat * 4096 + rd.toNat * 128 + stl.toNat * 32)
  | .vred mk op ra rd stl => some (4, 50331665 + mk.toNat * 268435456 + op.toNat * 131072 + ra.toNat * 4096 + rd.toNat * 128 + stl.toNat * 32)
  | .vscan mk op ra rd stl => some (4, 54525969 + mk.toNat * 268435456 + op.toNat * 131072 + ra.toNat * 4096 + rd.toNat * 128 + stl.toNat * 32)
  | .vmop mb ttLo ma ttHi md stl => some (4, 58720273 + mb.toNat * 131072 + ttLo.toNat * 32768 + ma.toNat * 4096 + ttHi.toNat * 1024 + md.toNat * 128 + stl.toNat * 32)
  | .vtag ft rd stl => some (4, 62914577 + ft.toNat * 131072 + rd.toNat * 128 + stl.toNat * 32)
  | .vxtr rb ra rd stl => some (4, 67108881 + rb.toNat * 131072 + ra.toNat * 4096 + rd.toNat * 128 + stl.toNat * 32)
  | .mzero dbl ad stl => some (4, 19 + dbl.toNat * 134217728 + ad.toNat * 128 + stl.toNat * 32)
  | .mzeroG dbl pd ad stl => some (4, 268435475 + dbl.toNat * 134217728 + pd.toNat * 131072 + ad.toNat * 128 + stl.toNat * 32)
  | .mma rb ra ad stl => some (4, 4194323 + rb.toNat * 131072 + ra.toNat * 4096 + ad.toNat * 128 + stl.toNat * 32)
  | .mmaResume rb ra ad stl => some (4, 138412051 + rb.toNat * 131072 + ra.toNat * 4096 + ad.toNat * 128 + stl.toNat * 32)
  | .mmag rb ra ad stl => some (4, 8388627 + rb.toNat * 131072 + ra.toNat * 4096 + ad.toNat * 128 + stl.toNat * 32)
  | .mmagResume rb ra ad stl => some (4, 142606355 + rb.toNat * 131072 + ra.toNat * 4096 + ad.toNat * 128 + stl.toNat * 32)
  | .mdrain grp rb ra ad stl => some (4, 12582931 + grp.toNat * 268435456 + rb.toNat * 131072 + ra.toNat * 4096 + ad.toNat * 128 + stl.toNat * 32)
  | .mfill rb ra ad stl => some (4, 16777235 + rb.toNat * 131072 + ra.toNat * 4096 + ad.toNat * 128 + stl.toNat * 32)
  | .astage rb ra rd stl => some (4, 20971539 + rb.toNat * 131072 + ra.toNat * 4096 + rd.toNat * 128 + stl.toNat * 32)
  | .pload rb ra rd stl => some (4, 25165843 + rb.toNat * 131072 + ra.toNat * 4096 + rd.toNat * 128 + stl.toNat * 32)
  | .pevict ra stl => some (4, 29360147 + ra.toNat * 4096 + stl.toNat * 32)
  | .pstat src ra rd stl => some (4, 33554451 + src.toNat * 134217728 + ra.toNat * 4096 + rd.toNat * 128 + stl.toNat * 32)
  | .hspost hs stl => some (4, 37748755 + hs.toNat * 131072 + stl.toNat * 32)
  | .hswait hs stl => some (4, 41943059 + hs.toNat * 131072 + stl.toNat * 32)
  | .copy rb ra stl => some (4, 21 + rb.toNat * 131072 + ra.toNat * 16384 + stl.toNat * 32)
  | .gath rb ra stl => some (4, 4194325 + rb.toNat * 131072 + ra.toNat * 16384 + stl.toNat * 32)
  | .gathCb rb ra stl => some (4, 138412053 + rb.toNat * 131072 + ra.toNat * 16384 + stl.toNat * 32)
  | .scat rb ra stl => some (4, 8388629 + rb.toNat * 131072 + ra.toNat * 16384 + stl.toNat * 32)
  | .mgopen rb ra stl => some (4, 12582933 + rb.toNat * 131072 + ra.toNat * 4096 + stl.toNat * 32)
  | .mgfeed rb ra stl => some (4, 16777237 + rb.toNat * 131072 + ra.toNat * 16384 + stl.toNat * 32)
  | .mgclose ra stl => some (4, 20971541 + ra.toNat * 4096 + stl.toNat * 32)
  | .qfence qs stl => some (4, 25165845 + qs.toNat * 134217728 + stl.toNat * 32)
  | .evwait nb ev rd stl => some (4, 29360149 + nb.toNat * 134217728 + ev.toNat * 131072 + rd.toNat * 128 + stl.toNat * 32)
  | .sbind dir sz gen ra rd stl => some (4, 33556501 + dir.toNat * 1073741824 + sz.toNat * 134217728 + gen.toNat * 131072 + ra.toNat * 16384 + rd.toNat * 128 + stl.toNat * 32)
  | .sunbind gen stl => some (4, 37748757 + gen.toNat * 131072 + stl.toNat * 32)
  | .bankset mode ra pd stl => some (4, 41943061 + mode.toNat * 134217728 + ra.toNat * 4096 + pd.toNat * 128 + stl.toNat * 32)
  | .spset ra pd stl => some (4, 46137365 + ra.toNat * 4096 + pd.toNat * 128 + stl.toNat * 32)
  | .aadd noRet ty rb ra rd stl => some (4, 23 + noRet.toNat * 2147483648 + ty.toNat * 67108864 + rb.toNat * 131072 + ra.toNat * 4096 + rd.toNat * 128 + stl.toNat * 32)
  | .aand noRet ty rb ra rd stl => some (4, 4194327 + noRet.toNat * 2147483648 + ty.toNat * 67108864 + rb.toNat * 131072 + ra.toNat * 4096 + rd.toNat * 128 + stl.toNat * 32)
  | .aor noRet ty rb ra rd stl => some (4, 8388631 + noRet.toNat * 2147483648 + ty.toNat * 67108864 + rb.toNat * 131072 + ra.toNat * 4096 + rd.toNat * 128 + stl.toNat * 32)
  | .axor noRet ty rb ra rd stl => some (4, 12582935 + noRet.toNat * 2147483648 + ty.toNat * 67108864 + rb.toNat * 131072 + ra.toNat * 4096 + rd.toNat * 128 + stl.toNat * 32)
  | .amin noRet ty rb ra rd stl => some (4, 16777239 + noRet.toNat * 2147483648 + ty.toNat * 67108864 + rb.toNat * 131072 + ra.toNat * 4096 + rd.toNat * 128 + stl.toNat * 32)
  | .amax noRet ty rb ra rd stl => some (4, 20971543 + noRet.toNat * 2147483648 + ty.toNat * 67108864 + rb.toNat * 131072 + ra.toNat * 4096 + rd.toNat * 128 + stl.toNat * 32)
  | .aswap noRet ty rb ra rd stl => some (4, 25165847 + noRet.toNat * 2147483648 + ty.toNat * 67108864 + rb.toNat * 131072 + ra.toNat * 4096 + rd.toNat * 128 + stl.toNat * 32)
  | .acas noRet ty rb ra rd stl => some (4, 29360151 + noRet.toNat * 2147483648 + ty.toNat * 67108864 + rb.toNat * 131072 + ra.toNat * 4096 + rd.toNat * 128 + stl.toNat * 32)
  | .acasq noRet rb ra rd stl => some (4, 33554455 + noRet.toNat * 2147483648 + rb.toNat * 262144 + ra.toNat * 4096 + rd.toNat * 256 + stl.toNat * 32)
  | .afadd noRet ty rb ra rd stl => some (4, 37748759 + noRet.toNat * 2147483648 + ty.toNat * 67108864 + rb.toNat * 131072 + ra.toNat * 4096 + rd.toNat * 128 + stl.toNat * 32)
  | .afmin noRet ty rb ra rd stl => some (4, 41943063 + noRet.toNat * 2147483648 + ty.toNat * 67108864 + rb.toNat * 131072 + ra.toNat * 4096 + rd.toNat * 128 + stl.toNat * 32)
  | .afmax noRet ty rb ra rd stl => some (4, 46137367 + noRet.toNat * 2147483648 + ty.toNat * 67108864 + rb.toNat * 131072 + ra.toNat * 4096 + rd.toNat * 128 + stl.toNat * 32)
  | .atopk noRet rb ra rd stl => some (4, 50331671 + noRet.toNat * 2147483648 + rb.toNat * 131072 + ra.toNat * 4096 + rd.toNat * 128 + stl.toNat * 32)
  | .vatom noRet op rb ra rd stl => some (4, 54525975 + noRet.toNat * 2147483648 + op.toNat * 67108864 + rb.toNat * 131072 + ra.toNat * 4096 + rd.toNat * 128 + stl.toNat * 32)
  | .aflag ra rd stl => some (4, 58720279 + ra.toNat * 4096 + rd.toNat * 128 + stl.toNat * 32)
  | .fence scope stl => some (4, 25 + scope.toNat * 134217728 + stl.toNat * 32)
  | .tfence page scope ra stl => some (4, 4194329 + page.toNat * 1073741824 + scope.toNat * 134217728 + ra.toNat * 4096 + stl.toNat * 32)
  | .bmask ra stl => some (4, 8388633 + ra.toNat * 4096 + stl.toNat * 32)
  | .barv ch stl => some (4, 12582937 + ch.toNat * 131072 + stl.toNat * 32)
  | .bwait ch stl => some (4, 16777241 + ch.toNat * 131072 + stl.toNat * 32)
  | .btest ch pd stl => some (4, 20971545 + ch.toNat * 131072 + pd.toNat * 128 + stl.toNat * 32)
  | .mbinit rb ra stl => some (4, 25165849 + rb.toNat * 131072 + ra.toNat * 4096 + stl.toNat * 32)
  | .mbarv scope ra rd stl => some (4, 29360153 + scope.toNat * 134217728 + ra.toNat * 4096 + rd.toNat * 128 + stl.toNat * 32)
  | .mbwait scope rb ra rd stl => some (4, 33554457 + scope.toNat * 134217728 + rb.toNat * 131072 + ra.toNat * 4096 + rd.toNat * 128 + stl.toNat * 32)
  | .mbtest scope ra rd stl => some (4, 37748761 + scope.toNat * 134217728 + ra.toNat * 4096 + rd.toNat * 128 + stl.toNat * 32)
  | .swinit rb ra stl => some (4, 41943065 + rb.toNat * 131072 + ra.toNat * 4096 + stl.toNat * 32)
  | .swwait scope rb ra rd stl => some (4, 46137369 + scope.toNat * 134217728 + rb.toNat * 131072 + ra.toNat * 4096 + rd.toNat * 128 + stl.toNat * 32)
  | .swtest scope ra rd stl => some (4, 50331673 + scope.toNat * 134217728 + ra.toNat * 4096 + rd.toNat * 128 + stl.toNat * 32)
  | .qpush nb qn ra pd stl => some (4, 54525977 + nb.toNat * 134217728 + qn.toNat * 131072 + ra.toNat * 4096 + pd.toNat * 128 + stl.toNat * 32)
  | .qpop nb qn pd rd stl => some (4, 58720281 + nb.toNat * 134217728 + qn.toNat * 131072 + pd.toNat * 4096 + rd.toNat * 128 + stl.toNat * 32)
  | .qsend last rb ra stl => some (4, 62914585 + last.toNat * 134217728 + rb.toNat * 131072 + ra.toNat * 4096 + stl.toNat * 32)
  | .indesc sel word slot rd stl => some (4, 27 + sel.toNat * 134217728 + word.toNat * 131072 + slot.toNat * 4096 + rd.toNat * 128 + stl.toNat * 32)
  | .emit ra stl => some (4, 4194331 + ra.toNat * 16384 + stl.toNat * 32)
  | .emitv rb ra stl => some (4, 8388635 + rb.toNat * 131072 + ra.toNat * 4096 + stl.toNat * 32)
  | .commit stl => some (4, 12582939 + stl.toNat * 32)
  | .abort stl => some (4, 16777243 + stl.toNat * 32)
  | .bop kHi rb ra kLo stl => some (4, 20971547 + kHi.toNat * 134217728 + rb.toNat * 131072 + ra.toNat * 4096 + kLo.toNat * 128 + stl.toNat * 32)
  | .bopEnd stl => some (4, 289407003 + stl.toNat * 32)
  | .idem ra stl => some (4, 25165851 + ra.toNat * 4096 + stl.toNat * 32)
  | .kld kn rd stl => some (4, 29360155 + kn.toNat * 131072 + rd.toNat * 128 + stl.toNat * 32)
  | .kldX ra rd stl => some (4, 163577883 + ra.toNat * 4096 + rd.toNat * 128 + stl.toNat * 32)
  | .trap nHi nMid nLo stl => some (4, 29 + nHi.toNat * 131072 + nMid.toNat * 4096 + nLo.toNat * 128 + stl.toNat * 32)
  | .eret stl => some (4, 4194333 + stl.toNat * 32)
  | .eretFault stl => some (4, 138412061 + stl.toNat * 32)
  | .eretEnd stl => some (4, 272629789 + stl.toNat * 32)
  | .crr cr rd stl => some (4, 8388637 + cr.toNat * 131072 + rd.toNat * 128 + stl.toNat * 32)
  | .crw cr ra stl => some (4, 12582941 + cr.toNat * 131072 + ra.toNat * 4096 + stl.toNat * 32)
  | .ids rd stl => some (4, 16777245 + rd.toNat * 128 + stl.toNat * 32)
  | .waiti ra rd stl => some (4, 20971549 + ra.toNat * 4096 + rd.toNat * 128 + stl.toNat * 32)
  | .rspawn ra rd stl => some (4, 25165853 + ra.toNat * 4096 + rd.toNat * 128 + stl.toNat * 32)
  | .ctxsw ra stl => some (4, 29360157 + ra.toNat * 4096 + stl.toNat * 32)
  | .cIll n => some (2, 0 + n.toNat * 32)
  | .cMov rs rd => some (2, 2 + rs.toNat * 1024 + rd.toNat * 32)
  | .cAddi imm rd => some (2, 4 + imm.toNat * 1024 + rd.toNat * 32)
  | .cAdd rs rd => some (2, 6 + rs.toNat * 1024 + rd.toNat * 32)
  | .cSub rs rd => some (2, 8 + rs.toNat * 1024 + rd.toNat * 32)
  | .cLdd uoff rd => some (2, 10 + uoff.toNat * 1024 + rd.toNat * 32)
  | .cStd uoff rs => some (2, 12 + uoff.toNat * 1024 + rs.toNat * 32)
  | .cBeqz off rs => some (2, 14 + off.toNat * 1024 + rs.toNat * 32)
  | .cBnez off rs => some (2, 16 + off.toNat * 1024 + rs.toNat * 32)
  | .cJ off => some (2, 18 + off.toNat * 32)
  | .cRet => some (2, 20)
  | .cWait => some (2, 22)
  | .cNop => some (2, 24)
  | .cCmt => some (2, 26)
  | .notify _ _ _ => none
  | .nop _ _ _ => none
  | .start _ _ _ => none
  | .seed _ _ _ => none
  | .await _ _ _ => none
  | .awaitCompletion _ _ _ => none
  | .signal _ _ _ => none
  | .copyPacket _ _ _ => none
  | .cpjump _ _ _ => none
  | .cmdLoop _ _ _ => none
  | .cmdIf _ _ _ => none
  | .cmdStart _ _ _ => none
  | .cmdSeed _ _ _ => none
  | .cmdWait _ _ _ => none
  | .cmdSignal _ _ _ => none
  | .cmdRet _ _ _ => none
  | .root _ _ => none
  | .qva _ _ => none
  | .qoff _ _ => none
  | .ftail _ _ => none
  | .ntail _ _ => none
  | .retry _ _ => none
  | .deliver _ _ => none
  | .nrel _ _ => none
  | .cstart _ _ => none
  | .compatThreadLoad _ => none
  | .freset _ _ => none
  | .slen _ => none
  | .map _ => none
  | .nvec _ => none
  | .registerWrite _ _ _ => none
  | .powerOn _ _ => none
  | .lifecycleChange _ _ _ => none
  | .attestation _ => none
  | .sieveMatch _ => none
  | .overflowSweep _ _ => none
  | .groupArrival _ _ => none
  | .dispatch _ => none
  | .productInsert _ _ => none
  | .productAck _ _ => none
  | .stabilityWave _ => none
  | .waveReport => none
  | .regionComplete _ => none
  | .completionTile _ => none
  | .sliceEnd => none
  | .sliceStart _ => none
  | .preemptStop _ => none
  | .firingResume _ => none
  | .btimeExpiry _ => none
  | .budget _ => none
  | .conflictAbort _ => none
  | .sfuComplete _ => none
  | .enginePerform _ _ => none
  | .enginePiece _ _ => none
  | .engineReport _ _ => none
  | .stagingPerform _ _ => none
  | .matrixPerform _ _ => none
  | .panelReload _ _ => none
  | .phaseFlip _ _ _ _ => none
  | .bankModeChange _ _ => none
  | .qsendBoundExpiry _ => none
  | .waitiTimeout _ => none
  | .claimHoldoffExpiry _ _ => none
  | .descriptorEccError _ _ _ => none
  | .engineInternalError _ _ => none
  | .dispatchLost _ => none
  | .decodeFault _ => none
  | .fetchFault _ _ => none
  | .uncorrectableError _ _ _ => none
  | .reset => none
  | .vfEnable _ => none
  | .compatThreadResume _ => none

/-- The bytes of an instruction as memory holds them (R1, R135); none for a device step. -/
def encodeBytes (i : Instr) : List Byte :=
  match encode i with
  | some (n, w) => leBytes n w
  | none => []

/-- The instruction bits that a trap puts into cr.tval: the first 32 bits, or 16 for a compact instruction, zero-extended
(R137). The literal word is no part of them. -/
def instrBits (i : Instr) : Word :=
  match encode i with
  | some (_, w) => BitVec.ofNat 64 (w % 2 ^ 32)
  | none => 0

/-- The length of an instruction in bytes (R135); 0 for a device step. -/
def instrLen (i : Instr) : Nat :=
  match encode i with
  | some (n, _) => n
  | none => 0

end Sys2Proof
end

