-- ==== Sys2Proof/Config.lean ====
section
/-! DEFINITION. What an implementation fixes and the values the manual leaves open. An opaque constant has no body: no
proof can see its value, so a statement about it holds for every value. A free value of one step is such a constant
applied to the plain counter `State.fresh`. -/

namespace Sys2Proof.Config

/-- The module's stepping: true for B0, false for A2 (R126). -/
opaque stepB0 : Bool

/-- Control cycles that pass while a core waits for a variable-latency result or fetches after a taken transfer (R131,
R177): the manual binds none. -/
opaque waitCycles : Nat → Nat

/-- A word whose value the manual leaves open, fresh for each use. -/
opaque freeWord : Nat → Word

/-- A choice the manual leaves to the implementation, fresh for each use. -/
opaque freeChoice : Nat → Nat

/-- The way of a cluster memory cache that a line takes, by control cycle and line number (R235: any way). -/
opaque cacheWay : Nat → Nat → Nat

/-- The control cores that the monitor withholds from partitions (R449). -/
opaque withheld : List Nat

/-- Size in bytes of the partition's overflow area, which firmware reserves (R103, R444: OVF). -/
opaque overflowBytes : Nat

/-- Size in bytes of the partition's snapshot area, which firmware reserves (R398, R444: SNAP). -/
opaque snapshotBytes : Nat

/-- Size in bytes of the functions' save area, which firmware reserves (R237, R444: SAVE). -/
opaque saveBytes : Nat

/-- The digests of the boot ROM and of the monitor (R451). -/
opaque romDigest : Nat
opaque monitorDigest : Nat

/-- The digest of the firmware image in the first slot of the boot store, or in the second (R449, R451). -/
opaque imageDigest : Bool → Nat

/-- The signature with the module's identity key over an attestation's digests, life-cycle state and nonce (R451). -/
opaque signature : List Nat → Nat → BitVec 512 → List Word

end Sys2Proof.Config
end

