-- ==== Sys2Proof/Machine/State.lean ====
section
/-! DEFINITION. The state of one partition of a TZ-8 (spec/05_launch.md R91: partitions do not affect one another), as
plain data, and the state after reset. Tables keyed by a number are lists of pairs; an absent key stands for the
default record. Core key: module-wide cluster × 16 + k, with k 0-7 a general core, 8-11 the stager and 12-15 the issuer
of cells 0-3 (R8, R121). A key of 0x10000 and above is a saved core, its low 16 bits the key it had (R382, R385). -/

namespace Sys2Proof.Machine

/-- A table keyed by a number. -/
abbrev Tbl (α : Type) := List (Nat × α)

/-- Why a step stops without a next state. -/
inductive Fault where
  /-- Raised by a step whose agenda names an instruction where a device step belongs. No machine takes such a turn, so
  stopping there is safe. -/
  | agendaInstruction
  deriving DecidableEq, Repr

/-- Why a step is refused. -/
inductive Refusal where
  /-- Raised by Dispatch alone, for an instruction without a meaning. Safe: nothing is claimed of it. -/
  | notModelled (mnemonic : String)
  deriving DecidableEq, Repr

/-! ## Memory -/

/-- Bytes by address in one canonical form (addresses rising, no entry equal to 0, which is what an unlisted byte reads
as: R402 wipes with zero), and the poisoned 8-byte granules, rising (R254). -/
structure Memory where
  cells : List Host.Cell
  bad : List Nat
  deriving DecidableEq, Repr

/-- Memory as a wipe leaves it (R402). -/
def Memory.empty : Memory := { cells := [], bad := [] }

/-- Retention hints (R242); `df` is resolved to one of the four by the page. -/
inductive Hint where
  | streaming | default | sticky | bypass
  deriving DecidableEq, Repr

/-- A line held in a first-level cache, in the cluster memory cache or in a home slice (R231, R235, R239, R240): its
number PA >> 7, 128 bytes (byte 0 lowest), a dirty bit per byte, poison per granule. Recency is the order of the list
that holds it, most recent first. -/
structure Line where
  num : Nat
  data : BitVec 1024
  dirty : BitVec 128
  poison : BitVec 16
  hint : Hint
  /-- In a cluster memory cache, the bank whose way holds it (R235). -/
  way : Nat
  /-- Every access that brought it in or hit it was to a UO page (R356). -/
  uo : Bool
  deriving DecidableEq, Repr

/-- Where a byte lies. -/
inductive Place where
  /-- Offset in a core's array: system area from 0, scratchpad from 0x8000. -/
  | arr (core off : Nat)
  /-- Byte of a bank of a cluster. -/
  | bank (cluster off : Nat)
  /-- Device memory, by physical address [41:0]. -/
  | dev (pa : Nat)
  /-- Host memory, by bus address. -/
  | host (pa : Nat)
  /-- Byte of the column store of a cluster's four cells, by window offset (R251). -/
  | panel (cluster off : Nat)
  deriving DecidableEq, Repr

/-- The ORD class of an access (R244). -/
inductive OrdClass where
  | rc | so | uo
  deriving DecidableEq, Repr

/-- A translation held in a TLB (R247): a leaf of some size with its address space (function × 256 + process), G bit,
first page number VA[52:13], number of 8 KiB pages, and the PTE. -/
structure TlbEntry where
  space : Nat
  vpn : Nat
  pages : Nat
  pte : Word
  deriving DecidableEq, Repr

/-! ## Cores -/

/-- The control registers of R125, each 64 bits; cr.ids is computed. -/
structure Ctl where
  wp : Word
  ctx : Word
  epc : Word
  cause : Word
  tval : Word
  fflags : Word
  frm : Word
  sbchk : Word
  idemchk : Word
  compat : Word
  deriving DecidableEq, Repr

/-- The control registers after reset (R125). -/
def Ctl.reset : Ctl :=
  { wp := 0x400, ctx := 0, epc := 0, cause := 0, tval := 0, fflags := 0, frm := 0, sbchk := 0, idemchk := 0, compat := 0 }

/-- A stream generator (R264). -/
structure Gen where
  addr : BitVec 53
  stride : Word
  reg : BitVec 5
  bound : Bool
  write : Bool
  sz : BitVec 3
  count : BitVec 32
  deriving DecidableEq, Repr

/-- A generator as dispatch leaves it (R129). -/
def Gen.zero : Gen := { addr := 0, stride := 0, reg := 0, bound := false, write := false, sz := 0, count := 0 }

/-- An element that a read stream has read ahead of its pop: the 128-byte blocks that it lies in, and its value (R267). -/
structure Ahead where
  blocks : List Place
  value : Word
  deriving DecidableEq, Repr

/-- What the device keeps of the entry of the open idempotent region (R268, R381). -/
structure Entry where
  preds : BitVec 8
  gens : Tbl Gen
  ctl : Ctl
  deriving DecidableEq, Repr

/-- What the device keeps of the open region of a context that a trap has left: its entry, and what `noDiscard`, `waitOpen` and `empty` of
the core held in it (R370, R381). -/
structure Outer where
  entry : Entry
  noDiscard : Bool
  waitOpen : Bool
  empty : Bool
  deriving DecidableEq, Repr

/-- A workspace register, by its system-area offset, a predicate, a vector register or mask of a core, or a read stream. -/
inductive Loc where
  | w (off : Nat)
  | p (n : Nat)
  | v (n : Nat)
  | m (n : Nat)
  /-- The next element of a read stream, as an operand (R266). -/
  | g (n : Nat)
  deriving DecidableEq, Repr

/-- A fixed-latency write that is not yet readable (R131, R132): before cycle `ready` the location reads `old`. -/
structure Pend where
  loc : Loc
  ready : Nat
  old : Word
  deriving DecidableEq, Repr

/-- An event line (R303). -/
structure EvLine where
  count : Nat
  code : Nat
  detail : Nat
  deriving DecidableEq, Repr

/-- An event line with nothing posted. -/
def EvLine.zero : EvLine := { count := 0, code := 0, detail := 0 }

/-- What a core is doing (R121, R215, R385). -/
inductive CoreRun where
  /-- No work. -/
  | idle
  /-- A firing, by its number. -/
  | firing (f : Nat)
  /-- A firing whose partner core has not committed yet (R215). -/
  | committed (f : Nat)
  /-- A compatibility thread of a function and process, with its end word's VA and whether it has a handler (R447). -/
  | thread (func proc : Nat) (endWord : Nat) (handler : Bool)
  /-- Withheld or fenced, out of service (R396). -/
  | out
  deriving DecidableEq, Repr

/-- The per-channel side of the wired barriers on a core (R340, R341). -/
structure Chan where
  joined : Bool
  arrived : Bool
  phase : Bool
  deriving DecidableEq, Repr

/-- A core's state (spec/07_cores_and_workspace.md and the chapters it names). -/
structure Core where
  /-- System area (offsets 0x0000-0x7FFF) and scratchpad (from 0x8000), R122, R230. The workspace registers are bytes
  of it (R123). -/
  arr : Memory
  /-- Scratchpad size in 16 KiB blocks (R230). -/
  spN : Nat
  preds : BitVec 8
  pc : BitVec 53
  cr : Ctl
  ient : BitVec 53
  imask : BitVec 32
  ipc : Nat
  pcnt : Nat
  entry : Entry
  /-- The open region may not be discarded (R326, R348). -/
  noDiscard : Bool
  /-- The open region was opened by a wait at its own instruction (R380). -/
  waitOpen : Bool
  /-- No instruction has completed since the open region was entered (R298, R381). -/
  empty : Bool
  /-- The contexts that traps have left and no ERET has entered again, by the offset of their block. -/
  outers : Tbl Outer
  /-- While the handler runs: the interrupted context's block. -/
  outerCtx : Word
  /-- A boundary other than IDEM has been passed since dispatch (R382). -/
  passed : Bool
  /-- An MTX instruction has been performed since dispatch (R298). -/
  mtx : Bool
  req : Nat
  grant : Nat
  lane : Nat
  vregs : Tbl (List Word)
  masks : Tbl (BitVec 4096)
  vtags : Tbl (BitVec 8)
  atags : Tbl (BitVec 8)
  gens : Tbl Gen
  /-- Elements that each generator's read stream has read ahead, next one first (R267). -/
  ahead : Tbl (List Ahead)
  evs : Tbl EvLine
  /-- Barrier mask: MEMBER and SPAN (R339). -/
  bmask : Word
  chans : Tbl Chan
  l1 : List Line
  /-- Lines of UO pages as the replicas held them before the core's acquires dropped them: a UO load may still read them until the next
  FENCE or TFENCE (R356). -/
  uoOld : List Line
  tlb : List TlbEntry
  /-- Bytes stored since the last FENCE: what stood there before, which fetch may still see, and what was stored (R136). -/
  hide : List (Place × Byte × Byte)
  /-- Control cycle at which the next instruction may issue (R131). -/
  cycle : Nat
  pend : List Pend
  /-- Locations whose variable-latency result has not been read yet (R131). -/
  vpend : List Loc
  run : CoreRun
  /-- Start of the wait of a WAITI (R377), on `State.clock`. -/
  waitFrom : Option Nat
  /-- That wait has ended by time (R377). -/
  waitOver : Bool
  /-- The open QSEND packet: destination word and words sent (R271). -/
  packet : Option (Word × Nat)
  /-- The queue at which its QPUSH, QPOP or QSEND waits, cluster × 16 + queue, and whether its bank has left FIFO mode meanwhile
  (R269, R271). -/
  qwait : Option (Nat × Bool)
  /-- When the stop that is asked for began (R384). -/
  packetStop : Option Nat
  /-- Deferred POISON of the .n atomics: the address (R325). -/
  poisonAt : Option Word
  /-- A pre-emption request is pending (R382). -/
  preempt : Bool
  /-- Stopped by it while its MATRIX firing is not saved yet (R298). -/
  stopped : Bool
  /-- BUDGET is owed (R372), with its BWHICH code. -/
  budget : Option Nat
  /-- The resume note is owed (R382). -/
  resumeNote : Bool
  /-- A machine check is owed (R396): its cr.tval. -/
  mchk : Option Word
  /-- Destinations whose SFU result was dropped by a failed check (R189, R396): workspace offset, or 0x10000 plus the number of
  a vector register, with the cr.tval of the machine check. -/
  sfuLost : List (Nat × Word)
  /-- An undo routine runs (R226). -/
  undo : Bool
  /-- A COMMIT has issued and waits (R213, R223). -/
  committing : Bool
  /-- Fault record the core's access waits for (R386). -/
  waitRecord : Option Nat
  /-- cr.tval of the TFAULT of that access. -/
  waitVa : Word
  /-- The reply DELIVER was given: TFAULT is owed for that access (R387). -/
  deliver : Bool
  deriving DecidableEq, Repr

/-- A core after reset. -/
def Core.init : Core :=
  { arr := .empty, spN := 0, preds := 0, pc := 0, cr := .reset, ient := 0, imask := 0, ipc := 0, pcnt := 0,
    entry := { preds := 0, gens := [], ctl := .reset }, noDiscard := false, waitOpen := false, empty := true,
    outers := [], outerCtx := 0, passed := false, mtx := false, req := 0, grant := 0, lane := 0,
    vregs := [], masks := [], vtags := [], atags := [], gens := [], ahead := [], evs := [], bmask := 0, chans := [], l1 := [], uoOld := [], tlb := [],
    hide := [], cycle := 0, pend := [], vpend := [], run := .idle, waitFrom := none, waitOver := false, packet := none, qwait := none,
    packetStop := none, poisonAt := none, preempt := false, stopped := false, budget := none, resumeNote := false, mchk := none,
    sfuLost := [], undo := false, committing := false, waitRecord := none, waitVa := 0, deliver := false }

/-! ## Clusters and cells -/

/-- Modes of a bank (R234). -/
inductive BankMode where
  | cacheWay | scratchpad | fifo
  deriving DecidableEq, Repr

/-- A FIFO bank (R269, R271): its words, oldest first, and the core whose packet holds it open. -/
structure Fifo where
  words : List Word
  holder : Option Nat
  deriving DecidableEq, Repr

/-- A bank mode requested and not yet in effect (R236, R273). -/
structure BankReq where
  core : Nat
  bank : Nat
  mode : BankMode
  /-- Commands that had arrived at the cluster before it. -/
  at_ : Nat
  /-- The outcome, once known. -/
  outcome : Option Bool
  deriving DecidableEq, Repr

/-- A request in the SFU's queue (R188, R189): operand values, function, where each result goes, and the context it was issued in. -/
structure SfuReq where
  core : Nat
  ctx : Word
  fn : Nat
  /-- Scalar: workspace offset of the destination doubleword captured at issue. -/
  dest : Option Nat
  rd : Nat
  /-- Vector: destination register, active mask, element format. -/
  vd : Option Nat
  mask : BitVec 4096
  args : List Word
  deriving DecidableEq, Repr

/-- Whose accesses an engine performs (R301, R306): the issuing core, its address space, and its firing (none for a
compatibility thread), with the firing's region, the region's step at issue, the copy, and the context. -/
structure Who where
  core : Nat
  space : Nat
  firing : Option Nat
  region : Option (Nat × Nat)
  copy : Nat
  /-- The core was in its handler context (R245). -/
  handler : Bool
  /-- The firing or thread that issued it has ended on that core (R303, R317). -/
  ended : Bool
  deriving DecidableEq, Repr

/-- A command of an engine queue and its record (R301-R306, R397). -/
structure EngCmd where
  who : Who
  /-- Its place in the order of arrival at the cluster (R304, R305). -/
  at_ : Nat
  /-- 0 COPY, 1 GATH, 2 GATH.cb, 3 SCAT, 4 MGOPEN, 5 MGFEED, 6 MGCLOSE. -/
  op : Nat
  /-- Operand words captured at issue, and the report word. -/
  ops : List Word
  report : Word
  begun : Bool
  /-- Bytes (COPY), elements, chunks or entries performed. -/
  done : Nat
  /-- GATH.cb: next output position and the offset table so far. MGFEED: key of the last entry taken. -/
  pos : Nat
  acc : List Nat
  /-- Detail of a note: an output carries propagated poison (R31). -/
  note : Option Nat
  /-- The outcome, once the command has been performed: engine code, 0 on success, and detail. -/
  code : Option (Nat × Nat)
  /-- The code of a failed report access or raise (R346, R452). -/
  lost : Option (Nat × Nat)
  deriving DecidableEq, Repr

/-- An entry that the merge network holds (R313, R314), with the address that its value came from. -/
structure MEntry where
  row : Nat
  col : Nat
  stream : Nat
  seq : Nat
  value : Word
  bad : Bool
  src : Nat
  deriving DecidableEq, Repr

/-- The merge context that a network holds (R311-R315): its VA, the opening command's issuer, the SW words, and the DEV fields. -/
structure MergeCtx where
  va : Nat
  who : Who
  words : List Word
  /-- 1 OPEN, 2 CLOSING, 3 FAILED. -/
  state : Nat
  code : Nat
  detail : Nat
  fed : Nat
  spused : Nat
  nout : Nat
  oused : Nat
  /-- Resident entries. -/
  entries : List MEntry
  /-- Next sequence number of each stream. -/
  seq : Tbl Nat
  /-- Spilled runs: VA and entries. -/
  runs : List (Nat × Nat)
  deriving DecidableEq, Repr

/-- A line owned by a cluster's atomic ALU (R320, R321). -/
structure OwnedLine where
  line : Line
  /-- Atomics performed on it that have raised flags not yet returned: function and flag bits (R331). -/
  flags : Tbl Word
  deriving DecidableEq, Repr

/-- Commands of the staging and matrix queues of a cell (R283). -/
structure CellCmd where
  who : Who
  at_ : Nat
  /-- 0 ASTAGE, 1 PLOAD, 2 MZERO, 3 MMA, 4 MMAG, 5 MMA.resume, 6 MMAG.resume. -/
  op : Nat
  /-- Operand words captured at issue: source, operand word and object VA; for a product its descriptor, object VA and
  accumulator tag, and 1 once the loader has failed it (R295). -/
  ops : List Word
  acc : Nat
  /-- The next k-block of a product; 1 for a PLOAD whose entry is LOADING. -/
  done : Nat
  /-- The loader has resumed its barrier object, and the arrival is to come (R294, R441). -/
  begun : Bool
  deriving DecidableEq, Repr

/-- A cell (spec/14_matrix.md). -/
structure Cell where
  /-- The A buffer: 512 units of 2 KiB (R279) and the tag of each unit. -/
  abuf : Memory
  utags : Tbl (BitVec 8)
  /-- Accumulators a0-a3: 128 × 128 elements by row × 128 + column, absent is +0, and whether the checksums agree. -/
  accs : Tbl (Tbl Word)
  accBad : List Nat
  /-- Panel table: p0 and p1 (R250). -/
  panels : Tbl (Word × Word)
  sems : Tbl Nat
  staging : List CellCmd
  matrix : List CellCmd
  parked : Option CellCmd
  /-- The loader is to reload this panel, cell × 64 + entry, for the parked product (R295). -/
  reloading : Option Nat
  claim : Option Nat
  /-- Start of the dispatch hold-off after a failed claim (R288). -/
  holdoff : Option Nat
  deriving DecidableEq, Repr

/-- A cell after reset. -/
def Cell.init : Cell :=
  { abuf := .empty, utags := [], accs := [], accBad := [], panels := [], sems := [], staging := [], matrix := [],
    parked := none, reloading := none, claim := none, holdoff := none }

/-- A cluster's shared state. -/
structure Cluster where
  modes : Tbl BankMode
  /-- Contents of the banks in scratchpad mode, by window offset (bank × 0x20000 + byte). -/
  bankMem : Memory
  fifos : Tbl Fifo
  bankReqs : List BankReq
  cache : List Line
  tlb : List TlbEntry
  owned : List OwnedLine
  sfu : List SfuReq
  copyQ : List EngCmd
  indQ : List EngCmd
  mergeQ : List EngCmd
  merge : Option MergeCtx
  /-- Commands that have arrived so far. -/
  arrivals : Nat
  cells : Tbl Cell
  /-- Column store of the four cells, by panel window offset (R251). -/
  store : Memory
  /-- Function of the cluster's previous work, per core key (R233). -/
  lastFunc : Tbl Nat
  /-- What the availability map may still show (R113): for each recent change of a unit, its control cycle, and the general cores and the
  cells that were to spare before it. -/
  was : List (Nat × Nat × Nat)
  /-- For each unit that serves the cores of one arithmetic cycle in the order of R188: the cycle of its latest request, and the place of
  the requesting core in the cluster. -/
  served : Tbl (Nat × Nat)
  deriving DecidableEq, Repr

/-- A cluster after reset. -/
def Cluster.init : Cluster :=
  { modes := [], bankMem := .empty, fifos := [], bankReqs := [], cache := [], tlb := [], owned := [], sfu := [],
    copyQ := [], indQ := [], mergeQ := [], merge := none, arrivals := 0, cells := [], store := .empty, lastFunc := [], was := [], served := [] }

/-! ## Pool, regions and firings -/

/-- A tile in the pool (R15, R101-R103, R390). -/
structure Tile where
  id : Nat
  region : Nat
  /-- Copy of a paired region, 0 or 1 (R400). -/
  copy : Nat
  lslice : Nat
  d : List Word
  overflow : Bool
  /-- The reserved group or firing that holds it. -/
  held : Bool
  /-- Stamping key of a pending tile: class, producer slice, sequence, index (R390). -/
  key : Nat × Nat × Nat × Nat
  /-- The first control cycle in which a match may see it (R110). -/
  from_ : Nat
  deriving DecidableEq, Repr

/-- One group: its tiles by slot, its firing sequence, the control cycle of its match (R109, R390, R430), and its place among all
reservations (R389). -/
structure Grp where
  tiles : List Nat
  fseq : Nat
  at_ : Nat
  order : Nat
  deriving DecidableEq, Repr

/-- A unit offered for dispatch: one group, or the groups of a gang (R112, R117). -/
structure Offer where
  id : Nat
  region : Nat
  copy : Nat
  lslice : Nat
  rule : Nat
  groups : List Grp
  /-- A gang that is still forming. -/
  forming : Bool
  /-- A match has found no further group for it, and it waits for room to be offered (R117). -/
  ended : Bool
  /-- The cluster that accepted it; the firing block is not written yet. -/
  cluster : Option Nat
  deriving DecidableEq, Repr

/-- A product on its way (R388): its words, the logical slice that its kind's entry gave at COMMIT (R453), and whether it has been
inserted, or refused by R453. -/
structure Product where
  index : Nat
  d : List Word
  lslice : Nat
  inserted : Bool
  deriving DecidableEq, Repr

/-- A firing in flight (R209, R388). -/
structure Firing where
  id : Nat
  region : Nat
  copy : Nat
  rule : Nat
  lslice : Nat
  tiles : List Nat
  fseq : Nat
  /-- The control cycle of the match that reserved its group. -/
  at_ : Nat
  /-- The place of that group among all reservations (R389). -/
  order : Nat
  member : Nat
  gsize : Nat
  gang : Nat
  stamp : Nat
  /-- The cores it runs on, stager first for MATRIX. -/
  cores : List Nat
  committed : List Nat
  /-- Sent products not yet acknowledged, after COMMIT. -/
  products : List Product
  retired : Bool
  /-- Notified to abort by the conflict filter (R223). -/
  notified : Bool
  /-- To be aborted, because its region is killed (R72). -/
  doomed : Bool
  /-- Kept by a pre-emption: `cores` names the saved cores (R382, R384). -/
  kept : Bool
  /-- Cells saved with it (R298). -/
  cells : Tbl Cell
  deriving DecidableEq, Repr

/-- An entry of the conflict filter (R221). -/
structure Filter where
  region : Nat
  obj : Word
  holder : Nat
  kinds : BitVec 64
  deriving DecidableEq, Repr

/-- States of a region (R63). -/
inductive RState where
  | active | draining | done
  deriving DecidableEq, Repr

/-- The effective fields of an active region (R61, R64, R66). -/
structure Eff where
  /-- Rule records, eight words each (R54). -/
  rules : List (List Word)
  kinds : Nat
  /-- Commutativity table: VA, rows and inverse entries (R75). -/
  comm : Nat
  commRows : List Word
  commInv : List Word
  kbank : List Word
  trap : Word
  stepped : Bool
  rollback : Bool
  paired : Bool
  prio : Nat
  fdom : Nat
  smap : Nat
  bfire : Nat
  bcore : Nat
  btile : Nat
  bmem : Nat
  btime : Nat
  frmi : Word
  deriving DecidableEq, Repr

/-- The counters of R61. -/
structure Counters where
  ndisp : Nat
  nfire : Nat
  nprod : Nat
  nlive : Nat
  npois : Nat
  nstep : Nat
  npre : Nat
  trun : Nat
  deriving DecidableEq, Repr

/-- All counters zero, as activation leaves them (R64). -/
def Counters.zero : Counters :=
  { ndisp := 0, nfire := 0, nprod := 0, nlive := 0, npois := 0, nstep := 0, npre := 0, trun := 0 }

/-- A pool snapshot (R398): tiles, age counters, pointers and counters of the boundary. -/
structure Snapshot where
  tiles : List Tile
  ages : Tbl Nat
  ptrs : Tbl Nat
  counters : Counters
  deriving DecidableEq, Repr

/-- A shadow frame (R398, R400): copy, page number of the physical address, and the bytes as the frame holds them. -/
structure Frame where
  copy : Nat
  page : Nat
  vpn : Nat
  mem : Memory
  /-- Where a paired copy's frame lies: a physical address above device memory (R400). -/
  base : Nat
  /-- The copy has written the page (R401). -/
  wrote : Bool
  /-- A paired copy's frame that the last boundary found, kept in `mem` as it stood there (R398). -/
  old : Bool
  deriving DecidableEq, Repr

/-- A region (spec/04_rules_and_regions.md). Its number is its place in the order of activation. -/
structure Region where
  id : Nat
  func : Nat
  proc : Nat
  rcb : Nat
  parent : Option Nat
  pass : Nat
  cdesc : Word
  eff : Eff
  state : RState
  cstat : Nat
  /-- Budgets exhausted, as BWHICH codes (R63, R68). -/
  spent : List Nat
  faulted : Bool
  detail : Word
  killed : Bool
  orphan : Bool
  step : Nat
  held : Bool
  /-- Held by the escalation of a faulted region, which waits for NREL (R445, R446). -/
  escalated : Bool
  cnt : Counters
  /-- Firings of copy 1 dispatched (R400). -/
  ndisp1 : Nat
  /-- Microsecond remainder of TRUN in control cycles. -/
  trunRem : Nat
  /-- Age counters, by copy × 4096 + logical slice (R19). -/
  ages : Tbl Nat
  /-- Rule pointers, by (copy × 4096 + logical slice) × 8 + class (R107). -/
  ptrs : Tbl Nat
  /-- Reservation sequence of each slice within the step, by copy × 4096 + logical slice (R390). -/
  fseqs : Tbl Nat
  swept : List Nat
  /-- Dirty physical slices (R392). -/
  dirty : List Nat
  /-- The last complete wave: every slice idle (R393). -/
  lastIdle : Option Bool
  /-- The wave in progress: slices sampled, all idle so far, any dirty so far. -/
  wave : Option (List Nat × Bool × Bool)
  snap : Option Snapshot
  /-- The SHD pages of the region's address space at the last boundary: first page (PA >> 13) and number of pages (R398). -/
  shd : List (Nat × Nat)
  frames : List Frame
  repeats : Nat
  /-- The parent's step when this region was activated (R399). -/
  bornStep : Nat
  /-- A completion tile waits to reach the parent's home slice (R70, R71). -/
  tileDue : Bool
  /-- STATE = DONE waits to be written (R443). -/
  doneDue : Bool
  deriving DecidableEq, Repr

/-! ## Queues, processes, functions -/

/-- A command stream (R88-R90): VA, next command index, open LOOP bodies (first, last, runs left). -/
structure Stream where
  va : Nat
  idx : Nat
  loops : List (Nat × Nat × Nat)
  deriving DecidableEq, Repr

/-- A launch packet in progress or completed and not yet passed by the read index (R79, R81). -/
structure Packet where
  index : Nat
  words : List Word
  done : Bool
  result : Word
  stream : Option Stream
  deriving DecidableEq, Repr

/-- A registered queue (R77-R80). -/
structure Queue where
  desc : Nat
  ring : Nat
  log2n : Nat
  qprio : Nat
  ridxVa : Nat
  widxVa : Nat
  ridx : Nat
  widx : Nat
  /-- 0 DISABLED, 1 RUNNING, 2 ERROR. -/
  qstate : Nat
  qerr : Nat
  qat : Nat
  off : Bool
  packets : List Packet
  /-- The first control cycle in which its next packet may start (R86). -/
  startAt : Nat
  deriving DecidableEq, Repr

/-- A process of a function (R94, R243, R443). -/
structure Proc where
  root : Word
  weight : Nat
  packetDeficit : Nat
  dispatchDeficit : Nat
  /-- Rotating pointer per queue priority (R95). -/
  ptrs : Tbl Nat
  queues : Tbl Queue
  deriving DecidableEq, Repr

/-- A process with nothing set (R443). -/
def Proc.init : Proc := { root := 0, weight := 1, packetDeficit := 0, dispatchDeficit := 0, ptrs := [], queues := [] }

/-- What the device saves of a function off its slice (R237, R252). -/
structure SavedCluster where
  cluster : Nat
  modes : Tbl BankMode
  bankMem : Memory
  fifos : Tbl Fifo
  merge : Option MergeCtx
  /-- Commands that stay queued for the function's return (R318). -/
  copyQ : List EngCmd
  indQ : List EngCmd
  mergeQ : List EngCmd
  deriving DecidableEq, Repr

/-- An outstanding fault record (R386, R387): its number, address space, page, write, joined cores, and accesses joined. -/
structure FaultRec where
  id : Nat
  space : Nat
  vpn : Nat
  write : Bool
  cores : List Nat
  count : Nat
  /-- Its place in the ring, once posted. -/
  slot : Option Nat
  deriving DecidableEq, Repr

/-- A function (R92, R442-R448). -/
structure Func where
  /-- A VF is enabled; the PF always is. -/
  enabled : Bool
  slen : Nat
  nvec : Nat
  nvecNext : Nat
  procs : Tbl Proc
  psel : Nat
  qslotResult : Nat
  fbase : Word
  fhead : Nat
  ftail : Nat
  fvec : Nat
  nbase : Word
  nhead : Nat
  ntail : Nat
  mclog : Nat
  /-- Notices waiting for room in the ring, each with the region that waits with it (R443). -/
  noticesHeld : List (Word × Word × Option Nat)
  records : List FaultRec
  saved : List SavedCluster
  /-- CSTART records not yet loaded: process and the four words (R447). -/
  starts : List (Nat × List Word)
  deriving DecidableEq, Repr

/-- A function after reset (R443, R444). -/
def Func.init : Func :=
  { enabled := false, slen := 1000, nvec := 64, nvecNext := 64, procs := [], psel := 0, qslotResult := 0, fbase := 0,
    fhead := 0, ftail := 0, fvec := 0, nbase := 0, nhead := 0, ntail := 0, mclog := 0, noticesHeld := [], records := [],
    saved := [], starts := [] }

/-- Life-cycle states (R450). -/
inductive Life where
  | boot | config | run | failed
  deriving DecidableEq, Repr

/-- An attestation (R451): digests, state and nonce, with the signature words. -/
structure Attestation where
  digests : List Nat
  life : Life
  nonce : BitVec 512
  sign : List Word
  deriving DecidableEq, Repr

/-- A channel group's phase side (R340): channel, span, unit, function. -/
structure ChanGroup where
  chan : Nat
  span : Nat
  unit : Nat
  func : Nat
  phase : Bool
  deriving DecidableEq, Repr

/-- What moves next (the model's own, log entry 1). -/
inductive Turn where
  /-- The core's turn: it becomes `cur`. -/
  | core (k : Nat)
  /-- A device step. -/
  | ev (i : Instr)
  /-- Control cycles pass. -/
  | elapse (n : Nat)
  /-- The host stores a byte to host memory. -/
  | hostWrite (addr : Nat) (b : Byte)
  /-- A replica line of a core's first-level cache is written back, and dropped or kept (R240). -/
  | writeBackL1 (core line : Nat) (drop : Bool)
  /-- A line of a cluster memory cache is written back, and dropped or kept. -/
  | writeBackCluster (cluster line : Nat) (drop : Bool)
  /-- A home line is written back to HBM and dropped. -/
  | writeBackHome (line : Nat)
  /-- A TLB entry is replaced (R247). -/
  | dropTlb (core vpn : Nat)
  /-- An entry of a cluster's TLB is replaced. -/
  | dropClusterTlb (cluster vpn : Nat)
  /-- An owned line returns to its home slice (R321). -/
  | returnOwned (cluster line : Nat)
  /-- The read stream of a generator reads one element ahead (R267). -/
  | ahead (core gen : Nat)
  /-- A waiting sweep, refill or management write that has no row of its own: a sieve refills a slice (R104). -/
  | refill (slice : Nat)
  /-- The SFU's result check fails a second time on the request at the head of a cluster's queue (R189). -/
  | sfuFail (cluster : Nat)
  /-- The module's checker finds a mismatch on a core's next instruction: once, or twice (R396). -/
  | checker (core : Nat) (twice readable : Bool)
  /-- An element of a cell's accumulator is computed wrong: the checksums no longer agree (R291). -/
  | accError (cluster cell acc elem : Nat) (v : Word)
  deriving DecidableEq, Repr

/-- The state of a partition. -/
structure State where
  agenda : List Turn
  cur : Nat
  clock : Nat
  fresh : Nat
  cores : Tbl Core
  clusters : Tbl Cluster
  /-- HBM contents by physical address [41:0]. -/
  hbm : Memory
  /-- Home slice lines, most recent first. -/
  homes : List Line
  /-- Atomic flag registers, by home slice × 64 + function (R331). -/
  flags : Tbl Word
  /-- Contention predictor: per line, the time of each party's last request (R320); a party is a cluster, or 256 for
  every other agent. -/
  predictor : Tbl (Tbl Nat)
  /-- Barrier objects and sync words by physical address, most recently used first: the first 4,096 of each home slice are in its
  sync cache (R343). -/
  sync : List Nat
  host : Memory
  filters : List Filter
  /-- Slice maps 1-15 that differ from the default map: map × 4096 + logical slice (R98, R99). -/
  maps : Tbl Nat
  tiles : List Tile
  nextTile : Nat
  offers : List Offer
  nextOffer : Nat
  nextGroup : Nat
  firings : List Firing
  nextFiring : Nat
  stamp : Nat
  regions : List Region
  nextRegion : Nat
  /-- Match pointer and refill pointer per physical slice (R104, R107). -/
  matchPtr : Tbl Nat
  /-- The first control cycle in which a slice may start its next match (R110). -/
  matchAt : Tbl Nat
  /-- The control cycle of the last removal, insertion or refill, and its place in the order of R110 and R389. -/
  lastInsert : Nat × List Nat
  refillPtr : Tbl Nat
  groups : List ChanGroup
  funcs : Tbl Func
  slice : Option Nat
  sliceStart : Nat
  /-- Functions whose slice has ended and whose cores have not all stopped. -/
  ending : Bool
  duty : BitVec 4
  mapResult : Nat
  nextRecord : Nat
  /-- MSI-X raises, function and vector, latest first (R442). -/
  irqs : List (Nat × Nat)
  life : Life
  /-- Bays of the partition: first and count (R91). -/
  bay0 : Nat
  bays : Nat
  /-- The firmware image accepted at power-on (R449). -/
  image : Option Bool
  attestations : List Attestation
  /-- Start of the last wave, and the slices that it has sampled; none when its report is in (R393). -/
  waveAt : Nat
  waveDone : List Nat
  /-- The function that held the partition last (R92). -/
  lastSlice : Nat
  /-- Parents of completed regions that may still have descendants (R72). -/
  lineage : Tbl Nat
  /-- STATUS of completed regions whose last write was lost (R454): address space, RCB VA, value. -/
  lostStatus : List (Nat × Nat × Word)
  /-- Faulted regions whose escalation waits for NREL (R445): number, address space, RCB VA and FDOM. -/
  escalations : List (Nat × Nat × Nat × Nat)
  deriving DecidableEq, Repr

/-- The machine right after reset: life-cycle state BOOT, every memory wiped (R402, R450). -/
def State.reset : State :=
  { agenda := [], cur := 0, clock := 0, fresh := 0, cores := [], clusters := [], hbm := .empty, homes := [], flags := [],
    predictor := [], sync := [], host := .empty, filters := [], maps := [], tiles := [], nextTile := 0, offers := [], nextOffer := 0, nextGroup := 0,
    firings := [], nextFiring := 0, stamp := 0, regions := [], nextRegion := 0, matchPtr := [], matchAt := [], lastInsert := (0, []), refillPtr := [],
    groups := [], funcs := [], slice := none, sliceStart := 0, ending := false, duty := 0, mapResult := 0, nextRecord := 0,
    irqs := [], life := .boot, bay0 := 0, bays := 8, image := none, attestations := [], waveAt := 0, waveDone := [],
    lastSlice := 63, lineage := [], lostStatus := [], escalations := [] }

end Sys2Proof.Machine
end

