-- ==== Sys2Proof/Machine/Bytes.lean ====
section
/-! DEFINITION. Tables, byte memories in canonical form, and lines. -/

namespace Sys2Proof.Machine

/-- The record at key `k` of a table, or the default `d`. -/
def tget {α : Type} (d : α) (t : Tbl α) (k : Nat) : α :=
  match t with
  | [] => d
  | (j, x) :: r => if j = k then x else tget d r k

/-- A table with `v` at key `k`. -/
def tset {α : Type} (t : Tbl α) (k : Nat) (v : α) : Tbl α :=
  match t with
  | [] => [(k, v)]
  | (j, x) :: r => if j = k then (k, v) :: r else (j, x) :: tset r k v

/-- The record at key `k`, if the table lists it. -/
def tfind {α : Type} (t : Tbl α) (k : Nat) : Option α :=
  match t with
  | [] => none
  | (j, x) :: r => if j = k then some x else tfind r k

/-- A table without key `k`. -/
def tdel {α : Type} (t : Tbl α) (k : Nat) : Tbl α := t.filter (fun e => e.1 != k)

/-! ## Bytes -/

/-- The byte listed at `a`, or 0. -/
def cellAt (cs : List Host.Cell) (a : Nat) : Byte :=
  match cs with
  | [] => 0
  | (k, b) :: r => if k = a then b else cellAt r a

/-- The canonical list with byte `b` at `a`. -/
def cellPut (cs : List Host.Cell) (a : Nat) (b : Byte) : List Host.Cell :=
  match cs with
  | [] => if b = 0 then [] else [(a, b)]
  | (k, c) :: r =>
    if a < k then (if b = 0 then (k, c) :: r else (a, b) :: (k, c) :: r)
    else if a = k then (if b = 0 then r else (a, b) :: r)
    else (k, c) :: cellPut r a b

/-- Every key of the list lies at or above `lo`, keys rise, and no listed byte is 0. -/
def cellsFrom (lo : Nat) (cs : List Host.Cell) : Bool :=
  match cs with
  | [] => true
  | (k, b) :: r => decide (lo ≤ k) && b != 0 && cellsFrom (k + 1) r

/-- A rising list of numbers from `lo`. -/
def risingFrom (lo : Nat) (ns : List Nat) : Bool :=
  match ns with
  | [] => true
  | n :: r => decide (lo ≤ n) && risingFrom (n + 1) r

/-- The rising list with `n`. -/
def numPut (ns : List Nat) (n : Nat) : List Nat :=
  match ns with
  | [] => [n]
  | k :: r => if n < k then n :: k :: r else if n = k then k :: r else k :: numPut r n

/-- The rising list without `n`. -/
def numDel (ns : List Nat) (n : Nat) : List Nat :=
  match ns with
  | [] => []
  | k :: r => if k = n then r else k :: numDel r n

/-- The canonical form of a memory. -/
def Memory.wf (m : Memory) : Bool := cellsFrom 0 m.cells && risingFrom 0 m.bad

/-- The byte at an address. -/
def Memory.byte (m : Memory) (a : Nat) : Byte := cellAt m.cells a

/-- The memory with one byte changed; poison as it was. -/
def Memory.setByte (m : Memory) (a : Nat) (b : Byte) : Memory := { m with cells := cellPut m.cells a b }

/-- The granule of an address is poisoned (R254). -/
def Memory.isBad (m : Memory) (a : Nat) : Bool := m.bad.contains (a / 8)

/-- The memory with a granule poisoned, or made good. -/
def Memory.setBad (m : Memory) (g : Nat) (b : Bool) : Memory :=
  { m with bad := if b then numPut m.bad g else numDel m.bad g }

/-- The `n` values of `f` from `a` on. -/
def spanOf {α : Type} (f : Nat → α) (a n : Nat) : List α :=
  match n with
  | 0 => []
  | n + 1 => f a :: spanOf f (a + 1) n

/-- The `n` bytes from `a` on. -/
def Memory.read (m : Memory) (a n : Nat) : List Byte := spanOf m.byte a n

/-- Bytes written from `a` on; poison as it was. -/
def Memory.setBytes (m : Memory) (a : Nat) (bs : List Byte) : Memory :=
  match bs with
  | [] => m
  | b :: r => (m.setByte a b).setBytes (a + 1) r

/-- The granules that a write of `n` bytes at `a` covers whole (R254). -/
def coveredGranules (a n : Nat) : List Nat := spanOf id ((a + 7) / 8) ((a + n) / 8 - (a + 7) / 8)

/-- One write of bytes: granules it covers whole become good (R254). -/
def Memory.write (m : Memory) (a : Nat) (bs : List Byte) : Memory :=
  let w := m.setBytes a bs
  { w with bad := w.bad.filter (fun g => !(coveredGranules a bs.length).contains g) }

/-- Some byte of the span is poisoned. -/
def Memory.anyBad (m : Memory) (a n : Nat) : Bool := (spanOf m.isBad a n).any id

/-- The little-endian doubleword at an address (R1). -/
def Memory.word (m : Memory) (a : Nat) : Word := BitVec.ofNat 64 (leNat (m.read a 8))

/-- A doubleword written at an address. -/
def Memory.setWord (m : Memory) (a : Nat) (v : Word) : Memory := m.write a (leBytes 8 v.toNat)

/-- The bytes of a span set to zero with good ECC. -/
def Memory.zero (m : Memory) (a n : Nat) : Memory :=
  { cells := m.cells.filter (fun c => c.1 < a || decide (a + n ≤ c.1)),
    bad := m.bad.filter (fun g => decide (8 * g + 8 ≤ a) || decide (a + n ≤ 8 * g)) }

/-- Memory `m` with the span of `src` from `b` copied to `a` (poison with it). -/
def Memory.copyFrom (m src : Memory) (a b n : Nat) : Memory :=
  let z := m.zero a n
  let w := (src.cells.filter (fun c => decide (b ≤ c.1) && decide (c.1 < b + n))).foldl
    (fun acc c => acc.setByte (c.1 - b + a) c.2) z
  (src.bad.filter (fun g => decide (b ≤ 8 * g) && decide (8 * g < b + n))).foldl
    (fun acc g => acc.setBad ((8 * g - b + a) / 8) true) w

/-! ## Lines -/

/-- Byte `i` of a line. -/
def Line.byte (l : Line) (i : Nat) : Byte := l.data.extractLsb' (8 * i) 8

/-- Byte `i` of a line is poisoned. -/
def Line.isBad (l : Line) (i : Nat) : Bool := l.poison.getLsbD (i / 8)

/-- Byte `i` of a line is dirty. -/
def Line.isDirty (l : Line) (i : Nat) : Bool := l.dirty.getLsbD i

/-- `x` with the `n` bits from `lo` on replaced by `v`. -/
def setField {w : Nat} (x : BitVec w) (lo n : Nat) (v : Nat) : BitVec w :=
  (x &&& ~~~((BitVec.ofNat w (2 ^ n - 1)) <<< lo)) ||| ((BitVec.ofNat w (v % 2 ^ n)) <<< lo)

/-- Bytes stored into a line from byte `i` on, marked dirty; granules covered whole become good (R240, R254). -/
def Line.store (l : Line) (i : Nat) (bs : List Byte) : Line :=
  { l with
    data := setField l.data (8 * i) (8 * bs.length) (leNat bs)
    dirty := setField l.dirty i bs.length (2 ^ bs.length - 1)
    poison := (coveredGranules i bs.length).foldl (fun p g => setField p g 1 0) l.poison }

/-- A line read whole from a memory, clean. -/
def Line.ofMemory (m : Memory) (num : Nat) : Line :=
  { num := num, data := BitVec.ofNat 1024 (leNat (m.read (128 * num) 128)), dirty := 0,
    poison := BitVec.ofNat 16 ((spanOf m.bad.contains (16 * num) 16).foldr
      (fun b acc => (if b then 1 else 0) + 2 * acc) 0), hint := .default, way := 0, uo := false }

/-- A clean copy of a line. -/
def Line.clean (l : Line) : Line := { l with dirty := 0 }

/-- The dirty bytes of `src` merged into `dst`; a granule that the dirty mask covers whole becomes good in `dst`, and
every other granule keeps `dst`'s poison (R240, R254). -/
def Line.merge (dst src : Line) : Line :=
  let spread : BitVec 1024 := BitVec.ofNat 1024 ((spanOf src.isDirty 0 128).foldr
    (fun b acc => (if b then 255 else 0) + 256 * acc) 0)
  let full (g : Nat) : Bool := (spanOf src.isDirty (8 * g) 8).all id
  { dst with
    data := (dst.data &&& ~~~spread) ||| (src.data &&& spread)
    dirty := dst.dirty ||| src.dirty
    poison := BitVec.ofNat 16 ((spanOf (fun g => dst.poison.getLsbD g && !full g) 0 16).foldr
      (fun b acc => (if b then 1 else 0) + 2 * acc) 0)
    uo := dst.uo && src.uo }

/-- The line of number `n` in a cache, if present. -/
def lineFind (ls : List Line) (n : Nat) : Option Line := ls.find? (fun l => l.num == n)

/-- A cache without line `n`. -/
def lineDrop (ls : List Line) (n : Nat) : List Line := ls.filter (fun l => l.num != n)

/-- A cache with a line replaced in place, or put in front. -/
def linePut (ls : List Line) (l : Line) : List Line :=
  match ls with
  | [] => [l]
  | x :: r => if x.num = l.num then l :: r else x :: linePut r l

/-! ## Lists in order -/

/-- `x` put in front of the first element that does not come before it. -/
def insertBy {α : Type} (lt : α → α → Bool) (x : α) : List α → List α
  | [] => [x]
  | y :: r => if lt y x then y :: insertBy lt x r else x :: y :: r

/-- A list in ascending order; elements of equal rank keep their order. -/
def sortBy {α : Type} (lt : α → α → Bool) : List α → List α
  | [] => []
  | x :: r => insertBy lt x (sortBy lt r)

/-- Whether one list of numbers precedes another. -/
def lexLt : List Nat → List Nat → Bool
  | [], _ :: _ => true
  | _, [] => false
  | x :: r, y :: q => decide (x < y) || (x == y && lexLt r q)

end Sys2Proof.Machine
end

