-- ==== Sys2Proof/Machine/Regs.lean ====
section
/-! DEFINITION. Reading and changing the records of a state: cores, clusters, cells, regions, firings; the workspace
registers and predicates of a core (spec/07_cores_and_workspace.md). -/

namespace Sys2Proof.Machine

/-- The core of key `k`. -/
def State.core (s : State) (k : Nat) : Core := tget .init s.cores k

/-- A state with another record for core `k`. -/
def State.setCore (s : State) (k : Nat) (c : Core) : State := { s with cores := tset s.cores k c }

/-- Core `k` changed by `f`. -/
def State.modCore (s : State) (k : Nat) (f : Core → Core) : State := s.setCore k (f (s.core k))

/-- The core whose turn it is. -/
def State.me (s : State) : Core := s.core s.cur

/-- The cluster of number `n` (R8). -/
def State.cluster (s : State) (n : Nat) : Cluster := tget .init s.clusters n

/-- A state with another record for cluster `n`. -/
def State.setCluster (s : State) (n : Nat) (c : Cluster) : State := { s with clusters := tset s.clusters n c }

/-- Cluster `n` changed by `f`. -/
def State.modCluster (s : State) (n : Nat) (f : Cluster → Cluster) : State := s.setCluster n (f (s.cluster n))

/-- The cluster of a core. -/
def clusterOf (k : Nat) : Nat := k % 0x10000 / 16

/-- The key names a saved core (R382, R385). -/
def isSaved (k : Nat) : Bool := decide (0x10000 ≤ k)

/-- A core's place in its cluster: 0-7 general, 8-11 stager, 12-15 issuer. -/
def unitOf (k : Nat) : Nat := k % 16

/-- A general core (R121). -/
def isGeneral (k : Nat) : Bool := decide (unitOf k < 8)

/-- A stager core. -/
def isStager (k : Nat) : Bool := decide (8 ≤ unitOf k ∧ unitOf k < 12)

/-- An issuer core. -/
def isIssuer (k : Nat) : Bool := decide (12 ≤ unitOf k)

/-- The cell of a control core. -/
def cellOf (k : Nat) : Nat := unitOf k % 4

/-- UNIT of a core (R126): its number among the general cores, or its cell. -/
def idsUnit (k : Nat) : Nat := if isGeneral k then unitOf k else cellOf k

/-- A cell of a cluster. -/
def State.cell (s : State) (cl ce : Nat) : Cell := tget .init (s.cluster cl).cells ce

/-- A state with another record for a cell. -/
def State.setCell (s : State) (cl ce : Nat) (c : Cell) : State :=
  s.modCluster cl fun x => { x with cells := tset x.cells ce c }

/-- A cell changed by `f`. -/
def State.modCell (s : State) (cl ce : Nat) (f : Cell → Cell) : State := s.setCell cl ce (f (s.cell cl ce))

/-- The function of number `f`. -/
def State.func (s : State) (f : Nat) : Func := tget .init s.funcs f

/-- Function `f` changed. -/
def State.modFunc (s : State) (f : Nat) (g : Func → Func) : State := { s with funcs := tset s.funcs f (g (s.func f)) }

/-- A process of a function. -/
def Func.proc (f : Func) (p : Nat) : Proc := tget .init f.procs p

/-- A process changed. -/
def State.modProc (s : State) (f p : Nat) (g : Proc → Proc) : State :=
  s.modFunc f fun x => { x with procs := tset x.procs p (g (x.proc p)) }

/-- The region of number `r`, if it is not over. -/
def State.region? (s : State) (r : Nat) : Option Region := s.regions.find? (fun x => x.id == r)

/-- Region `r` changed. -/
def State.modRegion (s : State) (r : Nat) (g : Region → Region) : State :=
  { s with regions := s.regions.map fun x => if x.id = r then g x else x }

/-- The firing of number `f`, if it is in flight. -/
def State.firing? (s : State) (f : Nat) : Option Firing := s.firings.find? (fun x => x.id == f)

/-- Firing `f` changed. -/
def State.modFiring (s : State) (f : Nat) (g : Firing → Firing) : State :=
  { s with firings := s.firings.map fun x => if x.id = f then g x else x }

/-- The next free value: the counter advances with each use. -/
def State.tick (s : State) : State := { s with fresh := s.fresh + 1 }

/-- The firing that a core runs (R208), committed or not. -/
def CoreRun.firingNo : CoreRun → Option Nat
  | .firing f => some f
  | .committed f => some f
  | _ => none

/-- The firing that core `k` runs. -/
def State.firingOf (s : State) (k : Nat) : Option Firing := (s.core k).run.firingNo.bind s.firing?

/-- The region of the firing that core `k` runs. -/
def State.regionOf (s : State) (k : Nat) : Option Region := (s.firingOf k).bind fun f => s.region? f.region

/-- The address space of a core: function × 256 + process (R94, R243, R447). A core with no work has none and takes
that of process 0 of the PF. -/
def State.spaceOf (s : State) (k : Nat) : Nat :=
  match (s.core k).run with
  | .thread f p _ _ => f * 256 + p
  | _ => match s.regionOf k with
    | some r => r.func * 256 + r.proc
    | none => 0

/-- The core runs a compatibility thread (R383, R385). -/
def Core.isThread (c : Core) : Bool := match c.run with | .thread _ _ _ _ => true | _ => false

/-- The core is in its handler context (R370). -/
def Core.inHandler (c : Core) : Bool := c.cr.ctx == 0x200

/-! ## Workspace registers and predicates -/

/-- System-area offset of register `n` (R123). -/
def Core.regOff (c : Core) (n : Nat) : Nat := (c.cr.wp.toNat % 0x8000) + 8 * n

/-- Register `n` as the array holds it; w0 reads as zero (R123). -/
def Core.reg (c : Core) (n : Nat) : Word := if n = 0 then 0 else c.arr.word (c.regOff n)

/-- Register `n` written; a write to w0 is discarded (R123). -/
def Core.setReg (c : Core) (n : Nat) (v : Word) : Core :=
  if n = 0 then c else { c with arr := c.arr.setWord (c.regOff n) v }

/-- Predicate `n`; p0 reads true (R125). -/
def Core.pred (c : Core) (n : Nat) : Bool := n == 0 || c.preds.getLsbD n

/-- Predicate `n` written; a write to p0 is discarded (R125). -/
def Core.setPred (c : Core) (n : Nat) (b : Bool) : Core :=
  if n = 0 then c else { c with preds := setField c.preds n 1 (if b then 1 else 0) }

/-- Generator `n` (R264). -/
def Core.gen (c : Core) (n : Nat) : Gen := tget .zero c.gens n

/-- Generator `n` changed. -/
def Core.setGen (c : Core) (n : Nat) (g : Gen) : Core := { c with gens := tset c.gens n g }

/-- The generator bound to a register (R266). -/
def Core.boundTo (c : Core) (r : Nat) : Option Nat :=
  [0, 1, 2, 3].find? (fun i => (c.gen i).bound && (c.gen i).reg.toNat == r)

/-- A pending fixed-latency write of a location not readable at the core's cycle (R131). -/
def Core.late (c : Core) (l : Loc) : Option Pend := c.pend.find? (fun p => p.loc == l && decide (c.cycle < p.ready))

/-- What an instruction that issues now reads from register `n` (R132): the value before a late write, else the
register. -/
def Core.seen (c : Core) (n : Nat) : Word :=
  if n = 0 then 0 else match c.late (.w (c.regOff n)) with
    | some p => p.old
    | none => c.reg n

/-- What an instruction that issues now reads from predicate `n`. -/
def Core.seenP (c : Core) (n : Nat) : Bool :=
  if n = 0 then true else match c.late (.p n) with
    | some p => p.old != 0
    | none => c.pred n

/-- The pending writes of some locations have been performed, `free` being the time that those of variable latency take (R124, R131). -/
def Core.settleIf (c : Core) (free : Nat) (f : Loc → Bool) : Core :=
  let t := c.pend.foldl (fun m p => if f p.loc then max m p.ready else m) c.cycle
  let t := if c.vpend.any f then t + free else t
  { c with cycle := t, pend := c.pend.filter (fun p => !f p.loc && decide (t < p.ready)), vpend := c.vpend.filter (fun l => !f l) }

/-- The location is a workspace register. -/
def Loc.isReg : Loc → Bool | .w _ => true | _ => false

/-- The location is a predicate. -/
def Loc.isPred : Loc → Bool | .p _ => true | _ => false

/-- The location is a vector register or a mask. -/
def Loc.isVec : Loc → Bool | .v _ => true | .m _ => true | _ => false

/-- The location is the next element of a read stream. -/
def Loc.isStream : Loc → Bool | .g _ => true | _ => false

/-- Every pending write has been performed: the core's cycle is past them (R124, R380). -/
def Core.settle (c : Core) : Core :=
  { c with cycle := c.pend.foldl (fun m p => max m p.ready) c.cycle, pend := [], vpend := [] }

/-- The vector register `n`: the lanes of the grant, zero where nothing is listed (R191). -/
def Core.vreg (c : Core) (n : Nat) : List Word :=
  let l := tget [] c.vregs n
  spanOf (fun i => l.getD i 0) 0 c.grant

/-- The mask `n` over the grant's 16-bit elements; m0 is all ones (R191). -/
def Core.mask (c : Core) (n : Nat) : BitVec 4096 := if n = 0 then BitVec.allOnes 4096 else tget 0 c.masks n

/-- Channel `n` of the core (R340). -/
def Core.chan (c : Core) (n : Nat) : Chan := tget { joined := false, arrived := false, phase := false } c.chans n

end Sys2Proof.Machine
end

