-- ==== Sys2Proof/Machine/Hier.lean ====
section
/-! DEFINITION. Replicas, home slices and HBM (spec/12_memory_hierarchy.md R231 to R242; spec/16_atomics.md R320, R321
for owned lines; spec/18_ordering.md R356, R357; spec/20_retirement.md R398 for shadow frames). A line is named by PA >> 7. -/

namespace Sys2Proof.Machine

/-- The home slice of a line, as a physical slice id (R239). -/
def homeSlice (n : Nat) : Nat :=
  n / 2 ^ 32 % 8 * 128 + (((n % 128) ^^^ (n / 128 % 128)) ^^^ ((n / 2 ^ 14 % 128) ^^^ (n / 2 ^ 21 % 128)))

/-- The mode of a bank (R234). -/
def Cluster.mode (c : Cluster) (b : Nat) : BankMode := tget .cacheWay c.modes b

/-- Ways of the cluster memory cache: banks in cache-way mode (R235). -/
def Cluster.ways (c : Cluster) : Nat := ((spanOf c.mode 0 64).filter (· == .cacheWay)).length

/-- The line that a cluster owns (R320). -/
def Cluster.ownedLine (c : Cluster) (n : Nat) : Option OwnedLine := c.owned.find? (fun o => o.line.num == n)

/-- The cluster that owns a line, if one does. -/
def State.ownerOf (s : State) (n : Nat) : Option Nat :=
  (s.clusters.find? (fun e => (e.2.ownedLine n).isSome)).map (·.1)

/-- The home copy of a line, or its HBM bytes where the slice holds no copy (R240). -/
def State.homeLine (s : State) (n : Nat) : Line := (lineFind s.homes n).getD (Line.ofMemory s.hbm n)

/-- What an agent outside every cluster reads of a line: an owned copy is returned first (R321). -/
def State.homeSeen (s : State) (n : Nat) : Line :=
  match s.ownerOf n with
  | some c => match (s.cluster c).ownedLine n with
    | some o => o.line
    | none => s.homeLine n
  | none => s.homeLine n

/-- What core `k` reads of a line: its first-level copy, else its cluster's owned or cached copy, else the home copy
(R231, R235, R240, R321). -/
def State.lineSeen (s : State) (k n : Nat) : Line :=
  match lineFind (s.core k).l1 n with
  | some l => l
  | none =>
    match (s.cluster (clusterOf k)).ownedLine n with
    | some o => o.line
    | none =>
      match lineFind (s.cluster (clusterOf k)).cache n with
      | some l => l
      | none => s.homeSeen n

/-! ## Shadow frames -/

/-- A device page (PA >> 13) with its lines as `line` gives them. -/
def pageOf (line : Nat → Line) (p : Nat) : Memory :=
  (spanOf id (64 * p) 64).foldl (fun m n =>
    let l := line n
    let w := m.setBytes (128 * (n - 64 * p)) (spanOf l.byte 0 128)
    (spanOf id 0 16).foldl (fun a g => if l.poison.getLsbD g then a.setBad (16 * (n - 64 * p) + g) true else a) w)
    Memory.empty

/-- Page `p` (PA >> 13) with the lines of device memory as `line` gives them; a page of host memory lies in no home slice (R238). -/
def State.pageWith (s : State) (line : Nat → Line) (p : Nat) : Memory :=
  if p / 2 ^ 29 = 8 then Memory.empty.copyFrom s.host 0 (p % 2 ^ 29 * 0x2000) 0x2000 else pageOf line p

/-- Page `p` as an agent outside every cluster reads it. -/
def State.pageBytes (s : State) (p : Nat) : Memory := s.pageWith s.homeSeen p

/-- The page is one of the SHD pages of a region's address space (R398). -/
def Region.isShd (r : Region) (p : Nat) : Bool := r.shd.any fun e => decide (e.1 ≤ p) && decide (p < e.1 + e.2)

/-- Before the first write of a step reaches page `p` of a region that takes snapshots, the page is copied into its frame, as the
boundary left it in the home slices (R398). -/
def State.captureFrames (s : State) (p : Nat) : State :=
  { s with regions := s.regions.map fun r =>
      if r.snap.isSome && !r.eff.paired && r.isShd p && !r.frames.any (fun f => f.page == p)
      then { r with frames := r.frames ++ [{ copy := 0, page := p, vpn := 0, mem := s.pageWith s.homeLine p, base := 0, wrote := true, old := false }] }
      else r }

/-! ## Capacity and hints (R231, R235, R239, R242) -/

/-- The list with line `n` moved to the front. -/
def toFront (ls : List Line) (l : Line) : List Line := l :: lineDrop ls l.num

/-- A hit with a hint: position and recorded hint. -/
def lineHit (ls : List Line) (l : Line) (h : Hint) : List Line :=
  match h with
  | .bypass => linePut ls l
  | .streaming => linePut ls { l with hint := .streaming }
  | _ => toFront ls { l with hint := h }

/-- A miss with a hint: where the line is allocated, once there is room. -/
def lineMiss (ls : List Line) (l : Line) (h : Hint) : List Line :=
  match h with
  | .streaming => ls ++ [{ l with hint := h }]
  | .bypass => ls ++ [{ l with hint := .default }]
  | _ => { l with hint := h } :: ls

/-- The victim of a full set, among lines listed most recent first. -/
def victimOf (ls : List Line) : Option Line :=
  match (ls.filter (fun l => l.hint != .sticky)).getLast? with
  | some l => some l
  | none => ls.getLast?

/-- The line that leaves a cache of `cap` ways for line `n` to come in: the victim of its set, when the set is full. -/
def leaver {α : Type} [BEq α] (set : Nat → α) (cap n : Nat) (ls : List Line) : Option Line :=
  let here := ls.filter (fun x => set x.num == set n)
  if here.length < cap then none else victimOf here

/-- The block and set of a line in a first-level cache with scratchpad size `n` (R231). -/
def l1Set (n num : Nat) : Nat × Nat :=
  let j := num % 48
  (if n ≤ j then j + 2 else 18 + j, num / 48 % 16)

/-- The set of a line in its home slice: slice and PA[22:14]. -/
def homeSet (n : Nat) : Nat := homeSlice n * 512 + n / 128 % 512

/-- `f` applied `n` times. -/
def iter {α : Type} (n : Nat) (f : α → α) (x : α) : α :=
  match n with
  | 0 => x
  | n + 1 => iter n f (f x)

/-! ## Home slices -/

/-- A request of a party reaches a line's home slice: the contention predictor notes it (R320). -/
def State.noteRequest (s : State) (party n : Nat) : State :=
  { s with predictor := tset s.predictor n (tset (tget [] s.predictor n) party s.clock) }

/-- Some party other than cluster `c` has asked for the line in the last 1,024 control cycles (R320). -/
def State.contended (s : State) (c n : Nat) : Bool :=
  (tget [] s.predictor n).any (fun e => e.1 != c && decide (s.clock < e.2 + 1024))

/-- A home line is written back to HBM and dropped: its dirty bytes are stored, and a granule they cover whole becomes
good there (R239, R254). -/
def State.writeBackHome (s : State) (n : Nat) : State :=
  match lineFind s.homes n with
  | none => s
  | some l =>
    let h := (spanOf id 0 128).foldl (fun m i => if l.isDirty i then m.setByte (128 * n + i) (l.byte i) else m) s.hbm
    let h := (spanOf id 0 16).foldl (fun m g =>
      if (spanOf l.isDirty (8 * g) 8).all id then m.setBad (16 * n + g) false else m) h
    { s with hbm := h, homes := lineDrop s.homes n }

/-- The home slice has room for a line: the victim of a full set has been written back. -/
def State.roomHome (s : State) (n : Nat) : State :=
  match leaver homeSet 16 n s.homes with
  | some v => s.writeBackHome v.num
  | none => s

/-- The home slice holds a copy of the line from now on, at the position that a hint gives (R242). -/
def State.homeFill (s : State) (n : Nat) (h : Hint) : State :=
  match lineFind s.homes n with
  | some l => { s with homes := lineHit s.homes l h }
  | none =>
    let s := s.roomHome n
    { s with homes := lineMiss s.homes (Line.ofMemory s.hbm n) h }

/-- The home copy of a line changed by a write that reaches the slice. -/
def State.homeWrite (s : State) (n : Nat) (f : Line → Line) : State :=
  let s := (s.captureFrames (n / 64)).homeFill n .bypass
  { s with homes := linePut s.homes (f (s.homeLine n)) }

/-- Flags merged into the atomic flag registers of a line's home slice (R331). -/
def State.mergeFlags (s : State) (n : Nat) (fs : Tbl Word) : State :=
  fs.foldl (fun s e => { s with flags := tset s.flags (homeSlice n * 64 + e.1) (tget 0 s.flags (homeSlice n * 64 + e.1) ||| e.2) }) s

/-- A cluster returns an owned line: the whole owned copy, poison with it, is written into the home copy (R254, R321). -/
def State.returnOwned (s : State) (c n : Nat) : State :=
  match (s.cluster c).ownedLine n with
  | none => s
  | some o =>
    let s := s.modCluster c fun x => { x with owned := x.owned.filter (fun y => y.line.num != n) }
    (s.homeWrite n fun h => { h with data := o.line.data, poison := o.line.poison, dirty := h.dirty ||| o.line.dirty }).mergeFlags n o.flags

/-- A line that some cluster owns is returned, whoever asks for it (R321, R357). -/
def State.recallAny (s : State) (n : Nat) : State :=
  match s.ownerOf n with
  | some c => s.returnOwned c n
  | none => s

/-- The home slice recalls a line before it serves a party other than its owner (R321). -/
def State.recall (s : State) (party n : Nat) : State :=
  match s.ownerOf n with
  | some c => if c = party then s else s.returnOwned c n
  | none => s

/-- The home slice serves a party: recall, the request is noted, the copy is held (R239, R320). -/
def State.homeServe (s : State) (party n : Nat) (h : Hint) : State := ((s.recall party n).noteRequest party n).homeFill n h

/-- The home slice serves an SO access, which sees nothing but the home copy (R354, R357). -/
def State.homeServeSo (s : State) (party n : Nat) (h : Hint) : State := (s.recallAny n).homeServe party n h

/-- A party that is no cluster. -/
def otherParty : Nat := 256

/-! ## Write-backs -/

/-- Dirty bytes of a line reach its home slice from a cluster (R240). -/
def State.mergeHome (s : State) (party : Nat) (l : Line) : State :=
  if l.dirty = 0 then s else (s.homeServe party l.num .bypass).homeWrite l.num (fun h => h.merge l)

/-- A line of the cluster memory cache is written back, and kept clean or dropped. -/
def State.writeBackCluster (s : State) (c n : Nat) (drop : Bool) : State :=
  match lineFind (s.cluster c).cache n with
  | none => s
  | some l =>
    let s := s.mergeHome c l
    s.modCluster c fun x => { x with cache := if drop then lineDrop x.cache n else linePut x.cache l.clean }

/-- The banks in cache-way mode whose way of a line's set is free (R235). -/
def Cluster.freeWays (x : Cluster) (n : Nat) : List Nat :=
  (spanOf id 0 64).filter fun b => x.mode b == .cacheWay && !(x.cache.any fun l => l.num % 1024 == n % 1024 && l.way == b)

/-- A line allocated in a cluster memory cache that has ways: a full set's victim leaves first, and the line takes any free way (R235,
R242). -/
def State.allocCluster (s : State) (c : Nat) (l : Line) (h : Hint) : State :=
  let s := match leaver (· % 1024) (s.cluster c).ways l.num (s.cluster c).cache with
    | some v => s.writeBackCluster c v.num true
    | none => s
  let free := (s.cluster c).freeWays l.num
  s.modCluster c fun x => { x with cache := lineMiss x.cache { l with way := free.getD (Config.cacheWay s.clock l.num % free.length) 0 } h }

/-- Dirty bytes of a first-level line go down one level: into the owned copy, into the cluster memory cache, or to the
home slice when the cluster has no cache-way bank (R241, R321). -/
def State.mergeDown (s : State) (c : Nat) (l : Line) : State :=
  if l.dirty = 0 then s else
  match (s.cluster c).ownedLine l.num with
  | some _ => s.modCluster c fun x => { x with owned := x.owned.map fun o =>
      if o.line.num = l.num then { o with line := o.line.merge l } else o }
  | none =>
    match lineFind (s.cluster c).cache l.num with
    | some h => s.modCluster c fun x => { x with cache := linePut x.cache (h.merge l) }
    | none =>
      if (s.cluster c).ways = 0 then s.mergeHome c l
      else
        let s := s.homeServe c l.num .bypass
        s.allocCluster c { ((s.homeLine l.num).clean.merge l) with uo := l.uo } l.hint

/-- A first-level line is written back, and kept clean or dropped. -/
def State.writeBackL1 (s : State) (k n : Nat) (drop : Bool) : State :=
  match lineFind (s.core k).l1 n with
  | none => s
  | some l =>
    let s := s.mergeDown (clusterOf k) l
    s.modCore k fun c => { c with l1 := if drop then lineDrop c.l1 n else linePut c.l1 l.clean }

/-- A line allocated in a core's first-level cache: a full set's victim leaves first (R231, R242). -/
def State.allocL1 (s : State) (k : Nat) (l : Line) (h : Hint) : State :=
  let s := match leaver (l1Set (s.core k).spN) 8 l.num (s.core k).l1 with
    | some v => s.writeBackL1 k v.num true
    | none => s
  s.modCore k fun c => { c with l1 := lineMiss c.l1 l h }

/-! ## Release and acquire on replicas (R241, R356) -/

/-- Line numbers of a cache. -/
def lineNums (ls : List Line) : List Nat := ls.map (·.num)

/-- What a release at a scope writes back first (R241): scope 0 .core, 1 .clu, 2 .bay, 3 .mod, 4 .sys. -/
def State.releaseAt (s : State) (k scope : Nat) : State :=
  if scope = 0 then s else
  let s := (lineNums (s.core k).l1).foldl (fun s n => s.writeBackL1 k n false) s
  if scope = 1 then s else
  let c := clusterOf k
  (lineNums (s.cluster c).cache).foldl (fun s n => s.writeBackCluster c n false) s

/-- The lines of UO pages that an acquire by core `k` leaves open to its UO loads: those dropped earlier, and those that it drops now (R356). -/
def State.uoKept (s : State) (k scope : Nat) : List Line :=
  let near := (s.core k).l1.filter (·.uo)
  let far := if scope = 1 then [] else (s.cluster (clusterOf k)).cache.filter fun l => l.uo && (lineFind (s.core k).l1 l.num).isNone
  near ++ far ++ (s.core k).uoOld.filter fun l => (lineFind (near ++ far) l.num).isNone

/-- Core `k` has met a line's current copy, and no longer reads what an acquire left of an older one (R353, R356). -/
def State.forgetUo (s : State) (k n : Nat) : State :=
  match lineFind (s.core k).uoOld n with
  | none => s
  | some _ => s.modCore k fun c => { c with uoOld := lineDrop c.uoOld n }

/-- A byte that core `k` stored is still the one that it reads there. -/
def State.stillThere (s : State) (k : Nat) (e : Place × Byte × Byte) : Bool :=
  (match e.1 with
   | .arr c o => (s.core c).arr.byte o
   | .bank c o => (s.cluster c).bankMem.byte o
   | .dev a => (s.lineSeen k (a / 128)).byte (a % 128)
   | .host a => s.host.byte a
   | .panel c o => (s.cluster c).store.byte o) == e.2.2

/-- What an acquire at a scope drops afterwards (R241); fetch sees from then on what another party has made of a byte that the core had
stored (R136). `full` for a FENCE or TFENCE and where a core changes hands or starts a firing: no UO load looks behind it (R349, R356). -/
def State.acquireAt (s : State) (k scope : Nat) (full : Bool) : State :=
  if scope = 0 then s else
  let old := if full then [] else s.uoKept k scope
  let s := (lineNums (s.core k).l1).foldl (fun s n => s.writeBackL1 k n true) s
  let c := clusterOf k
  let s := if scope = 1 then s else (lineNums (s.cluster c).cache).foldl (fun s n => s.writeBackCluster c n true) s
  s.modCore k fun x => { x with hide := x.hide.filter (s.stillThere k), uoOld := old }

/-- The pending flags of a cluster's owned lines reach the home registers: at a FENCE, TFENCE or release at .mod or
.sys (R331). -/
def State.mergeClusterFlags (s : State) (c : Nat) : State :=
  let s' := (s.cluster c).owned.foldl (fun s o => s.mergeFlags o.line.num o.flags) s
  s'.modCluster c fun x => { x with owned := x.owned.map fun o => { o with flags := [] } }

/-- The region scope: .bay in a one-bay partition, .mod in a larger one (R257). -/
def State.regionScope (s : State) : Nat := if s.bays = 1 then 2 else 3

/-- A release by a core at a scope, with the flags of R331. -/
def State.release (s : State) (k scope : Nat) : State :=
  let s := s.releaseAt k scope
  if 3 ≤ scope then s.mergeClusterFlags (clusterOf k) else s

/-! ## Access by a core -/

/-- The line is brought to core `k` with a hint, through a UO page or not. A bypass access allocates in no replica (R242). -/
def State.touchLine (s : State) (k n : Nat) (h : Hint) (uo : Bool) : State :=
  let s := s.forgetUo k n
  match lineFind (s.core k).l1 n with
  | some l => s.modCore k fun c => { c with l1 := lineHit c.l1 { l with uo := l.uo && uo } h }
  | none =>
    let cl := clusterOf k
    match (s.cluster cl).ownedLine n with
    | some o => if h = .bypass then s else s.allocL1 k { o.line.clean with uo := uo } h
    | none =>
      match lineFind (s.cluster cl).cache n with
      | some l =>
        let s := s.modCluster cl fun x => { x with cache := lineHit x.cache { l with uo := l.uo && uo } h }
        if h = .bypass then s else s.allocL1 k { l.clean with uo := uo } h
      | none =>
        let s := s.homeServe cl n h
        if h = .bypass then s else
        let l := { (s.homeLine n).clean with uo := uo }
        let s := if (s.cluster cl).ways = 0 then s else s.allocCluster cl l h
        s.allocL1 k l h

/-- A store by core `k` within one line (R240, R242): into its first-level copy; a bypass store that misses goes to the
copy that the cluster or the home slice holds. -/
def State.devStore (s : State) (k pa : Nat) (bs : List Byte) (h : Hint) (uo : Bool) : State :=
  let n := pa / 128
  let s := s.touchLine k n h uo
  match lineFind (s.core k).l1 n with
  | some l => s.modCore k fun c => { c with l1 := linePut c.l1 (l.store (pa % 128) bs) }
  | none =>
    let cl := clusterOf k
    match (s.cluster cl).ownedLine n with
    | some _ => s.modCluster cl fun x => { x with owned := x.owned.map fun o =>
        if o.line.num = n then { o with line := o.line.store (pa % 128) bs } else o }
    | none =>
      match lineFind (s.cluster cl).cache n with
      | some l => s.modCluster cl fun x => { x with cache := linePut x.cache (l.store (pa % 128) bs) }
      | none => s.homeWrite n fun l => l.store (pa % 128) bs

/-- The bytes at a device address as the home slice serves them to a party (SO pages, engines, walks). -/
def State.homeBytes (s : State) (pa n : Nat) : List Byte := spanOf (s.homeSeen (pa / 128)).byte (pa % 128) n

/-- One of those bytes is poisoned. -/
def State.homeBad (s : State) (pa n : Nat) : Bool := (spanOf (s.homeSeen (pa / 128)).isBad (pa % 128) n).any id

/-- A store performed at the home slice, within one line (R354). -/
def State.homeStore (s : State) (party pa : Nat) (bs : List Byte) (h : Hint) : State :=
  (s.homeServeSo party (pa / 128) h).homeWrite (pa / 128) fun l => l.store (pa % 128) bs

/-- DISC of a line by core `k` (R259): every copy of its core and cluster, any owned copy and the home copy are dropped
without write-back. It acts as a store (R353), so a shadow page is copied before it (R398). -/
def State.discLine (s : State) (k n : Nat) : State :=
  let s := ((s.captureFrames (n / 64)).noteRequest (clusterOf k) n).forgetUo k n
  let s := s.modCore k fun c => { c with l1 := lineDrop c.l1 n }
  let s := s.modCluster (clusterOf k) fun x => { x with cache := lineDrop x.cache n }
  let s := match s.ownerOf n with
    | some c => (match (s.cluster c).ownedLine n with
        | some o => (s.mergeFlags n o.flags).modCluster c fun x =>
            { x with owned := x.owned.filter (fun y => y.line.num != n) }
        | none => s)
    | none => s
  { s with homes := lineDrop s.homes n }

/-! ## Where an atomic is performed (R320 to R322) -/

/-- An owned line moved to the front of its unit's list. -/
def Cluster.ownFirst (c : Cluster) (n : Nat) : Cluster :=
  { c with owned := c.owned.filter (fun o => o.line.num == n) ++ c.owned.filter (fun o => o.line.num != n) }

/-- A unit that is full returns its least recently used line (R320). -/
def State.makeRoom (s : State) (cl : Nat) : State :=
  if (s.cluster cl).owned.length < 64 then s else
  match (s.cluster cl).owned.getLast? with
  | some o => s.returnOwned cl o.line.num
  | none => s

/-- The line holds a barrier object or sync word, in its home slice's sync cache or written back to the line (R343). -/
def State.isObject (s : State) (n : Nat) : Bool := s.sync.any fun a => a / 128 == n

/-- The line is brought to the place where an atomic of core `k` is performed. The core's dirty bytes of the line go down and its
first-level copy is dropped (R324). An access to an SO page is then served by the home copy alone (R337, R357). For another, the
cluster's copy on the way follows (R337), the line is granted where R320 and R343 say so, and other owners return it (R321). -/
def State.atomicPlace (s : State) (k n : Nat) (so : Bool) : State :=
  let cl := clusterOf k
  let s := (s.writeBackL1 k n true).forgetUo k n
  if so then s.homeServeSo cl n .default else
  let s := s.writeBackCluster cl n true
  match (s.cluster cl).ownedLine n with
  | some _ => s.modCluster cl fun x => x.ownFirst n
  | none =>
    let owner := s.ownerOf n
    let grant := !s.contended cl n && owner.isNone && !s.isObject n
    let s := s.homeServe cl n .default
    if !grant then s
    else
      let s := s.makeRoom cl
      s.modCluster cl fun x => { x with owned := { line := (s.homeLine n).clean, flags := [] } :: x.owned }

end Sys2Proof.Machine
end

