-- ==== Sys2Proof/Machine/Xlate.lean ====
section
/-! DEFINITION. Local windows, translation, and the bytes that an access reads and writes (spec/12_memory_hierarchy.md
R229, R238, R243 to R248; spec/13_memory_instructions.md R254 to R256; spec/07_cores_and_workspace.md R122). -/

namespace Sys2Proof.Machine

/-- What an access needs of a page (R245). -/
inductive Acc where
  | load | store | atomic | fetch | disc | pref
  deriving DecidableEq, Repr

/-- The access needs W permission or changes memory. -/
def Acc.writes : Acc → Bool
  | .store => true
  | .atomic => true
  | .disc => true
  | _ => false

/-- Why an access fails. -/
inductive MemErr where
  /-- TFAULT; `off` when the address space is not enabled (R243). -/
  | tfault (off : Bool)
  | afault
  | poison
  deriving DecidableEq, Repr

/-- Where an access lands. -/
structure Target where
  place : Place
  ord : OrdClass
  hint : Hint
  /-- The page is SHD (R244). -/
  shd : Bool
  deriving DecidableEq, Repr

/-- The access is to an SO page. -/
def Target.so (t : Target) : Bool := t.ord == .so

/-! ## Windows -/

/-- First address of the local windows (R229). -/
def windowBase : Nat := 0x1FFFFFF8000000
/-- The cluster bank window. -/
def bankWindow : Nat := 0x1FFFFFFE000000
/-- The system area window. -/
def sysWindow : Nat := 0x1FFFFFFF000000
/-- The core scratchpad window. -/
def padWindow : Nat := 0x1FFFFFFF008000

/-- The window address of a bank. -/
def bankAddr (b : Nat) : Nat := bankWindow + b * 0x20000

/-- Where a window address leads for core `k`; the panel window is open to engines only (R229). -/
def State.window (s : State) (k va : Nat) (engine : Bool) : Option Place :=
  if sysWindow ≤ va ∧ va < padWindow then (if engine then none else some (.arr k (va - sysWindow)))
  else if padWindow ≤ va ∧ va < padWindow + (s.core k).spN * 0x4000 then some (.arr k (va - sysWindow))
  else if bankWindow ≤ va ∧ va < bankWindow + 0x800000 then
    (if (s.cluster (clusterOf k)).mode ((va - bankWindow) / 0x20000) = .scratchpad
     then some (.bank (clusterOf k) (va - bankWindow)) else none)
  else if windowBase ≤ va ∧ va < windowBase + 0x4000000 then
    (if engine then some (.panel (clusterOf k) (va - windowBase)) else none)
  else none

/-! ## Page table entries (R244) -/

/-- V of a PTE. -/
def pteV (e : Word) : Bool := e.getLsbD 0
/-- R of a PTE. -/
def pteR (e : Word) : Bool := e.getLsbD 1
/-- W of a PTE. -/
def pteW (e : Word) : Bool := e.getLsbD 2
/-- X of a PTE. -/
def pteX (e : Word) : Bool := e.getLsbD 3
/-- ORD of a PTE. -/
def pteOrd (e : Word) : Nat := fieldNat e 4 2
/-- U of a PTE. -/
def pteU (e : Word) : Bool := e.getLsbD 6
/-- G of a PTE. -/
def pteG (e : Word) : Bool := e.getLsbD 7
/-- SHD of a PTE. -/
def pteShd (e : Word) : Bool := e.getLsbD 8
/-- A of a PTE. -/
def pteA (e : Word) : Bool := e.getLsbD 9
/-- D of a PTE. -/
def pteD (e : Word) : Bool := e.getLsbD 10
/-- PFN of a PTE. -/
def ptePfn (e : Word) : Nat := fieldNat e 13 33
/-- HINT of a PTE. -/
def pteHint (e : Word) : Hint :=
  match fieldNat e 46 2 with | 0 => .streaming | 1 => .default | 2 => .sticky | _ => .bypass
/-- The class that ORD names; 0b11 never gets here (R245). -/
def pteClass (e : Word) : OrdClass := match pteOrd e with | 1 => .so | 2 => .uo | _ => .rc
/-- The reserved bits of a PTE are zero. -/
def pteReservedOk (e : Word) : Bool := fieldNat e 11 2 == 0 && fieldNat e 48 16 == 0

/-- A device or host address is one the partition has (R238). -/
def State.physOk (s : State) (pa : Nat) : Bool :=
  if pa / 2 ^ 42 = 0 then decide (pa % 2 ^ 39 < 320000000000) && decide (s.bay0 ≤ pa / 2 ^ 39 % 8) &&
    decide (pa / 2 ^ 39 % 8 < s.bay0 + s.bays)
  else decide (pa / 2 ^ 42 = 8)

/-- Where a physical address leads. -/
def physPlace (pa : Nat) : Place := if pa / 2 ^ 42 = 0 then .dev (pa % 2 ^ 42) else .host (pa % 2 ^ 42)

/-- The doubleword at a physical address as a walk reads it, at the home slice (R243, R248); none when poisoned. -/
def State.physWord (s : State) (pa : Nat) : Option Word :=
  match physPlace pa with
  | .dev a => if s.homeBad a 8 then none else some (BitVec.ofNat 64 (leNat (s.homeBytes a 8)))
  | .host a => if s.host.anyBad a 8 then none else some (s.host.word a)
  | _ => none

/-- A doubleword that the walker ORs into a PTE at its home slice (R246). -/
def State.physOr (s : State) (pa : Nat) (v : Word) : State :=
  match physPlace pa with
  | .dev a => s.homeStore otherParty a (leBytes 8 ((BitVec.ofNat 64 (leNat (s.homeBytes a 8)) ||| v).toNat)) .default
  | .host a => { s with host := s.host.setWord a (s.host.word a ||| v) }
  | _ => s

/-- A leaf found by a walk: its PTE, the PTE's address and the level. -/
structure Leaf where
  pte : Word
  addr : Nat
  lvl : Nat
  deriving DecidableEq, Repr

/-- The walk of R243 from table `t` at level `lvl`, with the addresses of the PTEs read, latest first. -/
def State.walkFrom (s : State) (va : Nat) (reads : List Nat) (t : Nat) (lvl : Nat) : List Nat × Except MemErr Leaf :=
  let addr := t + 8 * (va / 2 ^ (10 * lvl + 13) % 1024)
  if !s.physOk addr then (reads, .error .afault) else
  let reads := addr :: reads
  match s.physWord addr with
  | none => (reads, .error .poison)
  | some e =>
    if !pteV e || !pteReservedOk e || (pteW e && !pteR e) then (reads, .error (.tfault false))
    else if !pteR e && !pteW e && !pteX e then
      if lvl = 0 ∨ pteOrd e ≠ 0 ∨ pteU e ∨ pteG e ∨ pteShd e ∨ pteA e ∨ pteD e ∨ fieldNat e 46 2 ≠ 0
      then (reads, .error (.tfault false))
      else match lvl with
        | 0 => (reads, .error (.tfault false))
        | n + 1 => s.walkFrom va reads (ptePfn e * 2 ^ 13) n
    else if lvl = 3 ∨ ptePfn e % 2 ^ (10 * lvl) ≠ 0 then (reads, .error (.tfault false))
    else (reads, .ok { pte := e, addr := addr, lvl := lvl })

/-- The PTE reads of a walk are served at their home slices (R248, R320, R321). -/
def State.walked (s : State) (reads : List Nat) : State :=
  reads.foldl (fun s a => match physPlace a with
    | .dev p => s.homeServe otherParty (p / 128) .default
    | _ => s) s

/-- The walk of an address space (R243): its PTE reads are requests whether it succeeds or fails (R320, R321). -/
def State.walk (s : State) (space va : Nat) : State × Except MemErr Leaf :=
  let p := (s.func (space / 256)).proc (space % 256)
  if !p.root.getLsbD 0 then (s, .error (.tfault true))
  else
    let r := s.walkFrom va [] (fieldNat p.root 13 33 * 2 ^ 13) 3
    (s.walked r.1, r.2)

/-- The SHD leaves under a table at a level: first page and number of pages (R244, R398). -/
def State.shdFrom (s : State) (t : Nat) (lvl : Nat) : List (Nat × Nat) :=
  (spanOf (fun i => t + 8 * i) 0 1024).flatMap fun addr =>
    match if s.physOk addr then s.physWord addr else none with
    | none => []
    | some e =>
      if !pteV e || !pteReservedOk e then []
      else if !pteR e && !pteW e && !pteX e then (match lvl with | 0 => [] | n + 1 => s.shdFrom (ptePfn e * 2 ^ 13) n)
      else if pteShd e ∧ lvl < 3 then [(ptePfn e, 2 ^ (10 * lvl))] else []

/-- The SHD pages of an address space. -/
def State.shdPages (s : State) (space : Nat) : List (Nat × Nat) :=
  let p := (s.func (space / 256)).proc (space % 256)
  if p.root.getLsbD 0 then s.shdFrom (fieldNat p.root 13 33 * 2 ^ 13) 3 else []

/-- The physical address of a VA through a leaf of a level. -/
def leafPa (pte : Word) (pages va : Nat) : Nat := ptePfn pte * 2 ^ 13 + va % (pages * 2 ^ 13)

/-- The leaf checks of R245: ORD, U outside a handler context, a missing permission, then the physical address. -/
def State.leafOk (s : State) (e : Word) (pa : Nat) (a : Acc) (handler : Bool) : Bool :=
  pteOrd e != 3 && (pteU e || handler) &&
  (match a with
   | .load => pteR e
   | .pref => pteR e
   | .store => pteW e
   | .disc => pteW e
   | .atomic => pteR e && pteW e
   | .fetch => pteX e) && s.physOk pa

/-- A TLB entry serves an address space and page (R247). -/
def TlbEntry.hits (e : TlbEntry) (space vpn : Nat) : Bool :=
  (e.space == space || (pteG e.pte && e.space / 256 == space / 256)) && decide (e.vpn ≤ vpn) && decide (vpn < e.vpn + e.pages)

/-- The entry that a leaf fills (R247). -/
def Leaf.entry (l : Leaf) (space va : Nat) : TlbEntry :=
  { space := space, vpn := va / 2 ^ 13 / 2 ^ (10 * l.lvl) * 2 ^ (10 * l.lvl), pages := 2 ^ (10 * l.lvl), pte := l.pte }

/-- A and D that an access sets (R246). -/
def adBits (a : Acc) : Word := if a = .store ∨ a = .atomic then 0x600 else 0x200

/-- The walker's part of an access (R243 to R246): the walk, the leaf checks, then A and D at the PTE's home slice. -/
def State.walkAccess (s : State) (space va : Nat) (a : Acc) (handler : Bool) : State × Except MemErr TlbEntry :=
  match s.walk space va with
  | (s, .error e) => (s, .error e)
  | (s, .ok l) =>
    let ent := l.entry space va
    if !s.leafOk l.pte (leafPa l.pte ent.pages va) a handler then (s, .error .afault)
    else if l.pte &&& adBits a = adBits a then (s, .ok ent)
    else (s.physOr l.addr (adBits a), .ok { ent with pte := l.pte ||| adBits a })

/-- A TLB with an entry put in front, older entries of the same pages gone. -/
def tlbPut (t : List TlbEntry) (e : TlbEntry) : List TlbEntry :=
  e :: t.filter (fun x => !(x.space == e.space && x.vpn == e.vpn && x.pages == e.pages))

/-- The set of an entry in a cluster's TLB. -/
def TlbEntry.set (e : TlbEntry) : Nat := e.vpn / e.pages % 512

/-- A core's TLB of 64 entries with an entry put in: the oldest leaves a full one (R247). -/
def Core.tlbFill (c : Core) (e : TlbEntry) : Core := { c with tlb := (tlbPut c.tlb e).take 64 }

/-- A cluster's TLB of 512 sets of 8 ways with an entry put in: the oldest of a full set leaves (R247). -/
def Cluster.tlbFill (x : Cluster) (e : TlbEntry) : Cluster :=
  let t := tlbPut x.tlb e
  let over_ := (t.filter fun y => y.set == e.set).drop 8
  { x with tlb := t.filter fun y => !over_.contains y }

/-- Translation for a core through its TLB, its cluster's TLB and the walker (R247). -/
def State.lookup (s : State) (k space va : Nat) (a : Acc) (handler : Bool) : State × Except MemErr TlbEntry :=
  let vpn := va / 2 ^ 13
  let usable (e : TlbEntry) : Bool := e.hits space vpn && (!(a == .store || a == .atomic) || pteD e.pte)
  if !((s.func (space / 256)).proc (space % 256)).root.getLsbD 0 then (s, .error (.tfault true)) else
  match (s.core k).tlb.find? usable with
  | some e => (s, if s.leafOk e.pte (leafPa e.pte e.pages va) a handler then .ok e else .error .afault)
  | none =>
    match (s.cluster (clusterOf k)).tlb.find? usable with
    | some e => if s.leafOk e.pte (leafPa e.pte e.pages va) a handler
        then (s.modCore k fun c => c.tlbFill e, .ok e) else (s, .error .afault)
    | none =>
      match s.walkAccess space va a handler with
      | (s, .error e) => (s, .error e)
      | (s, .ok e) =>
        let s := s.modCore k fun c => c.tlbFill e
        (s.modCluster (clusterOf k) fun x => x.tlbFill e, .ok e)

/-- What a PREF of core `k` would bring in, with no architectural change: a line of device memory and its page; none where it would fail a
check, or names anything but an RC or UO page of device memory (R258). A walk's PTE reads are requests (R320). -/
def State.prefTarget (s : State) (k va : Nat) : State × Option (Nat × Word) :=
  let space := s.spaceOf k
  let vpn := va / 2 ^ 13
  if windowBase ≤ va ∨ !((s.func (space / 256)).proc (space % 256)).root.getLsbD 0 then (s, none) else
  let r : State × Option TlbEntry :=
    match ((s.core k).tlb ++ (s.cluster (clusterOf k)).tlb).find? fun e => e.hits space vpn with
    | some e => (s, some e)
    | none => match s.walk space va with
      | (s, .ok l) => (s, some (l.entry space va))
      | (s, .error _) => (s, none)
  (r.1, r.2.bind fun e =>
    let pa := leafPa e.pte e.pages va
    if !s.leafOk e.pte pa .pref (s.core k).inHandler || pteOrd e.pte == 1 then none else
    match physPlace pa with
    | .dev a => some (a / 128, e.pte)
    | _ => none)

/-! ## Shadow pages (R398, R400) -/

/-- A paired region gives each copy its frame of an SHD page that it reaches, filled with the page's bytes, and notes the first write to
it. Frames of paired copies lie above device memory. -/
def State.noteShd (s : State) (r copy pa vpn : Nat) (w : Bool) : State :=
  match s.region? r with
  | none => s
  | some g =>
    let p := pa / 2 ^ 13
    let mine (f : Frame) : Bool := f.copy == copy && f.page == p
    let note (f : Frame) : Frame := if mine f then { f with wrote := f.wrote || w } else f
    if !g.eff.paired then s
    else if g.frames.any mine then s.modRegion r fun x => { x with frames := x.frames.map note }
    else
      let base := 2 ^ 42 + g.frames.length * 2 ^ 13 + r * 2 ^ 50
      let m := s.pageBytes p
      State.modRegion { s with hbm := s.hbm.copyFrom m base 0 0x2000 } r fun x =>
        { x with frames := x.frames ++ [{ copy := copy, page := p, vpn := vpn, mem := .empty, base := base, wrote := w, old := false }] }

/-- The physical address that a copy of a paired region uses for an SHD page (R400). -/
def Region.shadowPa (g : Region) (copy pa : Nat) : Nat :=
  match g.frames.find? (fun f => f.copy == copy && f.page == pa / 2 ^ 13) with
  | some f => if g.eff.paired then f.base + pa % 2 ^ 13 else pa
  | none => pa

/-! ## Translation of one part of an access -/

/-- The target of an address within one page for core `k` (R229, R243 to R247). -/
def State.translate (s : State) (k va : Nat) (a : Acc) : State × Except MemErr Target :=
  if windowBase ≤ va then
    (s, match s.window k va false with
    | some p => .ok { place := p, ord := .rc, hint := .default, shd := false }
    | none => .error .afault)
  else
    match s.lookup k (s.spaceOf k) va a (s.core k).inHandler with
    | (s, .error e) => (s, .error e)
    | (s, .ok e) =>
      let pa := leafPa e.pte e.pages va
      let shd := pteShd e.pte
      let t : Target := { place := physPlace pa, ord := pteClass e.pte, hint := pteHint e.pte, shd := shd }
      if !shd then (s, .ok t) else
      match s.firingOf k with
      | none => (s, .ok t)
      | some f =>
        let s := s.noteShd f.region f.copy pa (va / 2 ^ 13) a.writes
        match s.region? f.region with
        | none => (s, .ok t)
        | some g => (s, .ok (if g.eff.paired then { t with place := .dev (g.shadowPa f.copy pa) } else t))

/-- The parts of an access of `n` bytes at `va`: split at a page boundary (R254). -/
def partsOf (va n : Nat) : List (Nat × Nat) :=
  let r := 0x2000 - va % 0x2000
  if n ≤ r then [(va, n)] else [(va, r), ((va + r) % vaSpace, n - r)]

/-- Every part translated in turn; the first failure with the first address of its part (R254). -/
def State.translateParts (s : State) (k : Nat) (ps : List (Nat × Nat)) (a : Acc) :
    State × Except (MemErr × Nat) (List (Target × Nat)) :=
  match ps with
  | [] => (s, .ok [])
  | (va, n) :: r =>
    match s.translate k va a with
    | (s, .error e) => (s, .error (e, va))
    | (s, .ok t) =>
      match s.translateParts k r a with
      | (s, .error e) => (s, .error e)
      | (s, .ok ts) => (s, .ok ((t, n) :: ts))

/-! ## Bytes of a place -/

/-- The place `i` bytes further. -/
def Place.add (p : Place) (i : Nat) : Place :=
  match p with
  | .arr c o => .arr c (o + i)
  | .bank c o => .bank c (o + i)
  | .dev a => .dev (a + i)
  | .host a => .host (a + i)
  | .panel c o => .panel c (o + i)

/-- The offset or address of a place. -/
def Place.off (p : Place) : Nat :=
  match p with | .arr _ o => o | .bank _ o => o | .dev a => a | .host a => a | .panel _ o => o

/-- The same place at another offset or address. -/
def Place.at_ (p : Place) (o : Nat) : Place :=
  match p with | .arr c _ => .arr c o | .bank c _ => .bank c o | .dev _ => .dev o | .host _ => .host o | .panel c _ => .panel c o

/-- The 128-byte blocks that hold the `n` bytes from a place on, each by its first place: the lines of device memory, and the like of them
elsewhere. -/
def Place.blocks (p : Place) (n : Nat) : List Place :=
  spanOf (fun b => p.at_ (128 * b)) (p.off / 128) ((p.off + n - 1) / 128 - p.off / 128 + 1)

/-- The elements that a core's streams have read ahead are discarded from the first one on that lies in some of the blocks (R267). -/
def Core.dropAhead (c : Core) (bs : List Place) : Core :=
  { c with ahead := c.ahead.map fun e => (e.1, e.2.takeWhile fun a => !(a.blocks.any bs.contains)) }

/-- The line that core `k` reads through a page of class `o`: the home copy for an SO page (R354, R357), and for a UO page what an acquire
has left, if anything (R356). -/
def State.classLine (s : State) (k : Nat) (o : OrdClass) (n : Nat) : Line :=
  match o with
  | .so => s.homeSeen n
  | .rc => s.lineSeen k n
  | .uo => (lineFind (s.core k).uoOld n).getD (s.lineSeen k n)

/-- The byte that core `k` reads at a place through a page of class `o`. -/
def State.seenByte (s : State) (k : Nat) (o : OrdClass) (p : Place) : Byte :=
  match p with
  | .arr c o => (s.core c).arr.byte o
  | .bank c o => (s.cluster c).bankMem.byte o
  | .dev a => (s.classLine k o (a / 128)).byte (a % 128)
  | .host a => s.host.byte a
  | .panel c o => (s.cluster c).store.byte o

/-- That byte is poisoned in the copy that is read (R254). -/
def State.seenBad (s : State) (k : Nat) (o : OrdClass) (p : Place) : Bool :=
  match p with
  | .arr c o => (s.core c).arr.isBad o
  | .bank c o => (s.cluster c).bankMem.isBad o
  | .dev a => (s.classLine k o (a / 128)).isBad (a % 128)
  | .host a => s.host.isBad a
  | .panel c o => (s.cluster c).store.isBad o

/-- The lines that hold the `n` bytes from a device address on. -/
def linesOf (a n : Nat) : List Nat := spanOf id (a / 128) ((a + n - 1) / 128 - a / 128 + 1)

/-- What a read by core `k` does to the replicas: the lines of the span are brought in with a hint (R242); an SO page's
line is served at its home slice. -/
def State.touch (s : State) (k : Nat) (t : Target) (h : Hint) (n : Nat) : State :=
  match t.place with
  | .dev a => (linesOf a n).foldl (fun s l =>
      match t.ord with
      | .so => s.homeServeSo (clusterOf k) l h
      | .rc => s.touchLine k l h false
      | .uo => if (lineFind (s.core k).uoOld l).isSome then s else s.touchLine k l h true) s
  | _ => s

/-- A UO load of core `k` of a line that an acquire has dropped reads the old copy or the present one, as no release or acquire but a FENCE
or TFENCE orders it (R356). -/
def State.uoChoose (s : State) (k n : Nat) : State :=
  match lineFind (s.core k).uoOld n with
  | none => s
  | some _ => if Config.freeChoice s.fresh % 2 = 0 then s.tick else s.tick.forgetUo k n

/-- The choices of `uoChoose` for the lines of a load. -/
def State.readUo (s : State) (k : Nat) (t : Target) (n : Nat) : State :=
  match t.place with
  | .dev a => if t.ord = .uo then (linesOf a n).foldl (fun s l => s.uoChoose k l) s else s
  | _ => s

/-- What a load of core `k` reads at places that translation has given, and what it does to the replicas; no bytes where one is poisoned
(R242, R254, R356). -/
def State.readTargets (s : State) (k : Nat) (ts : List (Target × Nat)) (hint : Target → Hint) : State × Option (List Byte) :=
  let s := ts.foldl (fun s t => s.readUo k t.1 t.2) s
  if ts.any fun t => (spanOf (fun i => s.seenBad k t.1.ord (t.1.place.add i)) 0 t.2).any id then (s, none)
  else (ts.foldl (fun s t => s.touch k t.1 (hint t.1) t.2) s,
    some (ts.flatMap fun t => spanOf (fun i => s.seenByte k t.1.ord (t.1.place.add i)) 0 t.2))

/-- The bytes of the system area that software cannot store to (R122). -/
def deviceOnly (off : Nat) : Bool := decide (0x600 ≤ off) && decide (off < 0x4000)

/-- A store of software into a core's array: bytes for the device's own offsets are discarded (R122). -/
def arrStore (m : Memory) (off : Nat) (bs : List Byte) : Memory :=
  if (spanOf deviceOnly off bs.length).any id then
    (bs.zipIdx.filter (fun e => !deviceOnly (off + e.2))).foldl (fun m e => m.write (off + e.2) [e.1]) m
  else m.write off bs

/-- Bytes stored by core `k` at a device address, line by line. -/
def State.devPut (s : State) (k : Nat) (o : OrdClass) (h : Hint) (a : Nat) (bs : List Byte) : Nat → State
  | 0 => s
  | n + 1 =>
    let r := 128 - a % 128
    let s := if o = .so then (s.forgetUo k (a / 128)).homeStore (clusterOf k) a (bs.take r) h else s.devStore k a (bs.take r) h (o == .uo)
    if bs.length ≤ r then s else State.devPut s k o h (a + r) (bs.drop r) n

/-- Bytes stored by core `k` at a place, within one page (R240, R254, R354). -/
def State.putBytes (s : State) (k : Nat) (c : OrdClass) (p : Place) (h : Hint) (bs : List Byte) : State :=
  match p with
  | .arr k o => s.modCore k fun x => { x with arr := arrStore x.arr o bs }
  | .bank n o => s.modCluster n fun x => { x with bankMem := x.bankMem.write o bs }
  | .host a => let s := s.captureFrames ((8 * 2 ^ 42 + a) / 0x2000); { s with host := s.host.write a bs }
  | .panel n o => s.modCluster n fun x => { x with store := x.store.write o bs }
  | .dev a => s.devPut k c h a bs (bs.length / 128 + 2)

/-- Fetch may still see what a byte held before the core's own store to it, until a FENCE (R136). -/
def State.hideBytes (s : State) (k : Nat) (o : OrdClass) (p : Place) (bs : List Byte) : State :=
  let add (h : List (Place × Byte × Byte)) (e : Byte × Nat) : List (Place × Byte × Byte) :=
    let q := p.add e.2
    if h.any (fun x => x.1 == q) then h.map (fun x => if x.1 = q then (q, x.2.1, e.1) else x) else (q, s.seenByte k o q, e.1) :: h
  s.modCore k fun c => { c with hide := bs.zipIdx.foldl add c.hide }

/-- A hint field of an instruction with the page's own hint for `.df` (R144, R242). -/
def hintOf (f : BitVec 2) (page : Hint) : Hint :=
  match f.toNat with | 0 => .streaming | 1 => page | 2 => .sticky | _ => .bypass

/-! ## Accesses of the device and of engines: at the home slice, by VA of an address space -/

/-- Translation for an agent without a TLB of its own: packets, engines, the device (R243, R301, R454). The local windows belong to cores
and engines, and no translation leads there (R229). `handler` is set for what a handler context has issued (R245, R306). -/
def State.xlateDev (s : State) (space va : Nat) (a : Acc) (handler : Bool) : State × Except MemErr Target :=
  if windowBase ≤ va then (s, .error .afault) else
  match s.walkAccess space va a handler with
  | (s, .error e) => (s, .error e)
  | (s, .ok e) =>
    let p := physPlace (leafPa e.pte e.pages va)
    (s, .ok { place := p, ord := pteClass e.pte, hint := pteHint e.pte, shd := pteShd e.pte })

/-- The byte at a place as the home slices and local memories hold it. -/
def State.homeByte (s : State) (p : Place) : Byte := s.seenByte 0 .so p

/-- Bytes read by the device at a VA of an address space, within one page; an error names the faulting VA: the first poisoned
byte, or the address that did not translate. -/
def State.devReadPart (s : State) (space va n : Nat) : State × Except (MemErr × Nat) (List Byte) :=
  match s.xlateDev space va .load false with
  | (s, .error e) => (s, .error (e, va))
  | (s, .ok t) =>
    let bad := (List.range n).find? (fun i => s.seenBad 0 .so (t.place.add i))
    let bs := spanOf (fun i => s.homeByte (t.place.add i)) 0 n
    (match t.place with
     | .dev a => (linesOf a n).foldl (fun s l => s.homeServe otherParty l .default) s
     | _ => s,
     match bad with
     | some i => .error (.poison, va + i)
     | none => .ok bs)

/-- The pages of a span: start and length of each piece. -/
def pagesOf (va n : Nat) : Nat → List (Nat × Nat)
  | 0 => []
  | fuel + 1 =>
    if n = 0 then [] else
    let r := min n (0x2000 - va % 0x2000)
    (va, r) :: pagesOf ((va + r) % vaSpace) (n - r) fuel

/-- Pieces read in turn. -/
def State.devReadParts (s : State) (space : Nat) (ps : List (Nat × Nat)) :
    State × Except (MemErr × Nat) (List Byte) :=
  match ps with
  | [] => (s, .ok [])
  | (va, n) :: r =>
    match s.devReadPart space va n with
    | (s, .error e) => (s, .error e)
    | (s, .ok b) =>
      match s.devReadParts space r with
      | (s, .error e) => (s, .error e)
      | (s, .ok bs) => (s, .ok (b ++ bs))

/-- Bytes read by the device at a VA; the error names the faulting VA. -/
def State.devRead (s : State) (space va n : Nat) : State × Except (MemErr × Nat) (List Byte) :=
  s.devReadParts space (pagesOf (va % vaSpace) n (n / 0x2000 + 2))

/-- Doublewords of a list of bytes. -/
def wordsOf (bs : List Byte) : Nat → List Word
  | 0 => []
  | n + 1 => BitVec.ofNat 64 (leNat (bs.take 8)) :: wordsOf (bs.drop 8) n

/-- Doublewords read by the device. -/
def State.devWords (s : State) (space va n : Nat) : State × Except (MemErr × Nat) (List Word) :=
  match s.devRead space va (8 * n) with
  | (s, .error e) => (s, .error e)
  | (s, .ok bs) => (s, .ok (wordsOf bs n))

/-- Bytes stored by the device at a place, at the home slice. -/
def State.homePut (s : State) (p : Place) (bs : List Byte) : State := s.putBytes (otherParty * 16) .so p .default bs

/-- Bytes stored by the device at a VA of an address space, within one page; an access that fails stores nothing. -/
def State.devWrite (s : State) (space va : Nat) (bs : List Byte) : State × Option MemErr :=
  match s.xlateDev space va .store false with
  | (s, .error e) => (s, some e)
  | (s, .ok t) => (s.homePut t.place bs, none)

/-! ## Fetch (R136, R137) -/

/-- The byte that core `k` fetches at a place, old: what its replicas hold, but for its own stores since the last FENCE. -/
def State.oldByte (s : State) (k : Nat) (o : OrdClass) (p : Place) : Byte :=
  match ((s.core k).hide.find? (fun e => e.1 == p)) with
  | some e => e.2.1
  | none => s.seenByte k o p

/-- The same, new: with the stores that its own core and cluster hold, and otherwise as the home slice holds it. -/
def State.newByte (s : State) (k : Nat) (o : OrdClass) (p : Place) : Byte :=
  if (s.core k).hide.any (fun e => e.1 == p) then s.seenByte k o p else
  match p with
  | .dev a =>
    let stored (ls : List Line) : Option Line := (lineFind ls (a / 128)).filter fun l => l.isDirty (a % 128)
    (((stored (s.core k).l1).or (stored (s.cluster (clusterOf k)).cache)).getD (s.homeSeen (a / 128))).byte (a % 128)
  | _ => s.seenByte k o p

/-- The halfword that core `k` fetches: its old or its new contents, where they differ (R136). -/
def State.fetchBytes (s : State) (k : Nat) (o : OrdClass) (p : Place) : State × List Byte :=
  let old := [s.oldByte k o p, s.oldByte k o (p.add 1)]
  let new := [s.newByte k o p, s.newByte k o (p.add 1)]
  if old = new then (s, old)
  else (s.tick, if Config.freeChoice s.fresh % 2 = 0 then old else new)

/-- A halfword or literal half fetched by core `k` (R135 to R137). Fetch follows the rules for RC pages on a UO page: an acquire lets it see
the writer's code whatever the class (R136). -/
def State.fetchHalf (s : State) (k va : Nat) : State × Except MemErr (List Byte) :=
  match s.translate k va .fetch with
  | (s, .error e) => (s, .error e)
  | (s, .ok t) =>
    let o : OrdClass := if t.so then .so else .rc
    if s.seenBad k o t.place || s.seenBad k o (t.place.add 1) then (s.touch k t t.hint 2, .error .poison)
    else
      let r := s.fetchBytes k o t.place
      (r.1.touch k t t.hint 2, .ok r.2)

/-- What fetching at a core's PC gives. -/
inductive Fetched where
  /-- An instruction; the state has the fetch's effects on TLBs and replicas. -/
  | instr (s : State) (i : Instr)
  /-- Not an instruction: the bits (R154). -/
  | bad (s : State) (bits : BitVec 32)
  /-- A fault of the fetch: TFAULT, and whether the address space is off, AFAULT or POISON, with the address (R137). -/
  | fault (s : State) (e : MemErr) (va : Nat)
  deriving DecidableEq, Repr

/-- Halfwords fetched in turn from an address. -/
def State.fetchHalves (s : State) (k va : Nat) : Nat → State × Except (MemErr × Nat) (List Byte)
  | 0 => (s, .ok [])
  | n + 1 =>
    match s.fetchHalf k va with
    | (s, .error e) => (s, .error (e, va))
    | (s, .ok b) =>
      match s.fetchHalves k ((va + 2) % vaSpace) n with
      | (s, .error e) => (s, .error e)
      | (s, .ok bs) => (s, .ok (b ++ bs))

/-- Fetch and decode at a core's PC, in the order of R137: first halfword, second halfword, decode, literal word. -/
def State.fetch (s : State) (k : Nat) : Fetched :=
  let pc := (s.core k).pc.toNat
  match s.fetchHalves k pc 1 with
  | (s1, .error (e, va)) => .fault s1 e va
  | (s1, .ok b1) =>
    if leNat b1 % 2 = 0 then
      match decodeHalf (leNat b1) with
      | .ok i => .instr s1 i
      | .error _ => .bad s1 (BitVec.ofNat 32 (leNat b1))
    else
      match s1.fetchHalves k ((pc + 2) % vaSpace) 1 with
      | (s2, .error (e, va)) => .fault s2 e va
      | (s2, .ok b2) =>
        let w := leNat (b1 ++ b2)
        match decodeWord w 0 with
        | .error _ => .bad s2 (BitVec.ofNat 32 w)
        | .ok i =>
          if hasLiteral w then
            match s2.fetchHalves k ((pc + 4) % vaSpace) 2 with
            | (s3, .error (e, _)) => .fault s3 e ((pc + 4) % vaSpace)
            | (s3, .ok b3) =>
              match decodeWord w (leNat b3) with
              | .ok j => .instr s3 j
              | .error _ => .bad s3 (BitVec.ofNat 32 w)
          else .instr s2 i

end Sys2Proof.Machine
end

