-- ==== Sys2Proof/Machine/Ctx.lean ====
section
/-! DEFINITION. Context blocks: saving, checking and loading them (spec/07_cores_and_workspace.md R127, R128;
spec/13_memory_instructions.md R264), and the checks of a control register's value (R46, R47, R125, R369, R383). -/

namespace Sys2Proof.Machine

/-! ## Control-register values -/

/-- A value that cr.frm accepts: MODE 0-4 in [2:0], DZTRAP in [3] (R46). -/
def frmOk (v : Word) : Bool := decide (v.toNat < 16) && decide (v.toNat % 8 ≤ 4)

/-- A value that cr.fflags accepts (R47). -/
def fflagsOk (v : Word) : Bool := decide (v.toNat < 32)

/-- A value that cr.wp accepts: [14:8], in 0x0400-0x05FF or 0x4000-0x7FFF (R125). -/
def wpOk (v : Word) : Bool :=
  v.toNat % 256 == 0 && (decide (0x400 ≤ v.toNat ∧ v.toNat ≤ 0x5FF) || decide (0x4000 ≤ v.toNat ∧ v.toNat ≤ 0x7FFF))

/-- A one-bit control register's value. -/
def bit0Ok (v : Word) : Bool := decide (v.toNat < 2)

/-- A value that cr.epc accepts: a PC with bit 0 zero (R369). -/
def epcOk (v : Word) : Bool := decide (v.toNat < 2 ^ 53) && v.toNat % 2 == 0

/-- A value that cr.cause accepts: [63:15] and [8] zero (R369). -/
def causeOk (v : Word) : Bool := decide (v.toNat < 2 ^ 15) && !v.getLsbD 8

/-- A value that cr.compat accepts: reserved bits zero, EN as it stands (R383). -/
def compatOk (old v : Word) : Bool := decide (v.toNat < 4) && v.getLsbD 0 == old.getLsbD 0

/-- The register values that the CRS field of a block holds, in its order (R127). -/
def Ctl.crs (c : Ctl) : List Word := [c.frm, c.fflags, c.sbchk, c.idemchk, c.compat, c.epc, c.cause, c.tval]

/-- Control registers with the eight CRS values. -/
def Ctl.withCrs (c : Ctl) (v : List Word) : Ctl :=
  { c with frm := v.getD 0 0, fflags := v.getD 1 0, sbchk := v.getD 2 0, idemchk := v.getD 3 0, compat := v.getD 4 0,
           epc := v.getD 5 0, cause := v.getD 6 0, tval := v.getD 7 0 }

/-- Value number `i` of a CRS field is one that a CRW would refuse (R128). -/
def crsBad (old : Ctl) (i : Nat) (v : Word) : Bool :=
  match i with
  | 0 => !frmOk v
  | 1 => !fflagsOk v
  | 2 => !bit0Ok v
  | 3 => !bit0Ok v
  | 4 => !compatOk old.compat v
  | 5 => !epcOk v
  | 6 => !causeOk v
  | _ => false

/-! ## Generators in a block (R264) -/

/-- The third doubleword of a generator's field. -/
def Gen.ctlWord (g : Gen) : Word :=
  BitVec.ofNat 64 (g.count.toNat + g.sz.toNat * 2 ^ 32 + (if g.write then 2 ^ 35 else 0) + (if g.bound then 2 ^ 36 else 0) +
    g.reg.toNat * 2 ^ 37)

/-- A generator read from its field. -/
def Gen.ofWords (a st ct : Word) : Gen :=
  { addr := a.setWidth 53, stride := st, reg := ct.extractLsb' 37 5, bound := ct.getLsbD 36, write := ct.getLsbD 35,
    sz := ct.extractLsb' 32 3, count := ct.setWidth 32 }

/-- Offsets within a block of the doublewords of a generator field that R264 refuses. -/
def genBad (m : Memory) (o i : Nat) : List Nat :=
  let b := 0x20 + 32 * i
  let ct := m.word (o + b + 16)
  let g := Gen.ofWords (m.word (o + b)) (m.word (o + b + 8)) ct
  let others := [0, 1, 2, 3].filter (fun j => j < i)
  let clash := g.bound && others.any (fun j =>
    let h := Gen.ofWords 0 0 (m.word (o + 0x20 + 32 * j + 16))
    h.bound && h.reg == g.reg)
  (if fieldNat (m.word (o + b)) 53 11 ≠ 0 then [b] else []) ++
  (if fieldNat ct 42 22 ≠ 0 ∨ g.sz = 4 ∨ (g.write ∧ 5 ≤ g.sz.toNat) ∨ (g.bound ∧ g.reg.toNat < 16) ∨ clash then [b + 16] else []) ++
  (if m.word (o + b + 24) ≠ 0 then [b + 24] else [])

/-! ## Blocks -/

/-- The saved predicates: p7-p1, bit 0 reading 1 (R127). -/
def predWord (p : BitVec 8) : Word := (p ||| 1).setWidth 64

/-- A block written with the core's state, a PC and the region's entry (R127, R128). The table of R127 has no row for bytes 0x0C4 to 0x0C7,
and the model neither writes nor reads them (DESIGN CHOICE, log entry 128). -/
def Core.saveBlock (c : Core) (o : Nat) (pc ient : BitVec 53) (imask : BitVec 32) (ipc : Nat) : Core :=
  let m := c.arr
  let m := m.setWord o c.cr.wp
  let m := m.setWord (o + 8) (pc.setWidth 64)
  let m := m.setWord (o + 0x10) (predWord c.preds)
  let m := m.setWord (o + 0x18) (BitVec.ofNat 64 (c.req + c.grant * 2 ^ 16))
  let m := [0, 1, 2, 3].foldl (fun m i =>
    let g := c.gen i
    let b := o + 0x20 + 32 * i
    (((m.setWord b (g.addr.setWidth 64)).setWord (b + 8) g.stride).setWord (b + 16) g.ctlWord).setWord (b + 24) 0) m
  let m := m.write (o + 0xA0) ((spanOf (tget 0 c.vtags) 0 32))
  let m := m.write (o + 0xC0) (spanOf (tget 0 c.atags) 0 4)
  let m := (c.cr.crs.zipIdx).foldl (fun m e => m.setWord (o + 0xC8 + 8 * e.2) e.1) m
  let m := m.setWord (o + 0x108) (ient.setWidth 64)
  let m := m.setWord (o + 0x110) (BitVec.ofNat 64 (imask.toNat + ipc * 2 ^ 32))
  { c with arr := m }

/-- The lowest offset of a doubleword for which loading the block is refused (R128, R264). -/
def Core.blockBad (c : Core) (o : Nat) : Option Nat :=
  let m := c.arr
  let bad := (if wpOk (BitVec.ofNat 64 (fieldNat (m.word o) 8 7 * 256)) then [] else [0]) ++
    ([0, 1, 2, 3].flatMap (genBad m o)) ++
    ((spanOf (fun i => if crsBad c.cr i (m.word (o + 0xC8 + 8 * i)) then [0xC8 + 8 * i] else []) 0 8).flatten)
  bad.head?

/-- The tags of a0-a3 in a block, which only an issuer core has (R127). -/
def Memory.atagsAt (m : Memory) (k o : Nat) : Tbl (BitVec 8) := if isIssuer k then spanOf (fun i => (i, m.byte (o + 0xC0 + i))) 0 4 else []

/-- Every field of a block loaded into core `k` but the PC, which is returned (R128). The lane grant and the vector registers stay
with the core. -/
def Core.loadBlock (c : Core) (k o : Nat) : Core × BitVec 53 :=
  let m := c.arr
  let gens : Tbl Gen := [0, 1, 2, 3].map fun i =>
    let b := o + 0x20 + 32 * i
    (i, Gen.ofWords (m.word b) (m.word (b + 8)) (m.word (b + 16)))
  let im := m.word (o + 0x110)
  ({ c with
      cr := { (c.cr.withCrs (spanOf (fun i => m.word (o + 0xC8 + 8 * i)) 0 8)) with
        wp := BitVec.ofNat 64 (fieldNat (m.word o) 8 7 * 256) }
      preds := (m.word (o + 0x10)).setWidth 8
      req := fieldNat (m.word (o + 0x18)) 0 9
      gens := gens
      ahead := []
      vtags := spanOf (fun i => (i, m.byte (o + 0xA0 + i))) 0 32
      atags := m.atagsAt k o
      ient := ((m.word (o + 0x108)).setWidth 53) &&& ~~~1
      imask := im.setWidth 32
      ipc := fieldNat im 32 7 },
   ((m.word (o + 8)).setWidth 53) &&& ~~~1)

/-- What the device keeps at the entry of an idempotent region (R381). -/
def Core.entryNow (c : Core) : Entry := { preds := c.preds, gens := c.gens, ctl := c.cr }

/-- A region opened at a PC with a live-in mask (R217, R218, R380). -/
def Core.openRegion (c : Core) (pc : BitVec 53) (mask : BitVec 32) : Core :=
  { c with ient := pc, imask := mask &&& ~~~1, ipc := c.pcnt, entry := c.entryNow, noDiscard := false, waitOpen := false, empty := true }

/-- A boundary other than IDEM: every register is live-in (R218). -/
def Core.boundary (c : Core) (pc : BitVec 53) : Core := { c.openRegion pc (BitVec.allOnes 32) with passed := true }

/-- The open region is discarded: predicates, generators and control registers return to the entry's, but raised flags
stay; PCNT and the PC return too (R381, R211). -/
def Core.discardRegion (c : Core) : Core :=
  { c with preds := c.entry.preds, gens := c.entry.gens, ahead := [],
           cr := { c.entry.ctl with wp := c.cr.wp, ctx := c.cr.ctx, fflags := c.entry.ctl.fflags ||| c.cr.fflags },
           pcnt := c.ipc, pc := c.ient, pend := [], vpend := [], empty := true }

/-! ## The undo header (R224) -/

/-- UCNT of the undo header. -/
def Core.ucnt (c : Core) : Nat := fieldNat (c.arr.word 0x1800) 0 9

/-- OPEN of the undo header. -/
def Core.opened (c : Core) : Bool := (c.arr.word 0x1800).getLsbD 9

/-- The undo header with another OPEN and UCNT. -/
def Core.setUndo (c : Core) (op : Bool) (n : Nat) : Core :=
  { c with arr := c.arr.setWord 0x1800 (BitVec.ofNat 64 (n + if op then 512 else 0)) }

/-- The address that an undo routine returns to (R226). -/
def undoReturn : BitVec 53 := 0x1FFFFFFF001800

/-- The call of the top undo entry (R226): w3, w4, w5, lr and the PC. -/
def Core.callUndo (c : Core) : Core :=
  let b := 0x1800 + 32 * c.ucnt
  let e := c.arr.word b
  let c := (((c.setReg 3 (c.arr.word (b + 8))).setReg 4 (c.arr.word (b + 16))).setReg 5 (BitVec.ofNat 64 (fieldNat e 53 6))).setReg 1
    (undoReturn.setWidth 64)
  { c with pc := e.setWidth 53 &&& ~~~1, undo := true, pend := [], vpend := [] }

end Sys2Proof.Machine
end

