-- ==== Sys2Proof/Machine/Fire.lean ====
section
/-! DEFINITION. What ends a firing and what faults a region: release of tiles, withdrawal of offers, aborts with their undo
stacks, kills, step repetition, the end of a compatibility thread (spec/04 R68 to R73; spec/06 R109, R116; spec/11 R209,
R216, R226; spec/19 R385; spec/20 R392, R399). -/

namespace Sys2Proof.Machine

/-! ## Rule records (R54) -/

/-- Word `i` of a rule record. -/
def ruleWord (r : List Word) (i : Nat) : Word := r.getD i 0
/-- ARITY. -/
def ruleArity (r : List Word) : Nat := fieldNat (ruleWord r 0) 0 3
/-- CLASS: 0 PLAIN, 1 MATRIX, 2 BOOSTED, 3 GANG. -/
def ruleClass (r : List Word) : Nat := fieldNat (ruleWord r 0) 3 2
/-- PRIO. -/
def rulePrio (r : List Word) : Nat := fieldNat (ruleWord r 0) 5 3
/-- GWID. -/
def ruleGwid (r : List Word) : Nat := fieldNat (ruleWord r 0) 8 4
/-- AFF. -/
def ruleAff (r : List Word) : Nat := fieldNat (ruleWord r 0) 12 2
/-- DISTINCT. -/
def ruleDistinct (r : List Word) : Bool := (ruleWord r 0).getLsbD 14
/-- SEL of a slot. -/
def ruleSel (r : List Word) (s : Nat) : Nat := fieldNat (ruleWord r 0) (16 + 2 * s) 2
/-- KIND of a slot. -/
def ruleKind (r : List Word) (s : Nat) : Nat := fieldNat (ruleWord r 1) (16 * s) 16
/-- Guard term `i`. -/
def ruleGuard (r : List Word) (i : Nat) : Word := BitVec.ofNat 64 (fieldNat (ruleWord r (2 + i / 2)) (32 * (i % 2)) 32)
/-- ENTRY. -/
def ruleEntry (r : List Word) : Nat := fieldNat (ruleWord r 4) 0 53
/-- ENTRY2. -/
def ruleEntry2 (r : List Word) : Nat := fieldNat (ruleWord r 5) 0 53

/-- The rule record of a firing. -/
def Region.rule (g : Region) (i : Nat) : List Word := g.eff.rules.getD i []

/-- The class of a firing's rule. -/
def State.classOf (s : State) (f : Firing) : Nat :=
  match s.region? f.region with | some g => ruleClass (g.rule f.rule) | none => 0

/-! ## Slices (R97 to R99, R400) -/

/-- The logical slice of a placement value (R97). -/
def lsliceOf (v : Word) : Nat := v.toNat * 0x9E3779B97F4A7C15 % 2 ^ 64 / 2 ^ 52

/-- The entry of a slice map (R98, R99). -/
def State.mapEntry (s : State) (m l : Nat) : Nat :=
  (tfind s.maps (m * 4096 + l)).getD ((s.bay0 + l % s.bays) * 128 + l / s.bays % 128)

/-- The physical slice of a region's logical slice; copy 1 of a paired region lies in bay BAY XOR 1 (R400). -/
def State.sliceOf (s : State) (g : Region) (copy l : Nat) : Nat :=
  s.mapEntry g.eff.smap l ^^^ (if copy = 1 then 128 else 0)

/-- A region's dirty bit at a slice is set (R392). -/
def Region.markDirty (g : Region) (sl : Nat) : Region :=
  if g.dirty.contains sl then g else { g with dirty := sl :: g.dirty }

/-- The swept mark of a logical slice is cleared (R105). -/
def Region.unsweep (g : Region) (copy l : Nat) : Region := { g with swept := g.swept.filter (· != copy * 4096 + l) }

/-- Descriptors that a sieve holds (R101). -/
def sieveSize : Nat := 16384

/-- The physical slice of a tile. -/
def State.tileSlice (s : State) (t : Tile) : Nat :=
  match s.region? t.region with | some g => s.sliceOf g t.copy t.lslice | none => 0

/-- The sieve of a slice has no free entry. -/
def State.sieveFull (s : State) (sl : Nat) : Bool :=
  decide (sieveSize ≤ (s.tiles.filter fun t => !t.overflow && s.tileSlice t == sl).length)

/-- Tiles released: visible again from the next cycle on, with their ages unchanged (R109, R110); the slice's dirty bit is set (R392). -/
def State.releaseTiles (s : State) (r copy l : Nat) (ids : List Nat) : State :=
  let s := { s with tiles := s.tiles.map fun t => if ids.contains t.id then { t with held := false, from_ := s.clock + 1 } else t }
  match s.region? r with
  | none => s
  | some g => s.modRegion r fun x => (x.markDirty (s.sliceOf g copy l)).unsweep copy l

/-! ## Ends of a firing -/

/-- A core left without work: no lane grant, no packet, no request (R190, R216, R271). -/
def Core.goIdle (c : Core) : Core :=
  { c with run := .idle, req := 0, grant := 0, packet := none, qwait := none, ahead := [], mtx := false, packetStop := none, preempt := false,
           stopped := false, budget := none, resumeNote := false, mchk := none, sfuLost := [], undo := false, committing := false, waitRecord := none,
           waitVa := 0, deliver := false, waitFrom := none, waitOver := false, poisonAt := none, pend := [], vpend := [], noDiscard := false,
           waitOpen := false, empty := true, hide := [], bmask := 0, chans := [] }

/-- The queues that a core's packet holds open are closed (R271). -/
def State.closePacket (s : State) (k : Nat) : State :=
  match (s.core k).packet with
  | none => s
  | some (d, _) =>
    let cl := fieldNat d 8 8
    let q := fieldNat d 0 4
    let s := s.modCluster cl fun x =>
      let f := tget { words := [], holder := none } x.fifos q
      if f.holder = some k then { x with fifos := tset x.fifos q { f with holder := none } } else x
    s.modCore k fun c => { c with packet := none, packetStop := none }

/-- A packet whose first word still waits is gone: its QSEND has not been performed (R270, R271). -/
def State.unopen (s : State) (k : Nat) : State :=
  match (s.core k).packet with
  | some (_, 0) => s.closePacket k
  | _ => s

/-- SFU requests of a core that have not reached the head of the queue are dropped (R189). -/
def State.dropSfu (s : State) (k : Nat) : State :=
  s.modCluster (clusterOf k) fun x => { x with sfu := x.sfu.take 1 ++ (x.sfu.drop 1).filter (fun r => r.core != k) }

/-- Bank requests of a core are withdrawn. -/
def State.dropBankReqs (s : State) (k : Nat) : State :=
  s.modCluster (clusterOf k) fun x => { x with bankReqs := x.bankReqs.filter (fun r => r.core != k) }

/-! ## Local ranges of commands (R305) -/

/-- A byte range of a local window that a command reads or writes (R305); the scratchpad is the issuing core's own. -/
structure LocalRange where
  core : Nat
  lo : Nat
  n : Nat
  write : Bool
  deriving DecidableEq, Repr

/-- What of a range of addresses lies in the local windows, above which the addresses begin again from 0. -/
def localRange (core va n : Nat) (write : Bool) : List LocalRange :=
  let a := va % vaSpace
  let piece (lo hi : Nat) : List LocalRange := if lo < hi then [{ core := core, lo := lo, n := hi - lo, write := write }] else []
  piece (max a windowBase) (min (a + n) vaSpace) ++ piece windowBase (min (a + n - vaSpace) vaSpace)

/-- Two local ranges share a byte: one of the banks or panels, or of one scratchpad. No engine reaches a system area. -/
def LocalRange.meets (a b : LocalRange) : Bool :=
  let lo := max a.lo b.lo
  let hi := min (a.lo + a.n) (b.lo + b.n)
  decide (lo < hi) && (decide (lo < sysWindow) || (a.core == b.core && decide (padWindow < hi)))

/-- A command names a span of addresses of a window. -/
def namesSpan (rs : List LocalRange) (core lo n : Nat) : Bool := rs.any fun r => r.meets { core := core, lo := lo, n := n, write := true }

/-- Index size in bytes of a control word of GATH or SCAT (R309). -/
def gathIsz (ctl : Word) : Nat := if fieldNat ctl 28 2 < 2 then 4 else 8
/-- Element size in bytes. -/
def gathEsz (ctl : Word) : Nat := 2 ^ fieldNat ctl 24 3
/-- COUNT. -/
def gathCount (ctl : Word) : Nat := fieldNat ctl 0 24
/-- Chunks per row of GATH.cb (R310). -/
def gathChunks (ctl : Word) : Nat := (fieldNat ctl 48 16 + 127) / 128

/-- The value of an index of a control word (R309). -/
def gathSigned (ctl : Word) (v : Nat) : Int :=
  if fieldNat ctl 28 1 = 1 ∧ 2 ^ (8 * gathIsz ctl - 1) ≤ v then (v : Int) - 2 ^ (8 * gathIsz ctl) else v

/-- An address offset modulo 2^53. -/
def vaInt (x : Int) : Nat := (x % (vaSpace : Nat)).toNat

/-- What of the local windows an index not known yet may lead to from a base, `z` bytes apart, and `more` bytes on. -/
def reachRange (core base z more : Nat) (ctl : Word) (write : Bool) : List LocalRange :=
  match fieldNat ctl 28 2 with
  | 0 => localRange core base (2 ^ 32 * z + more) write
  | 1 => localRange core (base % vaSpace + 64 * vaSpace - 2 ^ 31 * z) (2 ^ 32 * z + more) write
  | _ => localRange core windowBase (vaSpace - windowBase) write

/-- The byte of a local window at an address, as an engine finds it for core `k` of a cluster. -/
def State.localByte (s : State) (x : Cluster) (k va : Nat) : Option Byte :=
  if padWindow ≤ va ∧ va < padWindow + (s.core k).spN * 0x4000 then some ((s.core k).arr.byte (va - sysWindow))
  else if bankWindow ≤ va ∧ va < bankWindow + 0x800000 then
    (if x.mode ((va - bankWindow) / 0x20000) = .scratchpad then some (x.bankMem.byte (va - bankWindow)) else none)
  else if windowBase ≤ va ∧ va < windowBase + 0x4000000 then some (x.store.byte (va - windowBase))
  else none

/-- The number that `n` bytes of the local windows hold; none where they do not all lie there. -/
def State.localNat (s : State) (x : Cluster) (k va n : Nat) : Option Nat :=
  let bs := spanOf (fun i => s.localByte x k ((va + i) % vaSpace)) 0 n
  if bs.all (·.isSome) then some (leNat (bs.map (·.getD 0))) else none

/-- Operand word `i` of a command. -/
def EngCmd.operand (c : EngCmd) (i : Nat) : Word := c.ops.getD i 0

/-- The range of a command's index list. -/
def EngCmd.indexRange (c : EngCmd) : List LocalRange :=
  localRange c.who.core (vaOf (c.operand 0)) (gathCount (c.operand 2) * gathIsz (c.operand 2)) false

/-- The indexes of a command, as the index list holds them. -/
def State.indexes (s : State) (x : Cluster) (c : EngCmd) : List Int :=
  let ctl := c.operand 2
  (spanOf (fun i => s.localNat x c.who.core (vaOf (c.operand 0) + i * gathIsz ctl) (gathIsz ctl)) 0 (gathCount ctl)).filterMap
    fun v => v.map (gathSigned ctl)

/-- What GATH reads or SCAT writes through its indexes; `sure` says of ranges that no earlier command is still to write them. -/
def State.elemRanges (s : State) (x : Cluster) (c : EngCmd) (sure : List LocalRange → Bool) (write : Bool) : List LocalRange :=
  let ctl := c.operand 2
  let z := gathEsz ctl
  if sure c.indexRange then
    (s.indexes x c).flatMap fun i => localRange c.who.core (vaInt ((c.operand 1).toNat + i * z)) z write
  else reachRange c.who.core (vaOf (c.operand 1)) z 0 ctl write

/-- What GATH.cb reads through its indexes (R310): the words of a row's table, and the chunk that each names. -/
def State.chunkRanges (s : State) (x : Cluster) (c : EngCmd) (sure : List LocalRange → Bool) : List LocalRange :=
  let ctl := c.operand 2
  let k := c.who.core
  let n := gathChunks ctl
  let base := (c.operand 1).toNat
  let len := 16 + 128 * gathEsz ctl
  let one (ta : Nat) : List LocalRange :=
    let w := localRange k ta 4 false
    w ++ match (if sure w then s.localNat x k ta 4 else none) with
      | some v => if v = 0xFFFFFFFF then [] else localRange k (base + 16 * v) len false
      | none => localRange k base (2 ^ 36 + len) false
  if sure c.indexRange then
    (s.indexes x c).flatMap fun i => (spanOf id 0 n).flatMap fun h => one (vaInt (base + (i * n + h) * 4))
  else reachRange k (vaOf (c.operand 1)) (4 * n) (2 ^ 36 + len) ctl false

/-- The first eight words of a merge context of a cluster (R311). -/
def Cluster.ctxWords (x : Cluster) (va : Nat) : List Word :=
  match x.merge.filter (fun m => m.va == va) with
  | some m => m.words
  | none => spanOf (fun i => x.bankMem.word (va - bankWindow + 8 * i)) 0 8

/-- The local ranges of a command of the merge network (R312 to R315): its context, which lies in a cluster bank, and as its fields have them
the spill area, and at a close the output and its table. -/
def Cluster.mergeRanges (x : Cluster) (c : EngCmd) : List LocalRange :=
  let k := c.who.core
  let va := vaOf (c.operand 0)
  let w := x.ctxWords va
  let f (i lo n : Nat) : Nat := fieldNat (w.getD i 0) lo n
  let spill (write : Bool) := localRange k (f 1 0 53) (f 2 0 40) write
  if va < bankWindow ∨ bankWindow + 0x800000 ≤ va then [] else
  localRange k va 256 true ++ match c.op with
    | 4 => []
    | 5 => localRange k (vaOf (c.operand 1)) (16 * fieldNat (c.operand 2) 0 24) false ++ spill true
    | _ => spill false ++ localRange k (f 4 0 53) (f 5 0 40) true ++
        localRange k (f 6 0 53) (4 * f 3 0 16 * ((f 3 16 16 + 127) / 128)) true

/-- The local ranges of a command (R305), as far as they are known: an index or table word in local memory leads where it says, once no
earlier command is still to write it; until then, and from elsewhere, it leads as far as its size reaches (DESIGN CHOICE, log entry 125). -/
def State.cmdRanges (s : State) (x : Cluster) (c : EngCmd) (sure : List LocalRange → Bool) : List LocalRange :=
  let k := c.who.core
  let a (i : Nat) : Nat := vaOf (c.operand i)
  let ctl := c.operand 2
  let packed (write : Bool) := localRange k (a 3) (gathCount ctl * gathEsz ctl) write
  match c.op with
  | 0 => localRange k (a 0) ctl.toNat false ++ localRange k (a 1) ctl.toNat true
  | 1 => c.indexRange ++ packed true ++ s.elemRanges x c sure false
  | 2 => c.indexRange ++ s.chunkRanges x c sure ++
      localRange k (a 3) (16 + gathCount ctl * gathChunks ctl * (20 + 128 * gathEsz ctl)) true
  | 3 => c.indexRange ++ packed false ++ s.elemRanges x c sure true
  | _ => x.mergeRanges c

/-- Bits of an element of a format tag in a cell or a panel (R276). -/
def matBits (t : Nat) : Nat := match t with | 0x10 => 4 | 0x11 => 8 | 0x12 => 8 | 0x13 => 16 | 0x14 => 32 | _ => 64

/-- Units of a panel (R249). -/
def panelUnits (fmt kb : Nat) : Nat := (kb * matBits fmt + 31) / 32 + if fmt = 0x12 then 1 else 0

/-- Offset in the panel window of byte `b` of a unit of column slice `j` of a cell (R251). -/
def panelOff (ce j unit b : Nat) : Nat := ce * 0x1000000 + j * 0x20000 + unit * 0x200 + b

/-- The local ranges of a staging command: ASTAGE reads 128 rows; PLOAD reads its panel and scale row, and writes its units of each column
slice of the cell (R251, R280, R281). -/
def CellCmd.ranges (c : CellCmd) : List LocalRange :=
  let va := vaOf (c.ops.getD 0 0)
  let w := c.ops.getD 1 0
  let k := c.who.core
  let fmt := fieldNat w 28 8
  let kb := fieldNat w 16 12
  match c.op with
  | 0 => (spanOf id 0 128).flatMap fun i => localRange k (va + i * fieldNat w 32 20) (fieldNat w 24 8 * 16 * matBits (fieldNat w 16 8)) false
  | 1 => localRange k va (kb * 2048 * matBits fmt + if fmt = 0x12 then 256 else 0) false ++
      (spanOf id 0 128).flatMap fun j =>
        localRange k (windowBase + panelOff (fieldNat w 6 2) j (fieldNat w 8 8) 0) (panelUnits fmt kb * 0x200) true
  | _ => []

/-- Engine commands of a cluster that have not completed. -/
def Cluster.commands (c : Cluster) : List EngCmd := c.copyQ ++ c.indQ ++ c.mergeQ

/-- The local ranges of a cluster's engine commands that have not completed, in their order of arrival, each with its number in it. -/
def State.engRanges (s : State) (x : Cluster) : List (Nat × List LocalRange) :=
  (sortBy (fun a b => decide (a.at_ < b.at_)) x.commands).foldl (fun (rs : List (Nat × List LocalRange)) (c : EngCmd) =>
    let sure (r : List LocalRange) : Bool := !(rs.any fun e => e.2.any fun a => a.write && r.any a.meets)
    rs ++ [(c.at_, s.cmdRanges x c sure)]) []

/-- The local ranges of a cluster's commands that have not completed, with their order of arrival. -/
def State.rangesOf (s : State) (x : Cluster) : List (Nat × List LocalRange) :=
  s.engRanges x ++ x.cells.flatMap fun e => e.2.staging.map fun q => (q.at_, q.ranges)

/-- Those of cluster `cl`. -/
def State.rangesAt (s : State) (cl : Nat) : List (Nat × List LocalRange) := s.rangesOf (s.cluster cl)

/-- Some command of a cluster that arrived before `n` has a local range that meets one of `rs`, and either writes it (R305). -/
def State.heldBy (s : State) (cl n : Nat) (rs : List LocalRange) : Bool :=
  (s.rangesAt cl).any fun e => decide (e.1 < n) && e.2.any fun a => rs.any fun b => a.meets b && (a.write || b.write)

/-- The command of arrival `n` is held by an earlier one (R305). -/
def State.cmdHeld (s : State) (cl n : Nat) : Bool :=
  s.heldBy cl n (((s.rangesAt cl).filter fun e => e.1 == n).flatMap (·.2))

/-- A cluster as it was saved. -/
def SavedCluster.asCluster (x : SavedCluster) : Cluster :=
  { Cluster.init with modes := x.modes, bankMem := x.bankMem, merge := x.merge, copyQ := x.copyQ, indQ := x.indQ, mergeQ := x.mergeQ }

/-- A command of a cluster names the scratchpad of core `k`, there or as that of a firing saved from it (R317). -/
def State.padNamed (s : State) (x : Cluster) (k : Nat) : Bool :=
  (s.rangesOf x).any fun e => e.2.any fun r => r.core % 0x10000 == k && decide (padWindow < r.lo + r.n)

/-! ## Free units (R113, R114) -/

/-- A core has SFU requests that have not written (R189). -/
def State.sfuBusy (s : State) (k : Nat) : Bool := (s.cluster (clusterOf k)).sfu.any (fun r => r.core == k)

/-- A command that stays queued for its function's return names the scratchpad of core `k` (R317, R318). -/
def State.offCommands (s : State) (cl k : Nat) : Bool :=
  s.funcs.any fun f => f.2.saved.any fun x => x.cluster == cl && s.padNamed x.asCluster k

/-- A core that no work, no SFU request and no command that names its scratchpad holds (R189, R317). -/
def State.coreFree (s : State) (k : Nat) : Bool :=
  (s.core k).run == .idle && !s.sfuBusy k && !s.offCommands (clusterOf k) k && !s.padNamed (s.cluster (clusterOf k)) k

/-- Free general cores of a cluster, lowest first. -/
def State.freeCores (s : State) (cl : Nat) : List Nat := (spanOf id (cl * 16) 8).filter s.coreFree

/-- Free cells of a cluster, lowest first: both cores free, nothing queued, not claimed, not held off (R114, R288). -/
def State.freeCells (s : State) (cl : Nat) : List Nat :=
  [0, 1, 2, 3].filter fun ce =>
    let c := s.cell cl ce
    s.coreFree (cl * 16 + 8 + ce) && s.coreFree (cl * 16 + 12 + ce) && c.staging.isEmpty && c.matrix.isEmpty && c.claim.isNone && c.holdoff.isNone

/-- Groups of offers. -/
def groupCount (os : List Offer) : Nat := (os.map fun (o : Offer) => o.groups.length).foldl (· + ·) 0

/-- The offer's rule is of class MATRIX. -/
def State.offerMatrix (s : State) (o : Offer) : Bool :=
  match s.region? o.region with | some g => ruleClass (g.rule o.rule) == 1 | none => false

/-- Units of a cluster to spare: cells, or general cores, beyond those of offers that it has accepted. -/
def State.spare (s : State) (cl : Nat) (matrix : Bool) : Nat :=
  (if matrix then (s.freeCells cl).length else (s.freeCores cl).length) -
    groupCount (s.offers.filter fun x => x.cluster == some cl && s.offerMatrix x == matrix)

/-- A unit of a cluster is about to become free or taken (R113). -/
def State.noteUnit (s : State) (cl : Nat) : State :=
  let e := (s.clock, s.spare cl false, s.spare cl true)
  s.modCluster cl fun x => { x with was := e :: x.was.filter fun y => decide (s.clock < y.1 + 16) }

/-- A command or request of core `k` ends in a cluster: where the core is idle, its unit may become free by that (R113). -/
def State.noteIdle (s : State) (cl k : Nat) : State := if (s.core k).run == .idle then s.noteUnit cl else s

/-- An offer withdrawn: its tiles are released (R116). -/
def State.withdraw (s : State) (o : Offer) : State :=
  let s := match o.cluster with | some cl => s.noteUnit cl | none => s
  let s := { s with offers := s.offers.filter (fun x => x.id != o.id) }
  o.groups.foldl (fun s g => s.releaseTiles o.region o.copy o.lslice g.tiles) s

/-- Every undispatched offer of a region is withdrawn (R116). -/
def State.withdrawRegion (s : State) (r : Nat) : State :=
  (s.offers.filter (fun o => o.region == r)).foldl State.withdraw s

/-- Some engine command, in a queue or kept there for its function's return, names the core. -/
def State.namesCore (s : State) (k : Nat) : Bool :=
  let eng (qs : List EngCmd) : Bool := qs.any fun c => c.who.core == k
  s.clusters.any (fun e => eng (e.2.copyQ ++ e.2.indQ ++ e.2.mergeQ) || e.2.cells.any fun c => c.2.staging.any fun q => q.who.core == k) ||
    s.funcs.any fun f => f.2.saved.any fun x => eng (x.copyQ ++ x.indQ ++ x.mergeQ)

/-- Engine commands that core `k` has issued are those of a firing or thread that has ended there (R303, R317). -/
def State.endCommands (s : State) (k : Nat) : State :=
  let one (c : EngCmd) : EngCmd := if c.who.core = k then { c with who := { c.who with ended := true } } else c
  s.modCluster (clusterOf k) fun x => { x with copyQ := x.copyQ.map one, indQ := x.indQ.map one, mergeQ := x.mergeQ.map one }

/-- A core becomes idle. A saved core is gone, once no command names its scratchpad any more (R317). -/
def State.idleCore (s : State) (k : Nat) : State :=
  if isSaved k then
    let s := s.modCluster (clusterOf k) fun x => { x with sfu := x.sfu.filter (fun r => r.core != k) }
    if s.namesCore k then s.modCore k Core.goIdle else { s with cores := tdel s.cores k }
  else (((((s.noteUnit (clusterOf k)).closePacket k).dropSfu k).dropBankReqs k).endCommands k).modCore k Core.goIdle

/-- What is left of a saved core whose firing is gone goes, once no command names its scratchpad any more (R317). -/
def State.dropGhost (s : State) (k : Nat) : State :=
  if isSaved k && (s.core k).run == .idle && !s.namesCore k then { s with cores := tdel s.cores k } else s

/-- A cell without the commands, the parked product and the claim of a firing; a PLOAD or
a resumed product in progress finishes (R297). -/
def Cell.clear (c : Cell) (f : Nat) : Cell :=
  let mine (q : CellCmd) : Bool := q.who.firing == some f
  let gone := match c.parked with | some q => mine q | none => false
  { c with staging := c.staging.filter (fun q => !mine q || (q.op == 1 && q.done == 1)), matrix := c.matrix.filter (fun q => !mine q || q.begun),
           parked := if gone then none else c.parked, reloading := if gone then none else c.reloading,
           claim := if c.claim = some f then none else c.claim }

/-- Nothing of a firing remains in the queues of any cell, and its claim is released (R297). -/
def State.clearCells (s : State) (f : Nat) : State :=
  { s with clusters := s.clusters.map fun e => (e.1, { e.2 with cells := e.2.cells.map fun c => (c.1, c.2.clear f) }) }

/-- A firing leaves flight without effect on the pool: its inputs are released, its conflict entries go, its cores become
idle (R209, R216). -/
def State.dropFiring (s : State) (f : Firing) : State :=
  let s := { s with firings := s.firings.filter (fun x => x.id != f.id),
                    filters := s.filters.filter (fun e => e.holder != f.id) }
  let s := (f.cores.foldl State.idleCore s).clearCells f.id
  s.releaseTiles f.region f.copy f.lslice f.tiles

/-- A kept firing has an open section, or undo entries still to be run: one that the checker moved, as a pre-emption keeps none (R227, R396).
It ends on the core on which it resumes, as it would have ended where it ran (R223, R226). -/
def State.undoPending (s : State) (f : Firing) : Bool :=
  s.classOf f == 2 && f.cores.any fun k => (s.core k).opened || decide (0 < (s.core k).ucnt)

/-- A kept firing ends at once. A BOOSTED one releases its stores at the region's scope before its conflict entries go (R226, R366). -/
def State.endKept (s : State) (f : Firing) : State :=
  (if s.classOf f = 2 then s.release (f.cores.headD 0) s.regionScope else s).dropFiring f

/-- The undo stack of a firing on core `k` has ended: a release at the region's scope, then the inputs return (R226). -/
def State.undoEnded (s : State) (k : Nat) : State :=
  match s.firingOf k with
  | none => s.modCore k fun c => { c with undo := false }
  | some f => (s.release k s.regionScope).dropFiring f

/-- The top undo entry is called (R226). A result of the SFU that is still to come for a register that the call writes is an older one and
does not reach it (R132, R189). -/
def State.callUndo (s : State) (k : Nat) : State :=
  let c := s.core k
  let offs := [1, 3, 4, 5].map c.regOff
  let stale (r : SfuReq) : SfuReq :=
    if r.core = k && (match r.dest with | some d => offs.contains d | none => false) then { r with dest := none } else r
  (s.modCluster (clusterOf k) fun x => { x with sfu := x.sfu.map stale }).setCore k c.callUndo

/-- The context of the firing that a handler has interrupted, current again. -/
def Core.leaveHandler (c : Core) (k : Nat) : Core :=
  if c.inHandler then
    let h := (c.loadBlock k (c.outerCtx.toNat % 0x8000)).1
    { h with cr := { h.cr with ctx := c.outerCtx } }
  else c

/-- A firing is aborted on core `k` (R216): what it has asked of the SFU is dropped (R189); a BOOSTED firing runs its undo entries first, in
the firing's context, and releases its conflict entries at the region's scope (R226); every other firing ends at once. -/
def State.abortFiring (s : State) (k : Nat) (f : Firing) : State :=
  let s := s.dropSfu k
  let c := s.core k
  if s.classOf f = 2 ∧ c.undo = false then
    if c.ucnt = 0 then (s.release k s.regionScope).dropFiring f
    else
      let c := c.leaveHandler k
      (s.setCore k { (c.setUndo false c.ucnt) with
        pcnt := 0, mchk := none, sfuLost := [], poisonAt := none, waitRecord := none, deliver := false, waitFrom := none, waitOver := false }).callUndo k
  else s.dropFiring f

/-! ## Interrupts and lost writes -/

/-- An MSI-X vector of a function is raised (R442). -/
def State.raise (s : State) (f v : Nat) : State := { s with irqs := (f, v) :: s.irqs }

/-- Room in a ring of 2^LOG records (R443). -/
def ringRoom (base : Word) (head tail : Nat) : Bool := decide ((head + 2 ^ 32 - tail) % 2 ^ 32 < 2 ^ fieldNat base 0 4)

/-- A notice written into its function's ring, or held while the ring has no room, and the region that raised it waits with it (R443,
R446). -/
def State.postNotice (s : State) (f : Nat) (n : Word × Word) (by_ : Option Nat) : State :=
  let x := s.func f
  if ringRoom x.nbase x.nhead x.ntail then
    let a := fieldNat x.nbase 13 33 * 2 ^ 13 + 16 * (x.nhead % 2 ^ fieldNat x.nbase 0 4)
    let s := s.homePut (physPlace a) (leBytes 8 n.1.toNat ++ leBytes 8 n.2.toNat)
    (s.modFunc f fun y => { y with nhead := (y.nhead + 1) % 2 ^ 32 }).raise f x.fvec
  else s.modFunc f fun y => { y with noticesHeld := y.noticesHeld ++ [(n.1, n.2, by_)] }

/-- A region waits for room in the notice ring (R443). -/
def State.noticeWaits (s : State) (r : Nat) : Bool := s.funcs.any fun f => f.2.noticesHeld.any fun n => n.2.2 == some r

/-- A doubleword that the device stores for a function and process; a failing store is lost and noticed (R454). -/
def State.devStore8 (s : State) (f p va : Nat) (v : Word) (by_ : Option Nat) : State :=
  match s.devWrite (f * 256 + p) va (leBytes 8 v.toNat) with
  | (s, none) => s
  | (s, some _) => s.postNotice f (BitVec.ofNat 64 (va % vaSpace), 3) by_

/-! ## Region faults and kills -/

/-- The DETAIL doubleword of R61. -/
def detailWord (reason rule slot extra : Nat) : Word :=
  BitVec.ofNat 64 (reason % 256 + rule % 2 ^ 16 * 2 ^ 8 + slot % 16 * 2 ^ 24 + extra % 2 ^ 32 * 2 ^ 32)

/-- The STATUS doubleword of R63. -/
def Region.statusWord (g : Region) (bwhich cstat state : Nat) : Word :=
  BitVec.ofNat 64 (state + cstat * 16 + bwhich * 256 + (if g.orphan then 2 ^ 16 else 0) + g.step * 2 ^ 32)

/-- STATUS of a region that has not completed, as the device keeps it in the RCB (R63, R454). -/
def State.putStatus (s : State) (r : Nat) : State :=
  match s.region? r with
  | none => s
  | some g => s.devStore8 g.func g.proc (g.rcb + 0x80) (g.statusWord 0 0 (if g.state = .active then 1 else 2)) (some r)

/-- An ACTIVE region becomes DRAINING, and its undispatched offers are withdrawn (R68, R116). -/
def State.drain (s : State) (r : Nat) : State :=
  match s.region? r with
  | none => s
  | some g => if g.state = .active then ((s.modRegion r fun x => { x with state := .draining }).putStatus r).withdrawRegion r else s

/-- A region faults: it drains, and DETAIL keeps the first fault (R68, R73). -/
def State.faultRegion (s : State) (r : Nat) (d : Word) : State :=
  let s := s.modRegion r fun g => { g with faulted := true, detail := if g.faulted then g.detail else d }
  s.drain r

/-- Firings of a region that are in flight because the device keeps or runs them, not yet committed. -/
def State.running (s : State) (r : Nat) : List Firing := s.firings.filter (fun f => f.region == r && !f.retired)

/-- A budget is exhausted: the region drains, and its running firings owe BUDGET where the region has a handler (R68,
R372). -/
def State.spendBudget (s : State) (r which : Nat) : State :=
  match s.region? r with
  | none => s
  | some g =>
    let first := g.state == .active
    let s := s.modRegion r fun x => { x with spent := if x.spent.contains which then x.spent else which :: x.spent }
    let s := s.drain r
    if first && g.eff.trap != 0 then
      (s.running r).foldl (fun s f =>
        f.cores.foldl (fun s k => if f.committed.contains k then s else s.modCore k fun c => { c with budget := some which }) s) s
    else s

/-- A region is killed (R72): it drains at once, its running firings are to abort at their next boundary, kept ones are
aborted at once. One whose completion tile is still on its way is KILLED too, and the tile is not delivered (R72, R399). -/
def State.killRegion (s : State) (r : Nat) : State :=
  let s := s.modRegion r fun g =>
    { g with killed := true, held := false, escalated := false, cstat := if g.tileDue then 4 else g.cstat, orphan := g.orphan || g.tileDue }
  let s := s.drain r
  (s.running r).foldl (fun s f =>
    if f.kept && !s.undoPending f then s.endKept f else s.modFiring f.id fun x => { x with doomed := true }) s

/-- The parent of a region, completed ones included. -/
def State.parentOf (s : State) (r : Nat) : Option Nat :=
  match s.region? r with | some g => g.parent | none => tfind s.lineage r

/-- Whether `a` is an ancestor of `r`, looking up at most `fuel` levels. -/
def State.isAncestor (s : State) (a r : Nat) : Nat → Bool
  | 0 => false
  | fuel + 1 =>
    match s.parentOf r with
    | none => false
    | some p => p == a || s.isAncestor a p fuel

/-- The descendants of a region that are ACTIVE or DRAINING. -/
def State.descendants (s : State) (r : Nat) : List Region := s.regions.filter (fun g => s.isAncestor r g.id 64)

/-! ## Firings that a stop keeps (R382, R396) -/

/-- The key under which core `k`, at place `i` of firing `f`, is saved. -/
def savedKey (f i k : Nat) : Nat := (f * 16 + i + 1) * 0x10000 + k % 0x10000

/-- Engine, cell and SFU commands of what core `k` runs belong to core `j` from now on. -/
def State.renameCommands (s : State) (k j : Nat) : State :=
  let who (w : Who) : Who := if w.core = k && !w.ended then { w with core := j } else w
  let eng (c : EngCmd) : EngCmd := { c with who := who c.who }
  let cel (c : CellCmd) : CellCmd := { c with who := who c.who }
  let cell (c : Cell) : Cell := { c with staging := c.staging.map cel, matrix := c.matrix.map cel, parked := c.parked.map cel }
  let sfu (r : SfuReq) : SfuReq := if r.core = k then { r with core := j } else r
  { s with clusters := s.clusters.map fun e => (e.1, { e.2 with
      sfu := e.2.sfu.map sfu
      copyQ := e.2.copyQ.map eng, indQ := e.2.indQ.map eng, mergeQ := e.2.mergeQ.map eng,
      cells := e.2.cells.map fun c => (c.1, cell c.2) }) }

/-- Core `k` saved under key `j`: its system area, scratchpad and contexts go, its cache and TLB stay, and it becomes idle. -/
def State.parkCore (s : State) (k j : Nat) : State :=
  let c := s.core k
  let s := s.setCore j { c with
    l1 := [], uoOld := [], tlb := [], hide := [], ahead := [], qwait := none, preempt := false, packetStop := none, stopped := false,
    waitRecord := none, deliver := false, waitFrom := none, waitOver := false, committing := false }
  (s.renameCommands k j).idleCore k

/-- A firing kept: every core of it is saved. -/
def State.keepFiring (s : State) (f : Firing) : State :=
  let keys := f.cores.zipIdx.map fun e => (e.1, savedKey f.id e.2 e.1)
  let s := keys.foldl (fun s e => s.parkCore e.1 e.2) s
  let new (k : Nat) : Nat := (tfind keys k).getD k
  s.modFiring f.id fun x => { x with kept := true, cores := keys.map (·.2), committed := x.committed.map new }

/-! ## Repeating a step (R399) -/

/-- Cluster memory with another STATE in the merge context at a VA (R311). -/
def ctxState (m : Memory) (va st : Nat) : Memory :=
  let a := va - 0x1FFFFFFE000000 + 0x40
  m.setWord a (setField (m.word a) 0 2 st)

/-- STATE of a merge context as the device keeps it in the cluster bank (R311). -/
def Cluster.putCtxState (c : Cluster) (va st : Nat) : Cluster :=
  { c with bankMem := ctxState c.bankMem va st }

/-- The engine commands that a region's firings issued in a step are discarded, but for those that have begun, and the merge context that one
opened is released (R319, R399). -/
def State.dropCommands (s : State) (r step : Nat) : State :=
  let mine (w : Who) : Bool := w.region == some (r, step)
  let stays (q : EngCmd) : Bool := q.begun || !mine q.who
  let one (c : Cluster) : Cluster :=
    let c := { c with copyQ := c.copyQ.filter stays, indQ := c.indQ.filter stays, mergeQ := c.mergeQ.filter stays }
    match c.merge with
    | some m => if mine m.who then { c.putCtxState m.va 0 with merge := none } else c
    | none => c
  let off (x : SavedCluster) : SavedCluster :=
    { x with copyQ := x.copyQ.filter stays, indQ := x.indQ.filter stays, mergeQ := x.mergeQ.filter stays,
             merge := x.merge.filter fun m => !mine m.who
             bankMem := match x.merge with | some m => if mine m.who then ctxState x.bankMem m.va 0 else x.bankMem | none => x.bankMem }
  { s with clusters := s.clusters.map fun e => (e.1, one e.2), funcs := s.funcs.map fun e => (e.1, { e.2 with saved := e.2.saved.map off }) }

/-- The page that a frame's bytes go back to: its own, or the one that a paired copy uses for it. -/
def Frame.home (f : Frame) : Nat := if f.base = 0 then f.page else f.base / 0x2000

/-- The bytes of a page replaced in memory, host pages among them (R238). -/
def State.putPage (s : State) (p : Nat) (m : Memory) : State :=
  if p / 2 ^ 29 = 8 then { s with host := s.host.copyFrom m (p % 2 ^ 29 * 0x2000) 0 0x2000 }
  else { s with hbm := s.hbm.copyFrom m (p * 0x2000) 0 0x2000 }

/-- A frame written back to its page, and every replica of the page dropped (R399). -/
def State.restoreFrame (s : State) (f : Frame) : State :=
  let inPage (n : Nat) : Bool := n / 64 == f.home
  let other (ls : List Line) : List Line := ls.filter fun l => !inPage l.num
  let s := s.putPage f.home f.mem
  { s with
    homes := other s.homes
    cores := s.cores.map fun e => (e.1, { e.2 with l1 := other e.2.l1, uoOld := other e.2.uoOld })
    clusters := s.clusters.map fun e =>
      (e.1, { e.2 with cache := other e.2.cache, owned := e.2.owned.filter (fun o => !inPage o.line.num) }) }

/-- Every replica of a region's SHD pages is dropped; flags that atomics on an owned line have raised stay (R331, R399). -/
def State.dropShd (s : State) (g : Region) : State :=
  let s := s.clusters.foldl (fun (s : State) (e : Nat × Cluster) =>
    (e.2.owned.filter fun o => g.isShd (o.line.num / 64)).foldl (fun s o => s.mergeFlags o.line.num o.flags) s) s
  let other (ls : List Line) : List Line := ls.filter fun l => !g.isShd (l.num / 64)
  { s with
    cores := s.cores.map fun e => (e.1, { e.2 with l1 := other e.2.l1, uoOld := other e.2.uoOld })
    clusters := s.clusters.map fun e =>
      (e.1, { e.2 with cache := other e.2.cache, owned := e.2.owned.filter (fun o => !g.isShd (o.line.num / 64)) }) }

/-! ## Budgets over the pool (R67) -/

/-- Tiles of a region present, by copy 0 (R67, R400). -/
def State.present (s : State) (r : Nat) : List Tile := s.tiles.filter fun t => t.region == r && t.copy == 0

/-- The budget that any insertion may exhaust: BMEM (R67). -/
def State.memBudget (s : State) (r : Nat) : State :=
  match s.region? r with
  | none => s
  | some g => if g.eff.bmem ≠ 0 ∧ g.eff.bmem < 32 * ((s.present r).filter (·.overflow)).length then s.spendBudget r 3 else s

/-- The budgets that a COMMIT or SEED may exhaust: BTILE, then BMEM (R67). -/
def State.tileBudgets (s : State) (r : Nat) : State :=
  match s.region? r with
  | none => s
  | some g => (if g.eff.btile ≠ 0 ∧ g.eff.btile < (s.present r).length then s.spendBudget r 2 else s).memBudget r

/-- A tile of a snapshot put back, seen by matches of the next cycle on (R110): one that was resident, or goes to the overflow list where
other regions have filled the sieve meanwhile (R101, R103; DESIGN CHOICE, log entry 115: R399 puts the tiles back and names no limit). -/
def State.putBack (s : State) (t : Tile) : State :=
  let full := !t.overflow && s.sieveFull (s.tileSlice t)
  { s with tiles := s.tiles ++ [{ t with overflow := t.overflow || full, from_ := s.clock + 1 }] }

/-- The step in progress of a region with ROLLBACK is repeated from its snapshot (R399); after two repeats the region
faults with reason 39. The caller has checked that a snapshot exists. Tiles that go back to an overflow list count for BMEM (R67). -/
def State.repeatStep (s : State) (r : Nat) : State :=
  match s.region? r with
  | none => s
  | some g =>
    match g.snap with
    | none => s
    | some sn =>
      if 2 ≤ g.repeats then s.faultRegion r (detailWord 39 0 0 g.step) else
      let s := s.withdrawRegion r
      let fs := s.firings.filter (fun f => f.region == r)
      let s := (fs.foldl State.dropFiring s).dropCommands r g.step
      let s := ((s.descendants r).filter (fun d => d.bornStep == g.step && d.parent == some r)).foldl (fun s d =>
        (d :: s.descendants d.id).foldl (fun s x => s.killRegion x.id) s) s
      let s := g.frames.foldl State.restoreFrame (s.dropShd g)
      let s := sn.tiles.foldl State.putBack { s with tiles := s.tiles.filter (fun (t : Tile) => t.region != r) }
      let s := s.modRegion r fun x =>
        { (sn.tiles.foldl (fun (x : Region) t => x.markDirty (s.sliceOf g t.copy t.lslice)) x) with
                 ages := sn.ages, ptrs := sn.ptrs, fseqs := [], swept := [], frames := x.frames.filter (·.old), repeats := x.repeats + 1,
                 cnt := { sn.counters with ndisp := x.cnt.ndisp, npre := x.cnt.npre } }
      s.memBudget r

/-- The region repeats a step rather than take an error (R32, R399). Before its first boundary a region has no snapshot, and one that drains
has no step to come: R32 and R399 do not say what an error does there, and the model lets it fault or trap as without rollback (DESIGN
CHOICE, log entry 51). -/
def Region.rolls (g : Region) : Bool := g.eff.rollback && g.snap.isSome && g.state == .active

/-! ## Compatibility threads (R385, R447) -/

/-- A compatibility thread ends: its end word is written with a release at .sys, then FVEC is raised. -/
def State.endThread (s : State) (k : Nat) (word : Word) : State :=
  match (s.core k).run with
  | .thread f p e _ =>
    let s := ((s.release k 4).devWrite (f * 256 + p) e (leBytes 8 word.toNat)).1
    (s.idleCore k).raise f (s.func f).fvec
  | _ => s

end Sys2Proof.Machine
end

