-- ==== Sys2Proof/Machine/Ops.lean ====
section
/-! DEFINITION. The operations that instructions share: taking a trap and returning from it (spec/19 R370, R375, R386),
the flow of one instruction (spec/08 R137; spec/07 R131, R132), operands and results, loads and stores of a core. -/

namespace Sys2Proof.Machine

/-! ## Taking a trap, and returning -/

/-- ILLOP (R368). -/
def cILLOP : Nat := 1
/-- STALLCHK. -/
def cSTALLCHK : Nat := 2
/-- FMTCHK. -/
def cFMTCHK : Nat := 3
/-- IDEMVIOL. -/
def cIDEMVIOL : Nat := 4
/-- ALIGN. -/
def cALIGN : Nat := 5
/-- TFAULT. -/
def cTFAULT : Nat := 6
/-- AFAULT. -/
def cAFAULT : Nat := 7
/-- POISON. -/
def cPOISON : Nat := 8
/-- PRODOVF. -/
def cPRODOVF : Nat := 9
/-- BOPCONF. -/
def cBOPCONF : Nat := 10
/-- BUDGET. -/
def cBUDGET : Nat := 11
/-- DIVZERO. -/
def cDIVZERO : Nat := 12
/-- SYS. -/
def cSYS : Nat := 13
/-- MCHK. -/
def cMCHK : Nat := 14

/-- A trap that the handler does not take: the region faults with reason 32 and the firing ends; a compatibility thread
ends with end word 3 (R370, R385). Inside an undo routine the remaining entries are not run (R226). -/
def State.escalate (s : State) (k code : Nat) : State :=
  match (s.core k).run with
  | .thread _ _ _ _ => s.endThread k 3
  | _ =>
    match s.firingOf k with
    | none => s.idleCore k
    | some f =>
      let s := s.faultRegion f.region (detailWord 32 0 0 code)
      if (s.core k).undo then s.dropFiring f else s.abortFiring k f

/-- cr.cause for a trap taken in the current context (R369). -/
def causeWord (ctx : Word) (code : Nat) : Word := BitVec.ofNat 64 (fieldNat ctx 9 6 * 512 + code)

/-- The PC of block H (R127, R370). -/
def Core.handlerPc (c : Core) : BitVec 53 := ((c.arr.word 0x208).setWidth 53) &&& ~~~1

/-- The core as it enters its handler: the current state goes into the block at cr.ctx, every field of block H but cr.epc,
cr.cause and cr.tval is loaded (R370). -/
def Core.enterHandler (c : Core) (k : Nat) : Core :=
  let c1 := c.saveBlock (c.cr.ctx.toNat % 0x8000) c.pc c.ient c.imask c.ipc
  let h := c1.loadBlock k 0x200
  let c2 := { h.1 with cr := { h.1.cr with epc := c.cr.epc, cause := c.cr.cause, tval := c.cr.tval, ctx := 0x200 }, pc := h.2 }
  let o : Outer := { entry := c.entry, noDiscard := c.noDiscard, waitOpen := c.waitOpen, empty := c.empty }
  { c2 with entry := c2.entryNow, outers := tset c.outers (c.cr.ctx.toNat % 0x8000) o, outerCtx := c.cr.ctx, noDiscard := false,
            waitOpen := false, empty := true }

/-- The region of core `k`, when a trap of a code is an event that repeats its step (R399). -/
def State.rollOf (s : State) (k code : Nat) : Option Region := (s.regionOf k).filter fun g => code == cPOISON && g.rolls

/-- A trap on core `k` faults its region, or ends its thread, rather than enter a handler (R370). -/
def Core.escalates (c : Core) : Bool := c.inHandler || c.undo || c.handlerPc == 0

/-- A trap of a code is not taken yet: requests of the core to the SFU are outstanding, and the handler is to see their results (R189,
R370). -/
def State.trapWaits (s : State) (k code : Nat) : Bool :=
  s.sfuBusy k && !(s.core k).escalates && (match s.rollOf k code with | some g => decide (2 ≤ g.repeats) | none => true)

/-- A core with a trap's cr.epc, cr.cause and cr.tval; what it waited for at the instruction is over. -/
def Core.trapped (c : Core) (code : Nat) (tval : Word) : Core :=
  { c with cr := { c.cr with epc := c.pc.setWidth 64, cause := causeWord c.cr.ctx code, tval := tval }, deliver := false,
           waitRecord := none, waitFrom := none, waitOver := false, committing := false, qwait := none }

/-- The trap itself (R370): cr.epc takes the core's PC, and the handler is entered or the trap escalates. A QSEND whose first word still
waits has not been performed (R270). -/
def State.enterTrap (s : State) (k code : Nat) (tval : Word) : State :=
  let s := s.unopen k
  let c := (s.core k).settle.trapped code tval
  if c.escalates then (s.setCore k c).escalate k code else s.setCore k (c.enterHandler k)

/-- Taking a trap (R370), the one operation for every cause but BOPCONF. A poison trap of a region that rolls steps back repeats the
step instead, and the third one faults the region before it is taken (R399). While requests of the core to the SFU are outstanding,
nothing happens yet. -/
def State.takeTrap (s : State) (k code : Nat) (tval : Word) : State :=
  if s.trapWaits k code then s else
  match s.rollOf k code with
  | some g => if g.repeats < 2 then s.repeatStep g.id else (s.repeatStep g.id).enterTrap k code tval
  | none => s.enterTrap k code tval

/-- BOPCONF (R228): never handled; the firing aborts, and with reason 3 its region faults too. -/
def State.bopConf (s : State) (k reason : Nat) : State :=
  let s := s.modCore k fun c => { c with cr := { c.cr with tval := BitVec.ofNat 64 reason } }
  match s.firingOf k with
  | none => s
  | some f => (if reason = 3 then s.faultRegion f.region (detailWord 32 0 0 cBOPCONF) else s).abortFiring k f

/-- The context block that a plain ERET returns to (R375). -/
def Core.eretBlock (c : Core) : Nat := fieldNat c.cr.cause 9 6 * 512

/-- An offset names a context block that a firing may run in: 0x0000 or 0x4000 to 0x7E00 (R127, R375, R379). -/
def blockOffOk (o : Nat) : Bool := o == 0 || (decide (0x4000 ≤ o ∧ o ≤ 0x7E00) && o % 512 == 0)

/-- A return from the handler (R375): every field of the block but its PC is loaded, cr.ctx names the block, and the PC is
cr.epc. A context that a trap has left has its open region again, as the device kept its entry (R381). The caller has made the checks. -/
def Core.eret (c : Core) (k : Nat) : Core :=
  let o := c.eretBlock
  let h := (c.loadBlock k o).1
  let h := { h with cr := { h.cr with ctx := BitVec.ofNat 64 o }, pc := c.cr.epc.setWidth 53 }
  match tfind c.outers o with
  | some x =>
    { h with entry := x.entry, noDiscard := x.noDiscard, waitOpen := x.waitOpen, empty := x.empty && h.pc == h.ient, outers := tdel c.outers o }
  | none => { h with entry := h.entryNow, noDiscard := false, waitOpen := false, empty := false }

/-! ## Page faults in host-assisted mode (R386, R387) -/

/-- The doublewords of a fault record. -/
def faultWords (r : FaultRec) : List Word :=
  [BitVec.ofNat 64 (r.vpn * 2 ^ 13 + if r.write then 2 ^ 63 else 0),
   BitVec.ofNat 64 (r.count * 2 ^ 32 + r.space / 256 * 256 + r.space % 256), BitVec.ofNat 64 r.id, 0]

/-- A posted record written at its place in the fault ring, while the host has not taken it: its slot is still between FTAIL and FHEAD
(R387, R443). -/
def State.writeRecord (s : State) (r : FaultRec) : State :=
  match r.slot with
  | none => s
  | some i =>
    let x := s.func (r.space / 256)
    if (x.fhead + 2 ^ 32 - x.ftail) % 2 ^ 32 < (x.fhead + 2 ^ 32 - i) % 2 ^ 32 then s else
    let a := fieldNat x.fbase 13 33 * 2 ^ 13 + 32 * (i % 2 ^ fieldNat x.fbase 0 4)
    s.homePut (physPlace a) ((faultWords r).flatMap fun w => leBytes 8 w.toNat)

/-- A record posted while the ring has room; otherwise it is held (R443). -/
def State.postRecord (s : State) (f id : Nat) : State :=
  let x := s.func f
  match x.records.find? (fun r => r.id == id) with
  | none => s
  | some r =>
    if r.slot.isNone && ringRoom x.fbase x.fhead x.ftail then
      let r := { r with slot := some x.fhead }
      let s := s.modFunc f fun y => { y with records := y.records.map fun q => if q.id = id then r else q, fhead := (y.fhead + 1) % 2 ^ 32 }
      (s.writeRecord r).raise f x.fvec
    else s

/-- A core that waits at issue takes a time that the manual does not bind, which counts only while a fixed-latency write is on its way
(R131). -/
def State.stalled (s : State) (k : Nat) : State :=
  if (s.core k).pend.isEmpty then s else s.tick.modCore k fun c => { c with cycle := c.cycle + Config.waitCycles s.fresh }

/-- A TFAULT in host-assisted mode: one record for each outstanding (address space, page, W), in which every access counts; the core
waits, and keeps the cr.tval that DELIVER would give (R387). -/
def State.pageFault (s : State) (k va : Nat) (tval : Word) (w : Bool) : State :=
  let s := s.stalled k
  let sp := s.spaceOf k
  let f := sp / 256
  let vpn := va / 2 ^ 13
  match (s.func f).records.find? (fun r => r.space == sp && r.vpn == vpn && r.write == w) with
  | some r =>
    let q := { r with cores := numPut r.cores k, count := r.count + 1 }
    let s := s.modFunc f fun y => { y with records := y.records.map fun x => if x.id = r.id then q else x }
    (s.writeRecord q).modCore k fun c => { c with waitRecord := some r.id, waitVa := tval }
  | none =>
    let id := s.nextRecord
    let r : FaultRec := { id := id, space := sp, vpn := vpn, write := w, cores := [k], count := 1, slot := none }
    let s := { s with nextRecord := (id + 1) % 2 ^ 32 }
    let s := s.modFunc f fun y => { y with records := y.records ++ [r] }
    (s.postRecord f id).modCore k fun c => { c with waitRecord := some id, waitVa := tval }

/-- A TFAULT of a core at an address, with its cr.tval: held in host-assisted mode unless the address space is off (R243, R386). -/
def State.tfault (s : State) (k va : Nat) (tval : Word) (w off : Bool) : State :=
  if s.duty.getLsbD 1 && !off then s.pageFault k va tval w else s.takeTrap k cTFAULT tval

/-! ## The flow of an instruction -/

/-- How an instruction ends other than by completing. -/
inductive Stop where
  /-- A trap with no effect of the instruction (R137, R157). -/
  | trap (code : Nat) (tval : Word)
  /-- AFAULT, POISON, or ALIGN on an SO page, in the access of `n` bytes at an address: what it asked of the translation and of the home
  slices stays asked. -/
  | access (code : Nat) (tval : Word) (va n : Nat) (a : Acc)
  /-- TFAULT at the address `bad`, with its cr.tval, in the access of `n` bytes at `va`; address space off (R386). -/
  | tfault (bad : Nat) (tval : Word) (off : Bool) (va n : Nat) (a : Acc)
  /-- A trap that keeps some effects (R203, R325): the state to trap in. -/
  | trapIn (s : State) (code : Nat) (tval : Word)
  /-- TFAULT that keeps some effects (R203). -/
  | tfaultIn (s : State) (bad : Nat) (tval : Word) (off : Bool) (va n : Nat) (a : Acc)
  /-- The instruction does not issue yet, and nothing changes (R131, R380). -/
  | stall
  /-- A source 2 machine check (R396): its cr.tval. -/
  | lost (tval : Word)
  /-- The instruction waits: it has not been performed, and the PC stays (R270). -/
  | hold (s : State)
  /-- The instruction ended what the core was doing. -/
  | fin (s : State)

/-- The device may discard the open region of core `k` (R381): not one with noDiscard, of a MATRIX firing, or of a BOOSTED
firing with an open section or undo entries (R227). -/
def State.mayDiscard (s : State) (k : Nat) : Bool :=
  let c := s.core k
  !c.noDiscard && match s.firingOf k with
    | none => false
    | some f => s.classOf f != 1 && (s.classOf f != 2 || (!c.opened && c.ucnt == 0))

/-- The machine check of a dropped SFU result (R396): the open region is discarded and MCHK taken at its entry; where it may
not be discarded, the region faults with reason 38. A compatibility thread has no regions and traps at the instruction. -/
def State.sfuMchk (s : State) (k : Nat) (tval : Word) : State :=
  if s.trapWaits k cMCHK then s else
  let s := s.modCore k fun c => { c with sfuLost := [] }
  if (s.core k).isThread then s.takeTrap k cMCHK tval
  else if s.mayDiscard k then (s.modCore k Core.discardRegion).takeTrap k cMCHK tval
  else match s.firingOf k with
    | none => s
    | some f => (s.faultRegion f.region (detailWord 38 0 0 (clusterOf k * 16 + idsUnit k))).abortFiring k f

/-- Instructions as functions of the state that may stop. -/
abbrev M := StateT State (Except Stop)

/-- A core at the issue of an instruction of `len` bytes: the PC is NPC, and the open region is no longer empty (R135). -/
def Core.begin (c : Core) (len : Nat) : Core := { c with pc := c.pc + BitVec.ofNat 53 len, empty := false }

/-- What an instruction that completes leaves of a core beside its effect: its cycle counts the issue and the stall count (R131), and
what the device noted of an earlier attempt is gone. A fetch delays the next issue after a transfer alone (R177): straight-line code that
misses the unified array takes no longer (DESIGN CHOICE, log entry 126). -/
def Core.retired (c : Core) (stl : BitVec 2) : Core :=
  { c with cycle := c.cycle + 1 + stl.toNat, waitRecord := none, waitFrom := none, waitOver := false, qwait := none }

/-- A core whose instruction, at `pc` in a region that was empty or not, has not been performed. -/
def Core.back (c : Core) (pc : BitVec 53) (e : Bool) : Core := { c with pc := pc, empty := e || c.empty }

/-- A trap that keeps some effects of its instruction (R203), in the state `t`; `s` is the state at the issue, in which the instruction
stays while the trap is not taken yet (R189). -/
def State.trapAt (s t : State) (k code : Nat) (tval : Word) : State :=
  if s.trapWaits k code then s else (t.modCore k fun x => x.back (s.core k).pc (s.core k).empty).takeTrap k code tval

/-- What an access that fails with a cause has asked for: its walks, and the lines of one that meets poison (R320, R321). -/
def State.attempt (s : State) (k code va n : Nat) (a : Acc) : State :=
  match s.translateParts k (partsOf va n) a with
  | (s, .ok ts) =>
    if code ≠ cPOISON then s else ts.foldl (fun s t => match a, t.1.place with
      | .atomic, .dev p => s.atomicPlace k (p / 128) t.1.so
      | _, _ => s.touch k t.1 t.1.hint t.2) s
  | (s, .error _) => s

/-- An instruction of `len` bytes with stall count `stl` (R131, R135, R137): the body runs with the PC already at NPC; a
trap finds the state as it was before the instruction. -/
def issue (len : Nat) (stl : BitVec 2) (body : M Unit) (s : State) : Host.Outcome State Fault Refusal :=
  let k := s.cur
  let c := s.core k
  match body (s.setCore k (c.begin len)) with
  | .ok (_, t) => .next (t.modCore k fun c => c.retired stl)
  | .error (.trap code v) => .next (s.takeTrap k code v)
  | .error (.access code v va n a) => .next ((s.attempt k code va n a).takeTrap k code v)
  | .error (.tfault bad v off va n a) => .next ((s.attempt k cTFAULT va n a).tfault k bad v a.writes off)
  | .error (.trapIn t code v) => .next (s.trapAt t k code v)
  | .error (.tfaultIn t bad v off va n a) =>
    let t := t.attempt k cTFAULT va n a
    .next (if s.duty.getLsbD 1 && !off then (t.modCore k fun x => x.back c.pc c.empty).pageFault k bad v a.writes else s.trapAt t k cTFAULT v)
  | .error .stall => .next (s.stalled k)
  | .error (.lost v) => .next (s.sfuMchk k v)
  | .error (.hold t) => .next ((t.modCore k fun x => x.back c.pc c.empty).stalled k)
  | .error (.fin t) => .next t

/-- The core that executes. -/
def getC : M Core := do return (← get).me

/-- The core that executes, changed. -/
def modC (f : Core → Core) : M Unit := modify fun s => s.modCore s.cur f

/-- The key of the core that executes. -/
def curK : M Nat := do return (← get).cur

/-- The instruction traps. -/
def trap {α : Type} (code : Nat) (tval : Word) : M α := throw (.trap code tval)

/-- A condition whose failure traps. -/
def need (b : Bool) (code : Nat) (tval : Word) : M Unit := if b then pure () else trap code tval

/-! ## Units shared by the cores of a cluster (R188, R201, R234, R269, R285, R304) -/

/-- The SFU (R188). -/
def uSFU : Nat := 0
/-- The lane pool (R201). -/
def uLANES : Nat := 1
/-- The engine queues (R304). -/
def uENGINES : Nat := 2
/-- The bank controller (R234). -/
def uBANKS : Nat := 3
/-- Queue `n` of the cluster (R269). -/
def uQUEUE (n : Nat) : Nat := 16 + n
/-- Semaphore `n` of a cell (R285). -/
def uSEM (cell n : Nat) : Nat := 32 + cell * 8 + n

/-- The arithmetic cycle: the arithmetic clock has half the frequency of the control clock (R4). -/
def State.arith (s : State) : Nat := s.clock / 2

/-- A request of core `k` may still reach a unit of its cluster in this arithmetic cycle: general cores 0 to 7 come first, then stagers, then
issuers (R188), and none of a later place has been there. -/
def State.inTurnOf (s : State) (k unit : Nat) : Bool :=
  match tfind (s.cluster (clusterOf k)).served unit with
  | some (t, j) => t != s.arith || decide (j ≤ unitOf k)
  | none => true

/-- A request of core `k` has reached a unit. -/
def State.serveOf (s : State) (k unit : Nat) : State :=
  s.modCluster (clusterOf k) fun x => { x with served := tset x.served unit (s.arith, unitOf k) }

/-- The executing core's request may still reach a unit in this arithmetic cycle. -/
def State.inTurn (s : State) (unit : Nat) : Bool := s.inTurnOf s.cur unit

/-- The executing core's request has reached a unit. -/
def State.serve (s : State) (unit : Nat) : State := s.serveOf s.cur unit

/-- A request to a unit; one that comes behind a core of a later place reaches the unit in a later cycle. -/
def orderM (unit : Nat) : M Unit := do
  let s ← get
  if s.inTurn unit then set (s.serve unit) else throw .stall

/-- The next free value's number. -/
def freshM : M Nat := do
  let s ← get
  set s.tick
  return s.fresh

/-- The instruction waits in the present state (R270). -/
def holdM {α : Type} : M α := do throw (.hold (← get))

/-- The instruction makes a boundary: every earlier instruction has completed when it issues, and a dropped SFU result is
reported there (R380, R396). It comes before any effect of the instruction. -/
def settleM : M Unit := do
  let s ← get
  if s.sfuBusy s.cur then throw .stall
  match s.me.sfuLost with
  | (_, v) :: _ => throw (.lost v)
  | [] => modC Core.settle

/-- The instruction at the core's PC closes the open region at its own PC and waits (R270, R285, R348, R377). The PC has
already moved by `len`. -/
def waitAtPc {α : Type} (len : Nat) : M α := do
  modC fun c => { c.boundary (c.pc - BitVec.ofNat 53 len) with waitOpen := true }
  holdM

/-- An instruction of `len` bytes that cannot be performed now: nothing of it has happened since the state `s0` at its issue.
Its wait closes the region at its own PC (R270); a compatibility thread has no regions (R385). -/
def waitHere {α : Type} (s0 : State) (len : Nat) : M α := do
  set s0
  settleM
  let c ← getC
  if c.isThread then holdM else waitAtPc len

/-- The open region closes and a new one opens at NPC (R218). A compatibility thread has no regions (R385). -/
def closeRegionM : M Unit := modC fun c => if c.isThread then c else c.boundary c.pc

/-- The core is of a kind that may execute the instruction, else ILLOP at order 2 (R121, R275). -/
def kindM (ok : Nat → Bool) (bits : Word) : M Unit := do need (ok (← curK)) cILLOP bits

/-! ## Readiness (R131, R132) -/

/-- The location of register `r`, unless it is w0: of one that a stream is bound to, the stream's element, if it has one. -/
def Core.locOf (c : Core) (r : BitVec 5) : List Loc :=
  if r = 0 then [] else match c.boundTo r.toNat with
    | some i => if (c.gen i).count = 0 then [] else [.g i]
    | none => [.w (c.regOff r.toNat)]

/-- The location of predicate `p`, unless it is p0. -/
def locP (p : BitVec 3) : List Loc := if p = 0 then [] else [.p p.toNat]

/-- cr.tval of STALLCHK for a location (R132). -/
def Core.stallTval (c : Core) (l : Loc) : Word :=
  match l with
  | .w off => BitVec.ofNat 64 ((off - c.regOff 0) / 8 % 32)
  | .p n => BitVec.ofNat 64 (n % 32 + 32)
  | .v _ => 0
  | .m _ => 0
  | .g _ => 0

/-- The instruction waits a time that the manual does not bind, which counts: for a variable-latency result it reads or writes, or for the
elements of the read streams among its operands while a fixed-latency write is on its way (R131, R266). -/
def Core.slow (c : Core) (reads writes : List Loc) : Bool :=
  (reads ++ writes).any c.vpend.contains || (reads.any Loc.isStream && !c.pend.isEmpty)

/-- The core waits: for pending writes of its destinations, for variable-latency results it reads or writes, and for the elements of streams. -/
def Core.waits (c : Core) (free : Nat) (reads writes : List Loc) : Core :=
  let t := c.pend.foldl (fun m p => if writes.contains p.loc then max m p.ready else m) c.cycle
  let t := if c.slow reads writes then t + free else t
  { c with cycle := t, vpend := c.vpend.filter (fun l => !(reads ++ writes).contains l),
           pend := c.pend.filter (fun p => decide (t < p.ready)) }

/-- A location that waits for a result of the SFU (R189). -/
def State.sfuPending (s : State) (k : Nat) (l : Loc) : Bool :=
  match l with
  | .w off => (s.cluster (clusterOf k)).sfu.any (fun r => r.core == k && r.dest == some off)
  | .v n => (s.cluster (clusterOf k)).sfu.any (fun r => r.core == k && r.vd == some n)
  | .p _ => false
  | .m _ => false
  | .g _ => false

/-- A location whose SFU result was dropped: the machine check (R396). -/
def Core.sfuLostAt (c : Core) (l : Loc) : Option Word :=
  match l with
  | .w off => tfind c.sfuLost off
  | .v n => tfind c.sfuLost (0x10000 + n)
  | .p _ => none
  | .m _ => none
  | .g _ => none

/-- Order 4 of R137: the waits of an instruction that reads some locations and writes others; then, with CHK set, a late operand traps
STALLCHK. Of several late operands cr.tval names the first in the order of the operand list, registers before predicates (DESIGN CHOICE,
log entry 127: R132 names one operand alone). -/
def readyLocsM (reads writes : List Loc) : M Unit := do
  let s ← get
  if (reads ++ writes).any (s.sfuPending s.cur) then throw .stall
  match reads.findSome? s.me.sfuLostAt with
  | some v => throw (.lost v)
  | none => pure ()
  let s := if s.me.slow reads writes then s.tick else s
  set s
  modC fun c => c.waits (Config.waitCycles s.fresh) reads writes
  let c ← getC
  if c.cr.sbchk.getLsbD 0 then
    match reads.find? (fun l => (c.late l).isSome) with
    | some l => trap cSTALLCHK (c.stallTval l)
    | none => pure ()

/-- The readiness of an instruction that reads registers `rs` and predicates `ps` and writes registers `wd` and predicates `pd`. -/
def readyM (rs : List (BitVec 5)) (ps : List (BitVec 3)) (wd : List (BitVec 5)) (pd : List (BitVec 3)) : M Unit := do
  let c ← getC
  readyLocsM (rs.flatMap c.locOf ++ ps.flatMap locP) (wd.flatMap c.locOf ++ pd.flatMap locP)

/-! ## Loads and stores -/

/-- An access of `n` bytes at `va` failed at the address `bad`. -/
def memTrap {α : Type} (e : MemErr) (bad va n : Nat) (a : Acc) : M α :=
  match e with
  | .tfault off => throw (.tfault bad (BitVec.ofNat 64 bad) off va n a)
  | .afault => throw (.access cAFAULT (BitVec.ofNat 64 bad) va n a)
  | .poison => throw (.access cPOISON (BitVec.ofNat 64 bad) va n a)

/-- Translation of every part of an access (R254). -/
def xlateM (va n : Nat) (a : Acc) : M (List (Target × Nat)) := do
  let s ← get
  match s.translateParts s.cur (partsOf va n) a with
  | (_, .error (e, bad)) => memTrap e bad va n a
  | (s, .ok ts) => do
    set s
    return ts

/-- A part lies in the current workspace (R124). -/
def Core.inWorkspace (c : Core) (p : Place) (n : Nat) : Bool :=
  match p with
  | .arr _ o => decide (o < c.regOff 32) && decide (c.regOff 0 < o + n)
  | _ => false

/-- An access to the current workspace waits for every pending write of a workspace register, and for no predicate (R124). -/
def workspaceWait (ts : List (Target × Nat)) : M Unit := do
  let s ← get
  if ts.any (fun t => s.me.inWorkspace t.1.place t.2) then
    if (s.cluster (clusterOf s.cur)).sfu.any (fun r => r.core == s.cur && r.dest.isSome) then throw .stall
    if s.me.vpend.any Loc.isReg then set s.tick
    modC fun c => c.settleIf (Config.waitCycles s.fresh) Loc.isReg

/-- A doubleword that a dropped result of the SFU was to be written to, read by a load: the machine check (R124, R396). -/
def Core.lostIn (c : Core) (ts : List (Target × Nat)) : Option Word :=
  (c.sfuLost.find? fun e => decide (e.1 < 0x8000) && ts.any fun t =>
    match t.1.place with
    | .arr _ o => decide (o < e.1 + 8) && decide (e.1 < o + t.2)
    | _ => false).map (·.2)

/-- A load of `n` bytes at `va` (R254, R255). What a load reads is no older than what an earlier access has read there, so that elements
read ahead of it are discarded (R353). -/
def loadM (va n : Nat) (aq : Bool) (hint : BitVec 2) : M (List Byte) := do
  need (!aq || va % n == 0) cALIGN (BitVec.ofNat 64 va)
  let ts ← xlateM va n .load
  if ts.any (fun t => t.1.so) && va % n != 0 then throw (.access cALIGN (BitVec.ofNat 64 va) va n .load)
  workspaceWait ts
  let s ← get
  match s.me.lostIn ts with
  | some v => throw (.lost v)
  | none => pure ()
  match s.readTargets s.cur ts fun t => hintOf hint t.hint with
  | (_, none) => throw (.access cPOISON (BitVec.ofNat 64 va) va n .load)
  | (s, some bs) =>
    set s
    modC fun c => c.dropAhead (ts.flatMap fun t => t.1.place.blocks t.2)
    return bs

/-- The live-in register whose doubleword a store into the array overlaps, lowest first (R219). -/
def Core.storesLiveIn (c : Core) (ts : List (Target × Nat)) : Option Nat :=
  (spanOf id 1 31).find? fun n => c.imask.getLsbD n && ts.any fun t =>
    match t.1.place with
    | .arr _ o => decide (o < c.regOff n + 8) && decide (c.regOff n < o + t.2)
    | _ => false

/-- The live-in check is on (R125, R385). -/
def Core.idemOn (c : Core) : Bool := c.cr.idemchk.getLsbD 0 && !c.isThread

/-- Parts stored in turn, the bytes divided among them. Elements read ahead that lie in a line stored to are discarded (R267). -/
def storeParts (ts : List (Target × Nat)) (bs : List Byte) (hint : BitVec 2) : M Unit :=
  match ts with
  | [] => pure ()
  | (t, n) :: r => do
    modify fun s => (s.hideBytes s.cur t.ord t.place (bs.take n)).putBytes s.cur t.ord t.place (hintOf hint t.hint) (bs.take n)
    modC fun c => c.dropAhead (t.place.blocks n)
    storeParts r (bs.drop n) hint

/-- A store of bytes at `va` (R254, R255). -/
def storeM (va : Nat) (bs : List Byte) (rl : Bool) (hint : BitVec 2) : M Unit := do
  need (!rl || va % bs.length == 0) cALIGN (BitVec.ofNat 64 va)
  let ts ← xlateM va bs.length .store
  if ts.any (fun t => t.1.so) && va % bs.length != 0 then throw (.access cALIGN (BitVec.ofNat 64 va) va bs.length .store)
  let c ← getC
  match (if c.idemOn then c.storesLiveIn ts else none) with
  | some n => trap cIDEMVIOL (BitVec.ofNat 64 n)
  | none => pure ()
  workspaceWait ts
  storeParts ts bs hint

/-- The size in bytes of an SZ field (R144). -/
def szBytes (sz : BitVec 3) : Nat :=
  match sz.toNat with | 0 => 1 | 1 => 2 | 2 => 4 | 3 => 8 | 4 => 16 | 5 => 1 | 6 => 2 | _ => 4

/-- A loaded value of up to 8 bytes, extended as its SZ says (R255). -/
def szExtend (sz : BitVec 3) (bs : List Byte) : Word :=
  let v := leNat bs
  match sz.toNat with
  | 0 => sext (BitVec.ofNat 8 v)
  | 1 => sext (BitVec.ofNat 16 v)
  | 2 => sext (BitVec.ofNat 32 v)
  | _ => BitVec.ofNat 64 v

/-! ## Operands and results -/

/-- A generator moved past its element (R266). -/
def Gen.advance (g : Gen) : Gen :=
  { g with addr := g.addr + g.stride.setWidth 53, count := g.count - 1 }

/-- What stopped the access of a stream's element: cr.tval is the element's address, but of a live-in check (R266). -/
def Stop.ofElem (v : Word) (e : Stop) : Stop :=
  match e with
  | .trap code t => .trap code (if code = cIDEMVIOL then t else v)
  | .access code _ va n a => .access code v va n a
  | .tfault bad _ off va n a => .tfault bad v off va n a
  | e => e

/-- The access of a stream's element at an address. -/
def elemM {α : Type} (v : Word) (m : M α) : M α := fun s => match m s with | .ok r => .ok r | .error e => .error (e.ofElem v)

/-- An element read ahead popped: what the other streams hold of its blocks may be older, and is discarded (R267, R353). -/
def Core.popAhead (c : Core) (i : Nat) (a : Ahead) (r : List Ahead) : Core :=
  let d := c.dropAhead a.blocks
  { d with ahead := tset d.ahead i r }

/-- A pop of a read stream (R266): the element that was read ahead, or the one that memory holds now (R267). -/
def popM (i : Nat) : M Word := do
  let c ← getC
  let g := c.gen i
  need (!g.write) cILLOP (BitVec.ofNat 64 g.reg.toNat)
  if g.count = 0 then return 0
  match tget [] c.ahead i with
  | a :: r =>
    modC fun c => (c.popAhead i a r).setGen i g.advance
    return a.value
  | [] =>
    let bs ← elemM (g.addr.setWidth 64) (loadM g.addr.toNat (szBytes g.sz) false 1)
    modC fun c => c.setGen i g.advance
    return szExtend g.sz bs

/-- The read stream of generator `i` of core `k` reads its next element ahead of the pops, at most eight; where the access would trap, or
lies in the current workspace, it reads nothing (R267; DESIGN CHOICE, log entry 131). -/
def State.readAhead (s : State) (k i : Nat) : State :=
  let c := s.core k
  let g := c.gen i
  let n := (tget [] c.ahead i).length
  let busy := match c.run with | .firing _ => true | .thread _ _ _ _ => true | _ => false
  let va := (g.addr + BitVec.ofNat 53 n * g.stride.setWidth 53).toNat
  let z := szBytes g.sz
  if !busy || isSaved k || c.stopped || !g.bound || g.write || decide (8 ≤ n) || decide (g.count.toNat ≤ n) then s else
  match s.translateParts k (partsOf va z) .load with
  | (_, .error _) => s
  | (t, .ok ts) =>
    if ts.any (fun x => (x.1.so && va % z != 0) || c.inWorkspace x.1.place x.2) then s else
    match t.readTargets k ts (·.hint) with
    | (_, none) => s
    | (u, some bs) =>
      let a : Ahead := { blocks := ts.flatMap fun x => x.1.place.blocks x.2, value := szExtend g.sz bs }
      u.modCore k fun c => { c with ahead := tset c.ahead i (tget [] c.ahead i ++ [a]) }

/-- A source register: the next element of a stream bound to it, or the register (R132, R266). -/
def src (r : BitVec 5) : M Word := do
  let c ← getC
  match c.boundTo r.toNat with
  | some i => popM i
  | none => return c.seen r.toNat

/-- A source predicate. -/
def srcP (p : BitVec 3) : M Bool := do return (← getC).seenP p.toNat

/-- The doubleword of a constant (R151, R220); a core without a region has none. -/
def constM (n : Nat) (bits : Word) : M Word := do
  let s ← get
  match s.regionOf s.cur with
  | some g => return g.eff.kbank.getD n 0
  | none => trap cILLOP bits

/-- The second operand of an R-format instruction that is not a literal: a constant or a register (R151). -/
def opb (k : BitVec 1) (rb : BitVec 5) (bits : Word) : M Word := if k = 1 then constM rb.toNat bits else src rb

/-- The registers that such an operand reads. -/
def opbRegs (k : BitVec 1) (rb : BitVec 5) : List (BitVec 5) := if k = 1 then [] else [rb]

/-- An append to a write stream (R266). -/
def appendM (i : Nat) (v : Word) : M Unit := do
  let c ← getC
  let g := c.gen i
  need g.write cILLOP (BitVec.ofNat 64 g.reg.toNat)
  if g.count = 0 then return ()
  elemM (g.addr.setWidth 64) (storeM g.addr.toNat (leBytes (szBytes g.sz) v.toNat) false 1)
  modC fun c => c.setGen i g.advance

/-- Register `n` written with latency `lat`, or with a variable one when `lat` is 0 (R131). -/
def Core.putReg (c : Core) (n : Nat) (v : Word) (lat : Nat) : Core :=
  if n = 0 then c else
  let l := Loc.w (c.regOff n)
  let c' := c.setReg n v
  if lat = 0 then { c' with vpend := l :: c'.vpend }
  else if lat = 1 then c'
  else { c' with pend := { loc := l, ready := c.cycle + lat, old := c.reg n } :: c'.pend }

/-- A result written to a destination register (R219, R266). A result that opens a region is not checked (R380). -/
def putWith (check : Bool) (r : BitVec 5) (v : Word) (lat : Nat) : M Unit := do
  let c ← getC
  match c.boundTo r.toNat with
  | some i => appendM i v
  | none =>
    need (!(check && c.idemOn && c.imask.getLsbD r.toNat)) cIDEMVIOL (BitVec.ofNat 64 r.toNat)
    modC fun c => c.putReg r.toNat v lat

/-- A result of fixed latency, or of variable latency when `lat` is 0. -/
def put (r : BitVec 5) (v : Word) (lat : Nat) : M Unit := putWith true r v lat

/-- The result of an instruction of `len` bytes that may wait: not checked when its wait opened the region (R380). -/
def putWait (len : Nat) (r : BitVec 5) (v : Word) : M Unit := do
  let c ← getC
  putWith (!(c.waitOpen && c.ient == c.pc - BitVec.ofNat 53 len)) r v 0

/-- The result of an instruction that makes a region boundary (R380). -/
def putNew (r : BitVec 5) (v : Word) : M Unit := putWith false r v 0

/-- Predicate `n` written with a latency. -/
def Core.putPred (c : Core) (n : Nat) (b : Bool) (lat : Nat) : Core :=
  if n = 0 then c else
  let c' := c.setPred n b
  if lat = 0 then { c' with vpend := .p n :: c'.vpend }
  else if lat = 1 then c'
  else { c' with pend := { loc := .p n, ready := c.cycle + lat, old := if c.pred n then 1 else 0 } :: c'.pend }

/-- A predicate result. -/
def putP (p : BitVec 3) (b : Bool) (lat : Nat) : M Unit := modC fun c => c.putPred p.toNat b lat

/-- A control transfer: the next fetch takes a time that the manual does not bind (R177). -/
def jump (target : BitVec 53) : M Unit := do
  let n ← freshM
  modC fun c => { c with pc := target, cycle := c.cycle + Config.waitCycles n }

/-- Flags raised by an instruction (R47). -/
def raiseFlags (f : Word) : M Unit := modC fun c => { c with cr := { c.cr with fflags := c.cr.fflags ||| f } }

/-- The deferred POISON of the core's .n atomics traps at an instruction that waits for them, which then has no effect
(R325). -/
def deferredPoison : M Unit := do
  let s ← get
  match s.me.poisonAt with
  | none => pure ()
  | some a => throw (.trapIn (s.modCore s.cur fun c => { c with poisonAt := none }) cPOISON a)

/-- A release by the executing core at a scope (R241, R331). -/
def releaseM (scope : Nat) : M Unit := modify fun s => s.release s.cur scope

/-- What streams have read ahead is discarded at the acquires that R267 names. -/
def forgetAhead : M Unit := modC fun c => { c with ahead := [] }

/-- An acquire by the executing core at a scope (R241), which orders no UO load (R356). -/
def acquireM (scope : Nat) : M Unit := modify fun s => s.acquireAt s.cur scope false

end Sys2Proof.Machine
end

