-- ==== Sys2Proof/Machine/Operands.lean ====
section
/-! DEFINITION. Operand forms: immediates, literals, widths, offsets, element sizes and format tags (spec/08 R139 to R148,
R151; spec/02 R25; spec/03 R34). -/

namespace Sys2Proof.Machine

/-- The literal word of an ALU form: sign-extended (R151). -/
def litAlu (lit : BitVec 32) : Word := lit.signExtend 64

/-- A 12-bit immediate, sign-extended (R140). -/
def imm12 (imm : BitVec 12) : Word := imm.signExtend 64

/-- The byte distance of a signed halfword offset of `n` bits (R142, R143, R149). -/
def halfOff {n : Nat} (off : BitVec n) : BitVec 53 := (off.signExtend 53) <<< 1

/-- The address of a MEM instruction: base plus the scaled 6-bit offset, modulo 2^53 (R144, R254). -/
def memAddr (base : Word) (off : BitVec 6) (scale : Nat) : Nat := vaOf (base + off.signExtend 64 * BitVec.ofNat 64 scale)

/-- An ALU result at a width: at 32 bits the low half, sign-extended (R158). -/
def widen (w : BitVec 1) (r : Word) : Word := if w = 1 then (r.setWidth 32).signExtend 64 else r

/-- A 5-bit FT field's tag (R148). -/
def ftTag (ft : BitVec 5) : BitVec 8 := ft.setWidth 8

/-- A register number that is a multiple of 4, from its upper bits (R207, R265, R299). -/
def quadReg (r : BitVec 3) : BitVec 5 := r ++ (0 : BitVec 2)

/-- An even register number, from its upper bits (R153). -/
def evenReg (r : BitVec 4) : BitVec 5 := r ++ (0 : BitVec 1)

/-- A register from w16 on, from its low bits (R265). -/
def highReg (r : BitVec 4) : BitVec 5 := (1 : BitVec 1) ++ r

/-- A tag of R34. -/
def tagDefined (t : Nat) : Bool := decide (t ≤ 8) || decide (16 ≤ t ∧ t ≤ 23)

/-- Element size in bits of a tag (R25). -/
def tagBits (t : Nat) : Nat :=
  match t with
  | 0x00 => 64 | 0x01 => 8 | 0x02 => 16 | 0x03 => 32 | 0x04 => 64
  | 0x05 => 8 | 0x06 => 16 | 0x07 => 32 | 0x08 => 64
  | 0x10 => 4 | 0x11 => 8 | 0x12 => 8 | 0x13 => 16 | 0x14 => 32 | 0x15 => 64 | 0x16 => 32 | 0x17 => 64
  | _ => 64

end Sys2Proof.Machine
end

