-- ==== Sys2Proof/Machine/Flags.lean ====
section
/-! DEFINITION. Number formats, rounding and floating-point flags (spec/03_number_formats.md R34 to R50). Operands are
decoded to exact numbers, results are computed exactly and rounded once. -/

namespace Sys2Proof.Machine

/-- NV (R47). -/
def fNV : Nat := 16
/-- DZ. -/
def fDZ : Nat := 8
/-- OF. -/
def fOF : Nat := 4
/-- UF. -/
def fUF : Nat := 2
/-- NX. -/
def fNX : Nat := 1

/-- A decoded floating-point value: NaN, infinity, or ± m × 2^e. -/
inductive Num where
  | nan (signalling : Bool)
  | inf (neg : Bool)
  | fin (neg : Bool) (m : Nat) (e : Int)
  deriving DecidableEq, Repr

/-- A format with an exponent: `mb` trailing significand bits, `eb` exponent bits, quantum of subnormals 2^qmin, and the
encoding of its largest finite magnitude. -/
structure Fmt where
  mb : Nat
  eb : Nat
  qmin : Int
  maxEnc : Nat
  ieee : Bool
  deriving DecidableEq, Repr

/-- FP64 (R37). -/
def fp64 : Fmt := { mb := 52, eb := 11, qmin := -1074, maxEnc := 0x7FEFFFFFFFFFFFFF, ieee := true }
/-- FP32 (R37). -/
def fp32 : Fmt := { mb := 23, eb := 8, qmin := -149, maxEnc := 0x7F7FFFFF, ieee := true }
/-- BF16 (R37). -/
def bf16 : Fmt := { mb := 7, eb := 8, qmin := -133, maxEnc := 0x7F7F, ieee := true }
/-- F8 (R41). -/
def f8 : Fmt := { mb := 3, eb := 4, qmin := -10, maxEnc := 0x7F, ieee := false }
/-- F4 (R42). -/
def f4 : Fmt := { mb := 1, eb := 2, qmin := -1, maxEnc := 7, ieee := false }

/-- Width of a format in bits. -/
def Fmt.width (f : Fmt) : Nat := f.mb + f.eb + 1

/-- The encoding of infinity of an IEEE format. -/
def Fmt.infEnc (f : Fmt) : Nat := f.maxEnc + 1

/-- The canonical NaN of a format (R38, R41). -/
def Fmt.canonNaN (f : Fmt) : Nat := if f.ieee then f.infEnc + 2 ^ (f.mb - 1) else 0x80

/-- The sign bit of a format. -/
def Fmt.signBit (f : Fmt) : Nat := 2 ^ (f.mb + f.eb)

/-- An encoded magnitude without infinity or NaN, as ± m × 2^e. -/
def Fmt.finite (f : Fmt) (neg : Bool) (mag : Nat) : Num :=
  let ex := mag / 2 ^ f.mb
  let m := mag % 2 ^ f.mb
  if ex = 0 then .fin neg m f.qmin else .fin neg (m + 2 ^ f.mb) (f.qmin + (ex - 1 : Nat))

/-- The value of an encoding (R37, R38, R41, R42). -/
def Fmt.decode (f : Fmt) (x : Nat) : Num :=
  let mag := x % f.signBit
  let neg := x / f.signBit % 2 == 1
  if f.ieee then
    if mag = f.infEnc then .inf neg
    else if f.infEnc < mag then .nan (mag / 2 ^ (f.mb - 1) % 2 == 0)
    else f.finite neg mag
  else if f.mb = 3 && neg && mag == 0 then .nan false
  else f.finite neg mag

/-- Number of bits of a natural number. -/
def bitLen (n : Nat) : Nat := if n = 0 then 0 else Nat.log2 n + 1

/-- A magnitude rounded to a multiple of 2^q: the multiple, and whether it differs from the exact value (m + a little when
`sticky`) × 2^e. `mode` is a code of R45, with 4 ties away. -/
def roundAt (mode : Nat) (neg : Bool) (m : Nat) (e : Int) (sticky : Bool) (q : Int) : Nat × Bool :=
  if q ≤ e then (m * 2 ^ (e - q).toNat, sticky)
  else
    let sh := (q - e).toNat
    let t := m / 2 ^ sh
    let r := m % 2 ^ sh
    let inexact := r != 0 || sticky
    let half := 2 ^ (sh - 1)
    let above := decide (half < r) || (r == half && sticky)
    let tie := r == half && !sticky
    let up := match mode with
      | 1 => false
      | 2 => inexact && !neg
      | 3 => inexact && neg
      | 4 => above || tie
      | _ => above || (tie && t % 2 == 1)
    (if up then t + 1 else t, inexact)

/-- The signed result of an overflow (R48): infinity or the largest finite value by mode; F8 and F4 saturate. -/
def Fmt.overflow (f : Fmt) (mode : Nat) (neg : Bool) : Nat :=
  let mag := if !f.ieee then f.maxEnc else match mode with
    | 1 => f.maxEnc
    | 2 => if neg then f.maxEnc else f.infEnc
    | 3 => if neg then f.infEnc else f.maxEnc
    | _ => f.infEnc
  mag + if neg then f.signBit else 0

/-- The encoding of a signed magnitude: F8 has no −0 (R41). -/
def Fmt.sign (f : Fmt) (neg : Bool) (mag : Nat) : Nat :=
  if neg && !(f.mb == 3 && mag == 0) then mag + f.signBit else mag

/-- Round of R157: an exact value ± (m + a little) × 2^e into a format, with its flags (R45, R48). RNA applies to F8 and F4
only. -/
def Fmt.round (f : Fmt) (mode : Nat) (neg : Bool) (m : Nat) (e : Int) (sticky : Bool) : Nat × Nat :=
  if m = 0 ∧ sticky = false then (f.sign neg 0, 0) else
  let mode := if mode = 4 ∧ f.ieee then 0 else mode
  let msb : Int := e + (bitLen m : Int) - 1
  let qu := msb - f.mb
  let q := max qu f.qmin
  let r := roundAt mode neg m e sticky q
  let u := roundAt mode neg m e sticky qu
  let mag := (q - f.qmin).toNat * 2 ^ f.mb + r.1
  -- tiny: rounded as though the exponent were unbounded, below the smallest normal magnitude 2^(qmin + mb)
  let tiny := decide (qu < f.qmin) && decide (u.1 < 2 ^ f.mb * 2 ^ (f.qmin - qu).toNat)
  if f.maxEnc < mag then (f.overflow mode neg, fOF + fNX)
  else (f.sign neg mag, (if r.2 then fNX else 0) + (if tiny && r.2 then fUF else 0))

/-- A result that is a NaN: canonical, with NV when a signalling NaN or an invalid operation caused it (R38). -/
def Fmt.nanResult (f : Fmt) (invalid : Bool) : Nat × Nat := (f.canonNaN, if invalid then fNV else 0)

/-- The value is a NaN. -/
def Num.isNaN : Num → Bool | .nan _ => true | _ => false
/-- The value is a signalling NaN. -/
def Num.isSNaN : Num → Bool | .nan s => s | _ => false
/-- The sign of a value. -/
def Num.neg : Num → Bool | .nan _ => false | .inf n => n | .fin n _ _ => n
/-- The value is a zero. -/
def Num.isZero : Num → Bool | .fin _ 0 _ => true | _ => false
/-- The value with its sign changed. -/
def Num.flip : Num → Num | .nan s => .nan s | .inf n => .inf (!n) | .fin n m e => .fin (!n) m e

/-- Rounds a decoded value into a format: the conversion rule of R49 for IEEE destinations. -/
def Fmt.ofNum (f : Fmt) (mode : Nat) (x : Num) : Nat × Nat :=
  match x with
  | .nan s => f.nanResult s
  | .inf n => (f.infEnc + if n then f.signBit else 0, 0)
  | .fin n m e => f.round mode n m e false

/-- The exact sum of two finite values as sign, magnitude, exponent; a zero sum is −0 when both are −0, or on exact
cancellation in RDN. -/
def addExact (mode : Nat) (n1 : Bool) (m1 : Nat) (e1 : Int) (n2 : Bool) (m2 : Nat) (e2 : Int) : Bool × Nat × Int :=
  let e := min e1 e2
  let a : Int := (if n1 then -1 else 1) * ((m1 * 2 ^ (e1 - e).toNat : Nat) : Int)
  let b : Int := (if n2 then -1 else 1) * ((m2 * 2 ^ (e2 - e).toNat : Nat) : Int)
  let s := a + b
  if s = 0 then ((if n1 == n2 then n1 else mode == 3), 0, e)
  else (decide (s < 0), s.natAbs, e)

/-- Floating-point sum of decoded values (R38, R48, R181). -/
def Fmt.addNum (f : Fmt) (mode : Nat) (x y : Num) : Nat × Nat :=
  match x, y with
  | .nan s, y => f.nanResult (s || y.isSNaN)
  | .inf _, .nan s => f.nanResult s
  | .fin _ _ _, .nan s => f.nanResult s
  | .inf a, .inf b => if a == b then (f.infEnc + (if a then f.signBit else 0), 0) else f.nanResult true
  | .inf a, .fin _ _ _ => (f.infEnc + (if a then f.signBit else 0), 0)
  | .fin _ _ _, .inf b => (f.infEnc + (if b then f.signBit else 0), 0)
  | .fin n1 m1 e1, .fin n2 m2 e2 =>
    let r := addExact mode n1 m1 e1 n2 m2 e2
    f.round mode r.1 r.2.1 r.2.2 false

/-- Exact product of decoded values; an invalid product is a signalling NaN standing for NV. -/
def mulNum (x y : Num) : Num :=
  match x, y with
  | .nan s, y => .nan (s || y.isSNaN)
  | .inf _, .nan s => .nan s
  | .fin _ _ _, .nan s => .nan s
  | .inf a, .inf b => .inf (a != b)
  | .inf a, .fin b m _ => if m = 0 then .nan true else .inf (a != b)
  | .fin a m _, .inf b => if m = 0 then .nan true else .inf (a != b)
  | .fin a m1 e1, .fin b m2 e2 => .fin (a != b) (m1 * m2) (e1 + e2)

/-- Floating-point product. -/
def Fmt.mul (f : Fmt) (mode : Nat) (x y : Num) : Nat × Nat := f.ofNum mode (mulNum x y)

/-- Fused x × y + z, rounded once. -/
def Fmt.fma (f : Fmt) (mode : Nat) (x y z : Num) : Nat × Nat := f.addNum mode (mulNum x y) z

/-- Floating-point quotient (R181): x / 0 raises DZ for a finite nonzero x. -/
def Fmt.div (f : Fmt) (mode : Nat) (x y : Num) : Nat × Nat :=
  let inf (n : Bool) : Nat := f.infEnc + if n then f.signBit else 0
  match x, y with
  | .nan s, y => f.nanResult (s || y.isSNaN)
  | .inf _, .nan s => f.nanResult s
  | .fin _ _ _, .nan s => f.nanResult s
  | .inf _, .inf _ => f.nanResult true
  | .inf a, .fin b _ _ => (inf (a != b), 0)
  | .fin a _ _, .inf b => (f.sign (a != b) 0, 0)
  | .fin a m1 e1, .fin b m2 e2 =>
    if m2 = 0 then (if m1 = 0 then f.nanResult true else (inf (a != b), fDZ))
    else if m1 = 0 then (f.sign (a != b) 0, 0)
    else
      let k := f.mb + 4 + bitLen m2
      let n := m1 * 2 ^ k
      f.round mode (a != b) (n / m2) (e1 - e2 - (k : Nat)) (n % m2 != 0)

/-- Integer square root by bits, from bit `i` down. -/
def isqrtFrom (n : Nat) (r : Nat) : Nat → Nat
  | 0 => r
  | i + 1 => let t := r + 2 ^ i; isqrtFrom n (if t * t ≤ n then t else r) i

/-- The largest r with r² ≤ n. -/
def isqrt (n : Nat) : Nat := isqrtFrom n 0 (bitLen n / 2 + 1)

/-- Floating-point square root: of −0 is −0, of a negative value invalid. -/
def Fmt.sqrt (f : Fmt) (mode : Nat) (x : Num) : Nat × Nat :=
  match x with
  | .nan s => f.nanResult s
  | .inf n => if n then f.nanResult true else (f.infEnc, 0)
  | .fin n m e =>
    if m = 0 then (f.sign n 0, 0)
    else if n then f.nanResult true
    else
      let k := 2 * (f.mb + 4) + (if e % 2 = 0 then 0 else 1)
      let v := m * 2 ^ k
      let r := isqrt v
      f.round mode false r ((e - (k : Nat)) / 2) (r * r != v)

/-- Two decoded numbers compared: less, equal; none when either is a NaN. -/
def numCmp (x y : Num) : Option Ordering :=
  match x, y with
  | .nan _, _ => none
  | _, .nan _ => none
  | .inf a, .inf b => some (if a == b then .eq else if a then .lt else .gt)
  | .inf a, .fin _ _ _ => some (if a then .lt else .gt)
  | .fin _ _ _, .inf b => some (if b then .gt else .lt)
  | .fin n1 m1 e1, .fin n2 m2 e2 =>
    let e := min e1 e2
    let a : Int := (if n1 then -1 else 1) * ((m1 * 2 ^ (e1 - e).toNat : Nat) : Int)
    let b : Int := (if n2 then -1 else 1) * ((m2 * 2 ^ (e2 - e).toNat : Nat) : Int)
    some (compare a b)

/-- minimumNumber (or maximumNumber) of two encodings, with −0 below +0: the operand's bits, or the canonical NaN when both
are NaN (R182, R330). `nvQuiet` raises NV for quiet NaNs too. -/
def Fmt.minMax (f : Fmt) (isMax nvQuiet : Bool) (a b : Nat) : Nat × Nat :=
  let x := f.decode a
  let y := f.decode b
  let nv := x.isSNaN || y.isSNaN || (nvQuiet && (x.isNaN || y.isNaN))
  let fl := if nv then fNV else 0
  if x.isNaN && y.isNaN then (f.canonNaN, fl)
  else if x.isNaN then (b, fl)
  else if y.isNaN then (a, fl)
  else
    let aFirst := match numCmp x y with
      | some .lt => true
      | some .gt => false
      | _ => x.neg || !y.neg
    (if aFirst != isMax then a else b, fl)

/-! ## SH8 (R43, R44, R50) -/

/-- A 4-bit SH8 term in units of 2^-6. -/
def sh8Term (t : Nat) : Int :=
  let c := t % 8
  if c = 7 then 0 else (if t / 8 % 2 = 1 then -1 else 1) * ((2 ^ (6 - c) : Nat) : Int)

/-- An SH8 byte's value in units of 2^-6. -/
def sh8Val (b : Nat) : Int := sh8Term (b / 16 % 16) + sh8Term (b % 16)

/-- The value of an SH8 byte; it has no −0. -/
def sh8Decode (b : Nat) : Num := let v := sh8Val b; .fin (decide (v < 0)) v.natAbs (-6)

/-- A byte is in the written form of R44 for a magnitude: one term, two terms of one sign, or two of opposite signs with
the larger first. -/
def sh8Forms (u : Nat) : List Nat :=
  let terms := spanOf id 0 7
  let one := terms.filter (fun c => 2 ^ (6 - c) == u) |>.map (fun c => c * 16 + 7)
  let same := terms.flatMap (fun c => (terms.filter (fun d => c ≤ d && 2 ^ (6 - c) + 2 ^ (6 - d) == u)).map (fun d => c * 16 + d))
  let opp := terms.flatMap (fun c => (terms.filter (fun d => c < d && 2 ^ (6 - c) == u + 2 ^ (6 - d))).map (fun d => c * 16 + 8 + d))
  if u = 0 then [0x77] else one ++ same ++ opp

/-- The canonical byte of a representable magnitude in units of 2^-6 (R44). -/
def sh8Enc (neg : Bool) (u : Nat) : Nat :=
  let b := (sh8Forms u).headD 0x77
  if !neg || u = 0 then b
  else
    let t1 := (b / 16 + 8) % 16
    let t2 := if b % 8 = 7 then 7 else (b % 16 + 8) % 16
    t1 * 16 + t2

/-- The representable magnitudes of SH8 in units of 2^-6, rising. -/
def sh8Mags : List Nat := (spanOf id 0 129).filter (fun u => !(sh8Forms u).isEmpty)

/-- A finite value into SH8 (R48, R50). -/
def sh8Round (mode : Nat) (neg : Bool) (m : Nat) (e : Int) : Nat × Nat :=
  if m = 0 then (0x77, 0) else
  -- compare u × 2^-6 with m × 2^e
  let lo := min e (-6)
  let x := m * 2 ^ (e - lo).toNat
  let unit := 2 ^ (-6 - lo).toNat
  if 128 * unit < x then (if neg then 0x88 else 0x00, fOF + fNX) else
  let below := (sh8Mags.filter (fun u => decide (u * unit ≤ x))).getLastD 0
  let above := (sh8Mags.find? (fun u => decide (x ≤ u * unit))).getD 128
  let u := if below = above then below else match mode with
    | 1 => below
    | 2 => if neg then below else above
    | 3 => if neg then above else below
    | _ => if x - below * unit ≤ above * unit - x then below else above
  let inexact := u * unit != x
  (sh8Enc neg u, (if inexact then fNX else 0) + (if inexact && u == 0 then fUF else 0))

/-! ## Conversions (R49) -/

/-- An integer conversion index: width and signedness (R148). -/
def ciInt (c : Nat) : Option (Nat × Bool) :=
  match c with
  | 0 => some (8, true) | 1 => some (16, true) | 2 => some (32, true) | 3 => some (64, true)
  | 4 => some (8, false) | 5 => some (16, false) | 6 => some (32, false) | 7 => some (64, false)
  | _ => none

/-- The format of a conversion index with an exponent. -/
def ciFmt (c : Nat) : Option Fmt :=
  match c with
  | 8 => some f4 | 9 => some f8 | 11 => some bf16 | 12 => some fp32 | 13 => some fp64
  | _ => none

/-- Width in bits of a conversion index's format. -/
def ciWidth (c : Nat) : Nat :=
  match ciInt c with
  | some (w, _) => w
  | none => match ciFmt c with | some f => f.width | none => 8

/-- The value of a source of a conversion. -/
def ciDecode (c : Nat) (x : Nat) : Num :=
  match ciInt c with
  | some (w, signed) =>
    let v := x % 2 ^ w
    if signed && decide (2 ^ (w - 1) ≤ v) then .fin true (2 ^ w - v) 0 else .fin false v 0
  | none => match ciFmt c with
    | some f => f.decode (x % 2 ^ f.width)
    | none => sh8Decode (x % 256)

/-- A value into an integer format: rounded in the mode, or saturated with NV (R49). -/
def intOfNum (mode w : Nat) (signed : Bool) (x : Num) : Nat × Nat :=
  let mode := if mode = 4 then 0 else mode
  let hi := if signed then 2 ^ (w - 1) - 1 else 2 ^ w - 1
  let lo := if signed then 2 ^ (w - 1) else 0
  match x with
  | .nan _ => (0, fNV)
  | .inf n => (if n then lo % 2 ^ w else hi, fNV)
  | .fin n m e =>
    let r := roundAt mode n m e false 0
    if n then
      if lo < r.1 then (lo % 2 ^ w, fNV)
      else ((2 ^ w - r.1) % 2 ^ w, (if r.2 then fNX else 0) + (if r.2 && r.1 == 0 then fUF else 0))
    else if hi < r.1 then (hi, fNV)
    else (r.1, (if r.2 then fNX else 0) + (if r.2 && r.1 == 0 then fUF else 0))

/-- A value into a destination of a conversion (R49). -/
def ciEncode (mode c : Nat) (x : Num) : Nat × Nat :=
  match ciInt c with
  | some (w, signed) => intOfNum mode w signed x
  | none => match ciFmt c with
    | some f =>
      if f.ieee then f.ofNum mode x
      else match x with
        | .nan s => if f.mb = 3 then (0x80, if s then fNV else 0) else (0, fNV)
        | .inf n => (f.maxEnc + (if n then f.signBit else 0), fNV)
        | .fin n m e => f.round mode n m e false
    | none => match x with
      | .nan _ => (0x77, fNV)
      | .inf n => (if n then 0x88 else 0x00, fNV)
      | .fin n m e => sh8Round mode n m e

/-- A conversion between two indexes of R148. -/
def convert (mode src dst : Nat) (x : Nat) : Nat × Nat := ciEncode mode dst (ciDecode src x)

/-- The rounding mode of cr.frm (R46). -/
def modeOf (frm : Word) : Nat := frm.toNat % 8

end Sys2Proof.Machine
end

