-- ==== Sys2Proof/Machine/Alu.lean ====
section
/-! DEFINITION. The scalar majors ALU, ALUI, FIMM, BR and JMP and the compact forms that are plain arithmetic or control
transfers (spec/09_scalar_instructions.md R158 to R178; spec/08 R150). -/

namespace Sys2Proof.Machine
open Host

/-- A two-operand operation at the width of W (R158). -/
def atWidth (w : BitVec 1) (f : Word → Word → Word) (g : BitVec 32 → BitVec 32 → BitVec 32) (a b : Word) : Word :=
  if w = 1 then (g (a.setWidth 32) (b.setWidth 32)).signExtend 64 else f a b

/-- Signed minimum. -/
def sminB {n : Nat} (a b : BitVec n) : BitVec n := if a.slt b then a else b
/-- Signed maximum. -/
def smaxB {n : Nat} (a b : BitVec n) : BitVec n := if a.slt b then b else a
/-- Unsigned minimum. -/
def uminB {n : Nat} (a b : BitVec n) : BitVec n := if a.ult b then a else b
/-- Unsigned maximum. -/
def umaxB {n : Nat} (a b : BitVec n) : BitVec n := if a.ult b then b else a

/-- High half of the signed product (R162). -/
def mulHighS {n : Nat} (a b : BitVec n) : BitVec n := ((a.signExtend (2 * n)) * (b.signExtend (2 * n))).extractLsb' n n
/-- High half of the unsigned product (R162). -/
def mulHighU {n : Nat} (a b : BitVec n) : BitVec n := ((a.setWidth (2 * n)) * (b.setWidth (2 * n))).extractLsb' n n

/-- Signed quotient, rounded toward zero; by zero it is all ones, and the one overflow wraps (R163). -/
def divS {n : Nat} (a b : BitVec n) : BitVec n := if b = 0 then BitVec.allOnes n else BitVec.ofInt n (a.toInt.tdiv b.toInt)
/-- Unsigned quotient (R163). -/
def divU {n : Nat} (a b : BitVec n) : BitVec n := if b = 0 then BitVec.allOnes n else a / b
/-- Signed remainder with the sign of the dividend (R163). -/
def remS {n : Nat} (a b : BitVec n) : BitVec n := if b = 0 then a else BitVec.ofInt n (a.toInt.tmod b.toInt)
/-- Unsigned remainder (R163). -/
def remU {n : Nat} (a b : BitVec n) : BitVec n := if b = 0 then a else a % b

/-- Zero bits above the highest set bit of an `n`-bit number (R164). -/
def clzN (n v : Nat) : Nat := n - bitLen (v % 2 ^ n)
/-- Zero bits below the lowest set bit, looking at `n` bits (R164). -/
def ctzN : Nat → Nat → Nat
  | 0, _ => 0
  | n + 1, v => if v % 2 = 1 then 0 else 1 + ctzN n (v / 2)
/-- Set bits among the low `n` (R164). -/
def popN : Nat → Nat → Nat
  | 0, _ => 0
  | n + 1, v => v % 2 + popN n (v / 2)

/-- A condition of CMP (R166): EQ, LT, LTU, TST. -/
def ccHolds {n : Nat} (cc : BitVec 2) (a b : BitVec n) : Bool :=
  match cc.toNat with | 0 => a == b | 1 => a.slt b | 2 => a.ult b | _ => (a &&& b) != 0

/-- A condition at the width of W. -/
def ccAt (w : BitVec 1) (cc : BitVec 2) (a b : Word) : Bool :=
  if w = 1 then ccHolds cc (a.setWidth 32 : BitVec 32) (b.setWidth 32) else ccHolds cc a b

/-- An ALU instruction with a register or constant operand. -/
def aluM (bits : Word) (k : BitVec 1) (rb ra rd : BitVec 5) (lat : Nat) (f : Word → Word → Word) : M Unit := do
  readyM (ra :: opbRegs k rb) [] [rd] []
  let a ← src ra
  let b ← opb k rb bits
  put rd (f a b) lat

/-- An instruction of one source register. -/
def unaryM (ra rd : BitVec 5) (lat : Nat) (f : Word → Word) : M Unit := do
  readyM [ra] [] [rd] []
  let a ← src ra
  put rd (f a) lat

/-- Division by zero traps with DZTRAP set (R163). -/
def dzCheck (w : BitVec 1) (b : Word) : M Unit := do
  let c ← getC
  need (!(c.cr.frm.getLsbD 3 && (if w = 1 then (b.setWidth 32 : BitVec 32) == 0 else b == 0))) cDIVZERO 0

/-- A division with a register or constant divisor. -/
def divM (bits : Word) (k w : BitVec 1) (rb ra rd : BitVec 5) (f : Word → Word → Word) : M Unit := do
  readyM (ra :: opbRegs k rb) [] [rd] []
  let a ← src ra
  let b ← opb k rb bits
  dzCheck w b
  put rd (f a b) 0

/-- A division with a literal divisor. -/
def divLitM (w : BitVec 1) (ra rd : BitVec 5) (lit : BitVec 32) (f : Word → Word → Word) : M Unit := do
  readyM [ra] [] [rd] []
  let a ← src ra
  dzCheck w (litAlu lit)
  put rd (f a (litAlu lit)) 0

/-- The target of a branch or jump of length `len`, whose PC has moved by `len` already (R135, R142). -/
def target (len : Nat) (d : BitVec 53) : M (BitVec 53) := do return (← getC).pc - BitVec.ofNat 53 len + d

/-- A conditional branch on two registers (R172). -/
def branchM (off : BitVec 12) (rb ra : BitVec 5) (taken : Word → Word → Bool) : M Unit := do
  readyM [ra, rb] [] [] []
  let a ← src ra
  let b ← src rb
  if taken a b then jump (← target 4 (halfOff off))

/-- A conditional branch on a predicate (R173). -/
def predBranchM (off : BitVec 12) (pa : BitVec 3) (when_ : Bool) : M Unit := do
  readyM [] [pa] [] []
  let p ← srcP pa
  if p == when_ then jump (← target 4 (halfOff off))

/-- The 64-bit link value NPC. -/
def linkWord : M Word := do return (← getC).pc.setWidth 64

/-- A jump through a register (R175). -/
def jalrM (ra rd : BitVec 5) (d : BitVec 53) : M Unit := do
  readyM [ra] [] [rd] []
  let a ← src ra
  let t := (a.setWidth 53 : BitVec 53) + d
  need (!t.getLsbD 0) cALIGN (t.setWidth 64)
  put rd (← linkWord) 1
  jump t

/-- A 20-bit immediate in bits [31:12] (R141, R169, R170). -/
def imm20 (imm : BitVec 20) : BitVec 32 := imm ++ (0 : BitVec 12)

/-- FADDI and FMULI: an FP32 operation on wd and an F20 constant (R171). -/
def fimmM (imm : BitVec 20) (rd : BitVec 5) (f : Nat → Num → Num → Nat × Nat) : M Unit := do
  readyM [rd] [] [rd] []
  let d ← src rd
  let c ← getC
  let r := f (modeOf c.cr.frm) (fp32.decode (d.toNat % 2 ^ 32)) (fp32.decode (imm20 imm).toNat)
  put rd (BitVec.ofNat 64 r.1) 0
  raiseFlags (BitVec.ofNat 64 r.2)

/-- The result of ADD at a width (R161). -/
def addRes (w : BitVec 1) : Word → Word → Word := atWidth w (· + ·) (· + ·)

/-- ADD (R161). -/
def execAdd (k w : BitVec 1) (rb ra rd : BitVec 5) (stl : BitVec 2) (s : State) : Outcome State Fault Refusal :=
  issue 4 stl (aluM (instrBits (.add k w rb ra rd stl)) k rb ra rd 1 (addRes w)) s

/-- ADD with a literal (R161, R151). -/
def execAddL (w : BitVec 1) (ra rd : BitVec 5) (stl : BitVec 2) (lit : BitVec 32) (s : State) : Outcome State Fault Refusal :=
  issue 8 stl (unaryM ra rd 1 fun a => addRes w a (litAlu lit)) s

/-- The result of SUB at a width (R161). -/
def subRes (w : BitVec 1) : Word → Word → Word := atWidth w (· - ·) (· - ·)

/-- SUB (R161). -/
def execSub (k w : BitVec 1) (rb ra rd : BitVec 5) (stl : BitVec 2) (s : State) : Outcome State Fault Refusal :=
  issue 4 stl (aluM (instrBits (.sub k w rb ra rd stl)) k rb ra rd 1 (subRes w)) s

/-- SUB with a literal (R161, R151). -/
def execSubL (w : BitVec 1) (ra rd : BitVec 5) (stl : BitVec 2) (lit : BitVec 32) (s : State) : Outcome State Fault Refusal :=
  issue 8 stl (unaryM ra rd 1 fun a => subRes w a (litAlu lit)) s

/-- The result of AND at a width (R161). -/
def andRes (w : BitVec 1) : Word → Word → Word := atWidth w (· &&& ·) (· &&& ·)

/-- AND (R161). -/
def execAnd (k w : BitVec 1) (rb ra rd : BitVec 5) (stl : BitVec 2) (s : State) : Outcome State Fault Refusal :=
  issue 4 stl (aluM (instrBits (.and k w rb ra rd stl)) k rb ra rd 1 (andRes w)) s

/-- AND with a literal (R161, R151). -/
def execAndL (w : BitVec 1) (ra rd : BitVec 5) (stl : BitVec 2) (lit : BitVec 32) (s : State) : Outcome State Fault Refusal :=
  issue 8 stl (unaryM ra rd 1 fun a => andRes w a (litAlu lit)) s

/-- The result of OR at a width (R161). -/
def orRes (w : BitVec 1) : Word → Word → Word := atWidth w (· ||| ·) (· ||| ·)

/-- OR (R161). -/
def execOr (k w : BitVec 1) (rb ra rd : BitVec 5) (stl : BitVec 2) (s : State) : Outcome State Fault Refusal :=
  issue 4 stl (aluM (instrBits (.or k w rb ra rd stl)) k rb ra rd 1 (orRes w)) s

/-- OR with a literal (R161, R151). -/
def execOrL (w : BitVec 1) (ra rd : BitVec 5) (stl : BitVec 2) (lit : BitVec 32) (s : State) : Outcome State Fault Refusal :=
  issue 8 stl (unaryM ra rd 1 fun a => orRes w a (litAlu lit)) s

/-- The result of XOR at a width (R161). -/
def xorRes (w : BitVec 1) : Word → Word → Word := atWidth w (· ^^^ ·) (· ^^^ ·)

/-- XOR (R161). -/
def execXor (k w : BitVec 1) (rb ra rd : BitVec 5) (stl : BitVec 2) (s : State) : Outcome State Fault Refusal :=
  issue 4 stl (aluM (instrBits (.xor k w rb ra rd stl)) k rb ra rd 1 (xorRes w)) s

/-- XOR with a literal (R161, R151). -/
def execXorL (w : BitVec 1) (ra rd : BitVec 5) (stl : BitVec 2) (lit : BitVec 32) (s : State) : Outcome State Fault Refusal :=
  issue 8 stl (unaryM ra rd 1 fun a => xorRes w a (litAlu lit)) s

/-- The result of ANDN at a width (R161). -/
def andnRes (w : BitVec 1) : Word → Word → Word := atWidth w (fun a b => a &&& ~~~b) (fun a b => a &&& ~~~b)

/-- ANDN (R161). -/
def execAndn (k w : BitVec 1) (rb ra rd : BitVec 5) (stl : BitVec 2) (s : State) : Outcome State Fault Refusal :=
  issue 4 stl (aluM (instrBits (.andn k w rb ra rd stl)) k rb ra rd 1 (andnRes w)) s

/-- ANDN with a literal (R161, R151). -/
def execAndnL (w : BitVec 1) (ra rd : BitVec 5) (stl : BitVec 2) (lit : BitVec 32) (s : State) : Outcome State Fault Refusal :=
  issue 8 stl (unaryM ra rd 1 fun a => andnRes w a (litAlu lit)) s

/-- The result of SLL at a width (R161). -/
def sllRes (w : BitVec 1) : Word → Word → Word := atWidth w (fun a b => a <<< (b.toNat % 64)) (fun a b => a <<< (b.toNat % 32))

/-- SLL (R161). -/
def execSll (k w : BitVec 1) (rb ra rd : BitVec 5) (stl : BitVec 2) (s : State) : Outcome State Fault Refusal :=
  issue 4 stl (aluM (instrBits (.sll k w rb ra rd stl)) k rb ra rd 1 (sllRes w)) s

/-- SLL with a literal (R161, R151). -/
def execSllL (w : BitVec 1) (ra rd : BitVec 5) (stl : BitVec 2) (lit : BitVec 32) (s : State) : Outcome State Fault Refusal :=
  issue 8 stl (unaryM ra rd 1 fun a => sllRes w a (litAlu lit)) s

/-- The result of SRL at a width (R161). -/
def srlRes (w : BitVec 1) : Word → Word → Word := atWidth w (fun a b => a >>> (b.toNat % 64)) (fun a b => a >>> (b.toNat % 32))

/-- SRL (R161). -/
def execSrl (k w : BitVec 1) (rb ra rd : BitVec 5) (stl : BitVec 2) (s : State) : Outcome State Fault Refusal :=
  issue 4 stl (aluM (instrBits (.srl k w rb ra rd stl)) k rb ra rd 1 (srlRes w)) s

/-- SRL with a literal (R161, R151). -/
def execSrlL (w : BitVec 1) (ra rd : BitVec 5) (stl : BitVec 2) (lit : BitVec 32) (s : State) : Outcome State Fault Refusal :=
  issue 8 stl (unaryM ra rd 1 fun a => srlRes w a (litAlu lit)) s

/-- The result of SRA at a width (R161). -/
def sraRes (w : BitVec 1) : Word → Word → Word := atWidth w (fun a b => a.sshiftRight (b.toNat % 64)) (fun a b => a.sshiftRight (b.toNat % 32))

/-- SRA (R161). -/
def execSra (k w : BitVec 1) (rb ra rd : BitVec 5) (stl : BitVec 2) (s : State) : Outcome State Fault Refusal :=
  issue 4 stl (aluM (instrBits (.sra k w rb ra rd stl)) k rb ra rd 1 (sraRes w)) s

/-- SRA with a literal (R161, R151). -/
def execSraL (w : BitVec 1) (ra rd : BitVec 5) (stl : BitVec 2) (lit : BitVec 32) (s : State) : Outcome State Fault Refusal :=
  issue 8 stl (unaryM ra rd 1 fun a => sraRes w a (litAlu lit)) s

/-- The result of ROR at a width (R161). -/
def rorRes (w : BitVec 1) : Word → Word → Word := atWidth w (fun a b => a.rotateRight (b.toNat % 64)) (fun a b => a.rotateRight (b.toNat % 32))

/-- ROR (R161). -/
def execRor (k w : BitVec 1) (rb ra rd : BitVec 5) (stl : BitVec 2) (s : State) : Outcome State Fault Refusal :=
  issue 4 stl (aluM (instrBits (.ror k w rb ra rd stl)) k rb ra rd 1 (rorRes w)) s

/-- ROR with a literal (R161, R151). -/
def execRorL (w : BitVec 1) (ra rd : BitVec 5) (stl : BitVec 2) (lit : BitVec 32) (s : State) : Outcome State Fault Refusal :=
  issue 8 stl (unaryM ra rd 1 fun a => rorRes w a (litAlu lit)) s

/-- The result of MUL at a width (R162). -/
def mulRes (w : BitVec 1) : Word → Word → Word := atWidth w (· * ·) (· * ·)

/-- MUL (R162). -/
def execMul (k w : BitVec 1) (rb ra rd : BitVec 5) (stl : BitVec 2) (s : State) : Outcome State Fault Refusal :=
  issue 4 stl (aluM (instrBits (.mul k w rb ra rd stl)) k rb ra rd 3 (mulRes w)) s

/-- MUL with a literal (R162, R151). -/
def execMulL (w : BitVec 1) (ra rd : BitVec 5) (stl : BitVec 2) (lit : BitVec 32) (s : State) : Outcome State Fault Refusal :=
  issue 8 stl (unaryM ra rd 3 fun a => mulRes w a (litAlu lit)) s

/-- The result of MULH at a width (R162). -/
def mulhRes (w : BitVec 1) : Word → Word → Word := atWidth w mulHighS mulHighS

/-- MULH (R162). -/
def execMulh (k w : BitVec 1) (rb ra rd : BitVec 5) (stl : BitVec 2) (s : State) : Outcome State Fault Refusal :=
  issue 4 stl (aluM (instrBits (.mulh k w rb ra rd stl)) k rb ra rd 3 (mulhRes w)) s

/-- MULH with a literal (R162, R151). -/
def execMulhL (w : BitVec 1) (ra rd : BitVec 5) (stl : BitVec 2) (lit : BitVec 32) (s : State) : Outcome State Fault Refusal :=
  issue 8 stl (unaryM ra rd 3 fun a => mulhRes w a (litAlu lit)) s

/-- The result of MULHU at a width (R162). -/
def mulhuRes (w : BitVec 1) : Word → Word → Word := atWidth w mulHighU mulHighU

/-- MULHU (R162). -/
def execMulhu (k w : BitVec 1) (rb ra rd : BitVec 5) (stl : BitVec 2) (s : State) : Outcome State Fault Refusal :=
  issue 4 stl (aluM (instrBits (.mulhu k w rb ra rd stl)) k rb ra rd 3 (mulhuRes w)) s

/-- MULHU with a literal (R162, R151). -/
def execMulhuL (w : BitVec 1) (ra rd : BitVec 5) (stl : BitVec 2) (lit : BitVec 32) (s : State) : Outcome State Fault Refusal :=
  issue 8 stl (unaryM ra rd 3 fun a => mulhuRes w a (litAlu lit)) s

/-- The result of DIV at a width (R163). -/
def divRes (w : BitVec 1) : Word → Word → Word := atWidth w divS divS

/-- DIV (R163). -/
def execDiv (k w : BitVec 1) (rb ra rd : BitVec 5) (stl : BitVec 2) (s : State) : Outcome State Fault Refusal :=
  issue 4 stl (divM (instrBits (.div k w rb ra rd stl)) k w rb ra rd (divRes w)) s

/-- DIV with a literal (R163, R151). -/
def execDivL (w : BitVec 1) (ra rd : BitVec 5) (stl : BitVec 2) (lit : BitVec 32) (s : State) : Outcome State Fault Refusal :=
  issue 8 stl (divLitM w ra rd lit (divRes w)) s

/-- The result of DIVU at a width (R163). -/
def divuRes (w : BitVec 1) : Word → Word → Word := atWidth w divU divU

/-- DIVU (R163). -/
def execDivu (k w : BitVec 1) (rb ra rd : BitVec 5) (stl : BitVec 2) (s : State) : Outcome State Fault Refusal :=
  issue 4 stl (divM (instrBits (.divu k w rb ra rd stl)) k w rb ra rd (divuRes w)) s

/-- DIVU with a literal (R163, R151). -/
def execDivuL (w : BitVec 1) (ra rd : BitVec 5) (stl : BitVec 2) (lit : BitVec 32) (s : State) : Outcome State Fault Refusal :=
  issue 8 stl (divLitM w ra rd lit (divuRes w)) s

/-- The result of REM at a width (R163). -/
def remRes (w : BitVec 1) : Word → Word → Word := atWidth w remS remS

/-- REM (R163). -/
def execRem (k w : BitVec 1) (rb ra rd : BitVec 5) (stl : BitVec 2) (s : State) : Outcome State Fault Refusal :=
  issue 4 stl (divM (instrBits (.rem k w rb ra rd stl)) k w rb ra rd (remRes w)) s

/-- REM with a literal (R163, R151). -/
def execRemL (w : BitVec 1) (ra rd : BitVec 5) (stl : BitVec 2) (lit : BitVec 32) (s : State) : Outcome State Fault Refusal :=
  issue 8 stl (divLitM w ra rd lit (remRes w)) s

/-- The result of REMU at a width (R163). -/
def remuRes (w : BitVec 1) : Word → Word → Word := atWidth w remU remU

/-- REMU (R163). -/
def execRemu (k w : BitVec 1) (rb ra rd : BitVec 5) (stl : BitVec 2) (s : State) : Outcome State Fault Refusal :=
  issue 4 stl (divM (instrBits (.remu k w rb ra rd stl)) k w rb ra rd (remuRes w)) s

/-- REMU with a literal (R163, R151). -/
def execRemuL (w : BitVec 1) (ra rd : BitVec 5) (stl : BitVec 2) (lit : BitVec 32) (s : State) : Outcome State Fault Refusal :=
  issue 8 stl (divLitM w ra rd lit (remuRes w)) s

/-- The result of MIN at a width (R161). -/
def minRes (w : BitVec 1) : Word → Word → Word := atWidth w sminB sminB

/-- MIN (R161). -/
def execMin (k w : BitVec 1) (rb ra rd : BitVec 5) (stl : BitVec 2) (s : State) : Outcome State Fault Refusal :=
  issue 4 stl (aluM (instrBits (.min k w rb ra rd stl)) k rb ra rd 1 (minRes w)) s

/-- MIN with a literal (R161, R151). -/
def execMinL (w : BitVec 1) (ra rd : BitVec 5) (stl : BitVec 2) (lit : BitVec 32) (s : State) : Outcome State Fault Refusal :=
  issue 8 stl (unaryM ra rd 1 fun a => minRes w a (litAlu lit)) s

/-- The result of MAX at a width (R161). -/
def maxRes (w : BitVec 1) : Word → Word → Word := atWidth w smaxB smaxB

/-- MAX (R161). -/
def execMax (k w : BitVec 1) (rb ra rd : BitVec 5) (stl : BitVec 2) (s : State) : Outcome State Fault Refusal :=
  issue 4 stl (aluM (instrBits (.max k w rb ra rd stl)) k rb ra rd 1 (maxRes w)) s

/-- MAX with a literal (R161, R151). -/
def execMaxL (w : BitVec 1) (ra rd : BitVec 5) (stl : BitVec 2) (lit : BitVec 32) (s : State) : Outcome State Fault Refusal :=
  issue 8 stl (unaryM ra rd 1 fun a => maxRes w a (litAlu lit)) s

/-- The result of MINU at a width (R161). -/
def minuRes (w : BitVec 1) : Word → Word → Word := atWidth w uminB uminB

/-- MINU (R161). -/
def execMinu (k w : BitVec 1) (rb ra rd : BitVec 5) (stl : BitVec 2) (s : State) : Outcome State Fault Refusal :=
  issue 4 stl (aluM (instrBits (.minu k w rb ra rd stl)) k rb ra rd 1 (minuRes w)) s

/-- MINU with a literal (R161, R151). -/
def execMinuL (w : BitVec 1) (ra rd : BitVec 5) (stl : BitVec 2) (lit : BitVec 32) (s : State) : Outcome State Fault Refusal :=
  issue 8 stl (unaryM ra rd 1 fun a => minuRes w a (litAlu lit)) s

/-- The result of MAXU at a width (R161). -/
def maxuRes (w : BitVec 1) : Word → Word → Word := atWidth w umaxB umaxB

/-- MAXU (R161). -/
def execMaxu (k w : BitVec 1) (rb ra rd : BitVec 5) (stl : BitVec 2) (s : State) : Outcome State Fault Refusal :=
  issue 4 stl (aluM (instrBits (.maxu k w rb ra rd stl)) k rb ra rd 1 (maxuRes w)) s

/-- MAXU with a literal (R161, R151). -/
def execMaxuL (w : BitVec 1) (ra rd : BitVec 5) (stl : BitVec 2) (lit : BitVec 32) (s : State) : Outcome State Fault Refusal :=
  issue 8 stl (unaryM ra rd 1 fun a => maxuRes w a (litAlu lit)) s

/-- CLZ (R164). -/
def execClz (w : BitVec 1) (ra rd : BitVec 5) (stl : BitVec 2) (s : State) : Outcome State Fault Refusal :=
  issue 4 stl (unaryM ra rd 1 fun a => BitVec.ofNat 64 (if w = 1 then clzN 32 (a.toNat % 2 ^ 32) else clzN 64 a.toNat)) s

/-- CTZ (R164). -/
def execCtz (w : BitVec 1) (ra rd : BitVec 5) (stl : BitVec 2) (s : State) : Outcome State Fault Refusal :=
  issue 4 stl (unaryM ra rd 1 fun a => BitVec.ofNat 64 (if w = 1 then ctzN 32 (a.toNat % 2 ^ 32) else ctzN 64 a.toNat)) s

/-- POPC (R164). -/
def execPopc (w : BitVec 1) (ra rd : BitVec 5) (stl : BitVec 2) (s : State) : Outcome State Fault Refusal :=
  issue 4 stl (unaryM ra rd 1 fun a => BitVec.ofNat 64 (if w = 1 then popN 32 (a.toNat % 2 ^ 32) else popN 64 a.toNat)) s

/-- SEL (R165). -/
def execSel (ps : BitVec 3) (rb ra rd : BitVec 5) (stl : BitVec 2) (s : State) : Outcome State Fault Refusal :=
  issue 4 stl (do
    readyM [ra, rb] [ps] [rd] []
    let a ← src ra
    let b ← src rb
    put rd (if ← srcP ps then a else b) 1) s

/-- SEL with a literal (R165). -/
def execSelL (ps : BitVec 3) (ra rd : BitVec 5) (stl : BitVec 2) (lit : BitVec 32) (s : State) : Outcome State Fault Refusal :=
  issue 8 stl (do
    readyM [ra] [ps] [rd] []
    let a ← src ra
    put rd (if ← srcP ps then a else litAlu lit) 1) s

/-- CMP (R166). -/
def execCmp (k w : BitVec 1) (rb ra : BitVec 5) (cc : BitVec 2) (pd : BitVec 3) (stl : BitVec 2) (s : State) :
    Outcome State Fault Refusal :=
  issue 4 stl (do
    readyM (ra :: opbRegs k rb) [] [] [pd]
    let a ← src ra
    let b ← opb k rb (instrBits (.cmp k w rb ra cc pd stl))
    putP pd (ccAt w cc a b) 1) s

/-- CMP with a literal (R166). -/
def execCmpL (w : BitVec 1) (ra : BitVec 5) (cc : BitVec 2) (pd : BitVec 3) (stl : BitVec 2) (lit : BitVec 32) (s : State) :
    Outcome State Fault Refusal :=
  issue 8 stl (do
    readyM [ra] [] [] [pd]
    let a ← src ra
    putP pd (ccAt w cc a (litAlu lit)) 1) s

/-- PLOG (R167): bit 2 × P(pa) + P(pb) of the truth table. -/
def execPlog (ttLo : BitVec 2) (pb : BitVec 3) (ttHi : BitVec 2) (pa pd : BitVec 3) (stl : BitVec 2) (s : State) :
    Outcome State Fault Refusal :=
  issue 4 stl (do
    readyM [] [pa, pb] [] [pd]
    let a ← srcP pa
    let b ← srcP pb
    putP pd ((ttHi ++ ttLo).getLsbD ((if a then 2 else 0) + if b then 1 else 0)) 1) s

/-- ADDI (R168). -/
def execAddi (imm : BitVec 12) (ra rd : BitVec 5) (stl : BitVec 2) (s : State) : Outcome State Fault Refusal :=
  issue 4 stl (unaryM ra rd 1 fun a => a + imm12 imm) s

/-- ANDI (R168). -/
def execAndi (imm : BitVec 12) (ra rd : BitVec 5) (stl : BitVec 2) (s : State) : Outcome State Fault Refusal :=
  issue 4 stl (unaryM ra rd 1 fun a => a &&& imm12 imm) s

/-- ORI (R168). -/
def execOri (imm : BitVec 12) (ra rd : BitVec 5) (stl : BitVec 2) (s : State) : Outcome State Fault Refusal :=
  issue 4 stl (unaryM ra rd 1 fun a => a ||| imm12 imm) s

/-- XORI (R168). -/
def execXori (imm : BitVec 12) (ra rd : BitVec 5) (stl : BitVec 2) (s : State) : Outcome State Fault Refusal :=
  issue 4 stl (unaryM ra rd 1 fun a => a ^^^ imm12 imm) s

/-- SLLI (R168). -/
def execSlli (sh : BitVec 6) (ra rd : BitVec 5) (stl : BitVec 2) (s : State) : Outcome State Fault Refusal :=
  issue 4 stl (unaryM ra rd 1 fun a => a <<< sh.toNat) s

/-- SRLI (R168). -/
def execSrli (sh : BitVec 6) (ra rd : BitVec 5) (stl : BitVec 2) (s : State) : Outcome State Fault Refusal :=
  issue 4 stl (unaryM ra rd 1 fun a => a >>> sh.toNat) s

/-- SRAI (R168). -/
def execSrai (sh : BitVec 6) (ra rd : BitVec 5) (stl : BitVec 2) (s : State) : Outcome State Fault Refusal :=
  issue 4 stl (unaryM ra rd 1 fun a => a.sshiftRight sh.toNat) s

/-- CMPI (R166). -/
def execCmpi (imm : BitVec 12) (ra : BitVec 5) (cc : BitVec 2) (pd : BitVec 3) (stl : BitVec 2) (s : State) :
    Outcome State Fault Refusal :=
  issue 4 stl (do
    readyM [ra] [] [] [pd]
    let a ← src ra
    putP pd (ccHolds cc a (imm12 imm)) 1) s

/-- LUI (R169). -/
def execLui (imm : BitVec 20) (rd : BitVec 5) (s : State) : Outcome State Fault Refusal :=
  issue 4 0 (do
    readyM [] [] [rd] []
    put rd ((imm20 imm).signExtend 64) 0) s

/-- FLI (R170). -/
def execFli (imm : BitVec 20) (rd : BitVec 5) (s : State) : Outcome State Fault Refusal :=
  issue 4 0 (do
    readyM [] [] [rd] []
    put rd ((imm20 imm).setWidth 64) 0) s

/-- FADDI (R171). -/
def execFaddi (imm : BitVec 20) (rd : BitVec 5) (s : State) : Outcome State Fault Refusal :=
  issue 4 0 (fimmM imm rd fun m x y => fp32.addNum (if m = 4 then 0 else m) x y) s

/-- FMULI (R171). -/
def execFmuli (imm : BitVec 20) (rd : BitVec 5) (s : State) : Outcome State Fault Refusal :=
  issue 4 0 (fimmM imm rd fun m x y => fp32.mul (if m = 4 then 0 else m) x y) s

/-- BEQ (R172). -/
def execBeq (off : BitVec 12) (rb ra : BitVec 5) (stl : BitVec 2) (s : State) : Outcome State Fault Refusal :=
  issue 4 stl (branchM off rb ra (fun a b => a == b)) s

/-- BNE (R172). -/
def execBne (off : BitVec 12) (rb ra : BitVec 5) (stl : BitVec 2) (s : State) : Outcome State Fault Refusal :=
  issue 4 stl (branchM off rb ra (fun a b => a != b)) s

/-- BLT (R172). -/
def execBlt (off : BitVec 12) (rb ra : BitVec 5) (stl : BitVec 2) (s : State) : Outcome State Fault Refusal :=
  issue 4 stl (branchM off rb ra (fun a b => a.slt b)) s

/-- BGE (R172). -/
def execBge (off : BitVec 12) (rb ra : BitVec 5) (stl : BitVec 2) (s : State) : Outcome State Fault Refusal :=
  issue 4 stl (branchM off rb ra (fun a b => !a.slt b)) s

/-- BLTU (R172). -/
def execBltu (off : BitVec 12) (rb ra : BitVec 5) (stl : BitVec 2) (s : State) : Outcome State Fault Refusal :=
  issue 4 stl (branchM off rb ra (fun a b => a.ult b)) s

/-- BGEU (R172). -/
def execBgeu (off : BitVec 12) (rb ra : BitVec 5) (stl : BitVec 2) (s : State) : Outcome State Fault Refusal :=
  issue 4 stl (branchM off rb ra (fun a b => !a.ult b)) s

/-- BPT (R173). -/
def execBpt (off : BitVec 12) (pa : BitVec 3) (stl : BitVec 2) (s : State) : Outcome State Fault Refusal :=
  issue 4 stl (predBranchM off pa true) s

/-- BPF (R173). -/
def execBpf (off : BitVec 12) (pa : BitVec 3) (stl : BitVec 2) (s : State) : Outcome State Fault Refusal :=
  issue 4 stl (predBranchM off pa false) s

/-- JAL (R174). -/
def execJal (off : BitVec 18) (rd : BitVec 5) (stl : BitVec 2) (s : State) : Outcome State Fault Refusal :=
  issue 4 stl (do
    readyM [] [] [rd] []
    let t ← target 4 (halfOff off)
    put rd (← linkWord) 1
    jump t) s

/-- JALR (R175). -/
def execJalr (off : BitVec 13) (ra rd : BitVec 5) (stl : BitVec 2) (s : State) : Outcome State Fault Refusal :=
  issue 4 stl (jalrM ra rd (halfOff off)) s

/-- LOOP (R176). -/
def execLoop (off : BitVec 18) (rd : BitVec 5) (stl : BitVec 2) (s : State) : Outcome State Fault Refusal :=
  issue 4 stl (do
    readyM [rd] [] [rd] []
    let c := (← src rd) - 1
    let t ← target 4 (halfOff off)
    put rd c 0
    if c != 0 then jump t) s

/-- C.ILL (R150). -/
def execCIll (n : BitVec 11) (s : State) : Outcome State Fault Refusal := issue 2 0 (trap cILLOP (instrBits (.cIll n))) s

/-- C.MOV (R178). -/
def execCMov (rs rd : BitVec 5) (s : State) : Outcome State Fault Refusal := issue 2 0 (unaryM rs rd 1 fun a => a) s

/-- C.ADDI (R178). -/
def execCAddi (imm : BitVec 6) (rd : BitVec 5) (s : State) : Outcome State Fault Refusal :=
  issue 2 0 (unaryM rd rd 1 fun a => a + imm.signExtend 64) s

/-- A compact operation of wd and ws (R178): wd is the first source. -/
def compactM (rs rd : BitVec 5) (f : Word → Word → Word) : M Unit := do
  readyM [rd, rs] [] [rd] []
  let d ← src rd
  let a ← src rs
  put rd (f d a) 1

/-- C.ADD (R178). -/
def execCAdd (rs rd : BitVec 5) (s : State) : Outcome State Fault Refusal := issue 2 0 (compactM rs rd (· + ·)) s

/-- C.SUB (R178). -/
def execCSub (rs rd : BitVec 5) (s : State) : Outcome State Fault Refusal := issue 2 0 (compactM rs rd (· - ·)) s

/-- A compact branch on a register being zero or not (R178). -/
def compactBranchM (off : BitVec 6) (rs : BitVec 5) (zero : Bool) : M Unit := do
  readyM [rs] [] [] []
  let a ← src rs
  if (a == 0) == zero then jump (← target 2 (halfOff off))

/-- C.BEQZ (R178). -/
def execCBeqz (off : BitVec 6) (rs : BitVec 5) (s : State) : Outcome State Fault Refusal := issue 2 0 (compactBranchM off rs true) s

/-- C.BNEZ (R178). -/
def execCBnez (off : BitVec 6) (rs : BitVec 5) (s : State) : Outcome State Fault Refusal := issue 2 0 (compactBranchM off rs false) s

/-- C.J (R178). -/
def execCJ (off : BitVec 11) (s : State) : Outcome State Fault Refusal :=
  issue 2 0 (do jump (← target 2 (halfOff off))) s

/-- C.RET (R178): JALR w0, lr, 0. -/
def execCRet (s : State) : Outcome State Fault Refusal := issue 2 0 (jalrM 1 0 0) s

/-- C.NOP (R178). -/
def execCNop (s : State) : Outcome State Fault Refusal := issue 2 0 (pure ()) s

end Sys2Proof.Machine
end

