-- ==== Sys2Proof/Machine/Fps.lean ====
section
/-! DEFINITION. The FPS major but the special functions
(spec/10_vector_instructions.md R180 to R186). -/

namespace Sys2Proof.Machine
open Host

/-- The format that W selects (R180). -/
def fmtOf (w : BitVec 2) : Fmt := match w.toNat with | 0 => bf16 | 1 => fp32 | _ => fp64

/-- A register's value in a format: its low bits (R39). -/
def Fmt.low (f : Fmt) (v : Word) : Nat := v.toNat % 2 ^ f.width

/-- The FP64 encoding equal to an FP32 literal; a NaN keeps its sign and significand bits (R151). -/
def widenLit (lit : Nat) : Nat :=
  let neg := lit / 2 ^ 31 % 2
  match fp32.decode lit with
  | .nan _ => neg * 2 ^ 63 + 0x7FF * 2 ^ 52 + lit % 2 ^ 23 * 2 ^ 29
  | x => (fp64.ofNum 0 x).1

/-- A literal as the second operand of an FPS instruction (R151). -/
def litFps (w : BitVec 2) (lit : BitVec 32) : Word :=
  match w.toNat with
  | 0 => (lit.setWidth 16).setWidth 64
  | 1 => lit.setWidth 64
  | _ => BitVec.ofNat 64 (widenLit lit.toNat)

/-- A result with its flags is written (R180): nothing is raised by an instruction that traps. -/
def putFlags (rd : BitVec 5) (r : Nat × Nat) (lat : Nat) : M Unit := do
  put rd (BitVec.ofNat 64 r.1) lat
  raiseFlags (BitVec.ofNat 64 r.2)

/-- An operation on two encodings of a format in a rounding mode: its encoding and flags. -/
abbrev FpOp := Fmt → Nat → Nat → Nat → Nat × Nat

/-- a + b (R181). -/
def opFadd : FpOp := fun f m a b => f.addNum m (f.decode a) (f.decode b)
/-- a − b. -/
def opFsub : FpOp := fun f m a b => f.addNum m (f.decode a) (f.decode b).flip
/-- a × b. -/
def opFmul : FpOp := fun f m a b => f.mul m (f.decode a) (f.decode b)
/-- a / b. -/
def opFdiv : FpOp := fun f m a b => f.div m (f.decode a) (f.decode b)
/-- minimumNumber (R182). -/
def opFmin : FpOp := fun f _ a b => f.minMax false false a b
/-- maximumNumber. -/
def opFmax : FpOp := fun f _ a b => f.minMax true false a b

/-- An operation on three encodings: the destination's value first. -/
abbrev FpOp3 := Fmt → Nat → Nat → Nat → Nat → Nat × Nat

/-- a × b + d (R181). -/
def opFma : FpOp3 := fun f m d a b => f.fma m (f.decode a) (f.decode b) (f.decode d)
/-- d × a + b. -/
def opFmad : FpOp3 := fun f m d a b => f.fma m (f.decode d) (f.decode a) (f.decode b)
/-- d − a × b. -/
def opFnma : FpOp3 := fun f m d a b => f.addNum m (mulNum (f.decode a) (f.decode b)).flip (f.decode d)

/-- A floating-point instruction of two sources, the second given by `ob` with the registers `rs` it reads. -/
def fp2M (op : FpOp) (w : BitVec 2) (ra rd : BitVec 5) (rs : List (BitVec 5)) (ob : M Word) (lat : Nat) : M Unit := do
  readyM (ra :: rs) [] [rd] []
  let a ← src ra
  let b ← ob
  let c ← getC
  let f := fmtOf w
  putFlags rd (op f (modeOf c.cr.frm) (f.low a) (f.low b)) lat

/-- A floating-point instruction that also reads its destination (R181). -/
def fp3M (op : FpOp3) (w : BitVec 2) (ra rd : BitVec 5) (rs : List (BitVec 5)) (ob : M Word) : M Unit := do
  readyM (ra :: (rs ++ [rd])) [] [rd] []
  let a ← src ra
  let b ← ob
  let d ← src rd
  let c ← getC
  let f := fmtOf w
  putFlags rd (op f (modeOf c.cr.frm) (f.low d) (f.low a) (f.low b)) 4

/-- A floating-point instruction of one source. -/
def fp1M (op : Fmt → Nat → Nat → Nat × Nat) (w : BitVec 2) (ra rd : BitVec 5) (lat : Nat) : M Unit := do
  readyM [ra] [] [rd] []
  let a ← src ra
  let c ← getC
  let f := fmtOf w
  putFlags rd (op f (modeOf c.cr.frm) (f.low a)) lat

/-- The sign bit of an encoding. -/
def Fmt.isNeg (f : Fmt) (x : Nat) : Bool := x / f.signBit % 2 == 1

/-- FSGN (R183): the magnitude of a with a sign; variants 0 .j, 1 .jn, 2 .jx. -/
def opFsgn (var : BitVec 2) : FpOp := fun f _ a b =>
  if (f.decode a).isNaN then (f.canonNaN, 0)
  else
    let s := match var.toNat with | 0 => f.isNeg b | 1 => !f.isNeg b | _ => f.isNeg a != f.isNeg b
    (a % f.signBit + (if s then f.signBit else 0), 0)

/-- A comparison of FCMP and its flags (R184): EQ, LT, LE, UN. -/
def fpCmp (f : Fmt) (cc : BitVec 2) (a b : Nat) : Bool × Nat :=
  let x := f.decode a
  let y := f.decode b
  let nan := x.isNaN || y.isNaN
  let snan := x.isSNaN || y.isSNaN
  let o := numCmp x y
  match cc.toNat with
  | 0 => (o == some .eq, if snan then fNV else 0)
  | 1 => (o == some .lt, if nan then fNV else 0)
  | 2 => (o == some .lt || o == some .eq, if nan then fNV else 0)
  | _ => (nan, if snan then fNV else 0)

/-- FCMP with its second operand given by `ob`. -/
def fcmpM (w : BitVec 2) (ra : BitVec 5) (cc : BitVec 2) (pd : BitVec 3) (rs : List (BitVec 5)) (ob : M Word) : M Unit := do
  readyM (ra :: rs) [] [] [pd]
  let a ← src ra
  let b ← ob
  let f := fmtOf w
  let r := fpCmp f cc (f.low a) (f.low b)
  putP pd r.1 4
  raiseFlags (BitVec.ofNat 64 r.2)

/-- The class bit of FCLASS (R185). -/
def fpClass (f : Fmt) (a : Nat) : Nat :=
  match f.decode a with
  | .nan s => if s then 8 else 9
  | .inf n => if n then 0 else 7
  | .fin n m _ => if m = 0 then (if n then 3 else 4) else if m < 2 ^ f.mb then (if n then 2 else 5) else (if n then 1 else 6)

/-- The result register of FCVT: signed integers sign-extended, all else zero-extended (R186). -/
def cvtWord (dst : Nat) (x : Nat) : Word :=
  match ciInt dst with
  | some (w, true) => if 2 ^ (w - 1) ≤ x then BitVec.ofNat 64 (2 ^ 64 - 2 ^ w + x) else BitVec.ofNat 64 x
  | _ => BitVec.ofNat 64 x

/-- FADD (R181). -/
def execFadd (k : BitVec 1) (w : BitVec 2) (rb ra rd : BitVec 5) (stl : BitVec 2) (s : State) : Outcome State Fault Refusal :=
  issue 4 stl (fp2M opFadd w ra rd (opbRegs k rb) (opb k rb (instrBits (.fadd k w rb ra rd stl))) 4) s

/-- FADD with a literal. -/
def execFaddL (w : BitVec 2) (ra rd : BitVec 5) (stl : BitVec 2) (lit : BitVec 32) (s : State) : Outcome State Fault Refusal :=
  issue 8 stl (fp2M opFadd w ra rd [] (pure (litFps w lit)) 4) s

/-- FSUB (R181). -/
def execFsub (k : BitVec 1) (w : BitVec 2) (rb ra rd : BitVec 5) (stl : BitVec 2) (s : State) : Outcome State Fault Refusal :=
  issue 4 stl (fp2M opFsub w ra rd (opbRegs k rb) (opb k rb (instrBits (.fsub k w rb ra rd stl))) 4) s

/-- FSUB with a literal. -/
def execFsubL (w : BitVec 2) (ra rd : BitVec 5) (stl : BitVec 2) (lit : BitVec 32) (s : State) : Outcome State Fault Refusal :=
  issue 8 stl (fp2M opFsub w ra rd [] (pure (litFps w lit)) 4) s

/-- FMUL (R181). -/
def execFmul (k : BitVec 1) (w : BitVec 2) (rb ra rd : BitVec 5) (stl : BitVec 2) (s : State) : Outcome State Fault Refusal :=
  issue 4 stl (fp2M opFmul w ra rd (opbRegs k rb) (opb k rb (instrBits (.fmul k w rb ra rd stl))) 4) s

/-- FMUL with a literal. -/
def execFmulL (w : BitVec 2) (ra rd : BitVec 5) (stl : BitVec 2) (lit : BitVec 32) (s : State) : Outcome State Fault Refusal :=
  issue 8 stl (fp2M opFmul w ra rd [] (pure (litFps w lit)) 4) s

/-- FDIV (R181). -/
def execFdiv (k : BitVec 1) (w : BitVec 2) (rb ra rd : BitVec 5) (stl : BitVec 2) (s : State) : Outcome State Fault Refusal :=
  issue 4 stl (fp2M opFdiv w ra rd (opbRegs k rb) (opb k rb (instrBits (.fdiv k w rb ra rd stl))) 0) s

/-- FDIV with a literal. -/
def execFdivL (w : BitVec 2) (ra rd : BitVec 5) (stl : BitVec 2) (lit : BitVec 32) (s : State) : Outcome State Fault Refusal :=
  issue 8 stl (fp2M opFdiv w ra rd [] (pure (litFps w lit)) 0) s

/-- FSQRT (R181). -/
def execFsqrt (w : BitVec 2) (ra rd : BitVec 5) (stl : BitVec 2) (s : State) : Outcome State Fault Refusal :=
  issue 4 stl (fp1M (fun f m a => f.sqrt m (f.decode a)) w ra rd 0) s

/-- FMA (R181). -/
def execFma (k : BitVec 1) (w : BitVec 2) (rb ra rd : BitVec 5) (stl : BitVec 2) (s : State) : Outcome State Fault Refusal :=
  issue 4 stl (fp3M opFma w ra rd (opbRegs k rb) (opb k rb (instrBits (.fma k w rb ra rd stl)))) s

/-- FMA with a literal. -/
def execFmaL (w : BitVec 2) (ra rd : BitVec 5) (stl : BitVec 2) (lit : BitVec 32) (s : State) : Outcome State Fault Refusal :=
  issue 8 stl (fp3M opFma w ra rd [] (pure (litFps w lit))) s

/-- FMAD (R181). -/
def execFmad (k : BitVec 1) (w : BitVec 2) (rb ra rd : BitVec 5) (stl : BitVec 2) (s : State) : Outcome State Fault Refusal :=
  issue 4 stl (fp3M opFmad w ra rd (opbRegs k rb) (opb k rb (instrBits (.fmad k w rb ra rd stl)))) s

/-- FMAD with a literal. -/
def execFmadL (w : BitVec 2) (ra rd : BitVec 5) (stl : BitVec 2) (lit : BitVec 32) (s : State) : Outcome State Fault Refusal :=
  issue 8 stl (fp3M opFmad w ra rd [] (pure (litFps w lit))) s

/-- FNMA (R181). -/
def execFnma (k : BitVec 1) (w : BitVec 2) (rb ra rd : BitVec 5) (stl : BitVec 2) (s : State) : Outcome State Fault Refusal :=
  issue 4 stl (fp3M opFnma w ra rd (opbRegs k rb) (opb k rb (instrBits (.fnma k w rb ra rd stl)))) s

/-- FNMA with a literal. -/
def execFnmaL (w : BitVec 2) (ra rd : BitVec 5) (stl : BitVec 2) (lit : BitVec 32) (s : State) : Outcome State Fault Refusal :=
  issue 8 stl (fp3M opFnma w ra rd [] (pure (litFps w lit))) s

/-- FMIN (R182). -/
def execFmin (k : BitVec 1) (w : BitVec 2) (rb ra rd : BitVec 5) (stl : BitVec 2) (s : State) : Outcome State Fault Refusal :=
  issue 4 stl (fp2M opFmin w ra rd (opbRegs k rb) (opb k rb (instrBits (.fmin k w rb ra rd stl))) 4) s

/-- FMIN with a literal. -/
def execFminL (w : BitVec 2) (ra rd : BitVec 5) (stl : BitVec 2) (lit : BitVec 32) (s : State) : Outcome State Fault Refusal :=
  issue 8 stl (fp2M opFmin w ra rd [] (pure (litFps w lit)) 4) s

/-- FMAX (R182). -/
def execFmax (k : BitVec 1) (w : BitVec 2) (rb ra rd : BitVec 5) (stl : BitVec 2) (s : State) : Outcome State Fault Refusal :=
  issue 4 stl (fp2M opFmax w ra rd (opbRegs k rb) (opb k rb (instrBits (.fmax k w rb ra rd stl))) 4) s

/-- FMAX with a literal. -/
def execFmaxL (w : BitVec 2) (ra rd : BitVec 5) (stl : BitVec 2) (lit : BitVec 32) (s : State) : Outcome State Fault Refusal :=
  issue 8 stl (fp2M opFmax w ra rd [] (pure (litFps w lit)) 4) s

/-- FSGN (R183). -/
def execFsgn (var w : BitVec 2) (rb ra rd : BitVec 5) (stl : BitVec 2) (s : State) : Outcome State Fault Refusal :=
  issue 4 stl (fp2M (opFsgn var) w ra rd [rb] (src rb) 4) s

/-- FCMP (R184). -/
def execFcmp (k : BitVec 1) (w : BitVec 2) (rb ra : BitVec 5) (cc : BitVec 2) (pd : BitVec 3) (stl : BitVec 2) (s : State) :
    Outcome State Fault Refusal :=
  issue 4 stl (fcmpM w ra cc pd (opbRegs k rb) (opb k rb (instrBits (.fcmp k w rb ra cc pd stl)))) s

/-- FCMP with a literal. -/
def execFcmpL (w : BitVec 2) (ra : BitVec 5) (cc : BitVec 2) (pd : BitVec 3) (stl : BitVec 2) (lit : BitVec 32) (s : State) :
    Outcome State Fault Refusal :=
  issue 8 stl (fcmpM w ra cc pd [] (pure (litFps w lit))) s

/-- FCLASS (R185). -/
def execFclass (w : BitVec 2) (ra rd : BitVec 5) (stl : BitVec 2) (s : State) : Outcome State Fault Refusal :=
  issue 4 stl (fp1M (fun f _ a => (2 ^ fpClass f a, 0)) w ra rd 4) s

/-- FCVT (R186). -/
def execFcvt (src dst : BitVec 4) (ra rd : BitVec 5) (stl : BitVec 2) (s : State) : Outcome State Fault Refusal :=
  issue 4 stl (do
    readyM [ra] [] [rd] []
    let a ← Machine.src ra
    let c ← getC
    let r := convert (modeOf c.cr.frm) src.toNat dst.toNat (a.toNat % 2 ^ ciWidth src.toNat)
    put rd (cvtWord dst.toNat r.1) 4
    raiseFlags (BitVec.ofNat 64 r.2)) s

end Sys2Proof.Machine
end

