-- ==== Sys2Proof/Machine/Sfu.lean ====
section
/-! DEFINITION. The special functions and the SFU's queue (spec/10_vector_instructions.md R187 to R189; spec/20 R396 source 2).
A function's value is computed in fixed point with 400 fraction bits, which no FP32 argument brings near enough to a rounding
boundary to matter, and rounded once; arguments with exact results are rounded exactly. -/

namespace Sys2Proof.Machine
open Host

/-! ## Fixed-point series -/

/-- Fraction bits of the fixed-point numbers below. -/
def fxBits : Nat := 400

/-- One in fixed point. -/
def fxOne : Nat := 2 ^ fxBits

/-- Σ t·z2^i / (2i + 1) from i = k, with alternating signs when `alt`: the arctangent and area-tangent series. -/
def oddSeries (alt : Bool) (z2 : Nat) (t k : Nat) : Nat → Nat
  | 0 => 0
  | fuel + 1 =>
    let r := oddSeries alt z2 (t * z2 / fxOne) (k + 1) fuel
    if alt then t / (2 * k + 1) - r else t / (2 * k + 1) + r

/-- atanh z for z ≤ 1/3. -/
def fxAtanh (z : Nat) : Nat := oddSeries false (z * z / fxOne) z 0 140

/-- arctan (1 / n). -/
def fxAtanInv (n : Nat) : Nat := oddSeries true (fxOne / (n * n)) (fxOne / n) 0 100

/-- ln 2. -/
def fxLn2 : Nat := 2 * fxAtanh (fxOne / 3)

/-- π, by Machin's formula. -/
def fxPi : Nat := 16 * fxAtanInv 5 - 4 * fxAtanInv 239

/-- Σ x^i / i! from the term t of index k on. -/
def expSeries (x t k : Nat) : Nat → Nat
  | 0 => 0
  | fuel + 1 => t + expSeries x (t * x / fxOne / (k + 1)) (k + 1) fuel

/-- e^x for x below 1. -/
def fxExp (x : Nat) : Nat := expSeries x fxOne 0 110

/-- The sine series from its term t of index k on; x2 is x². -/
def sinSeries (x2 t k : Nat) : Nat → Nat
  | 0 => 0
  | fuel + 1 => t - sinSeries x2 (t * x2 / fxOne / ((2 * k + 2) * (2 * k + 3))) (k + 1) fuel

/-- sin x for x up to π/2. -/
def fxSin (x : Nat) : Nat := sinSeries (x * x / fxOne) x 0 70

/-! ## The functions (R187) -/

/-- The NaN of a special function. -/
def sfuNaN (invalid : Bool) : Nat × Nat := fp32.nanResult invalid

/-- ±∞ with flags. -/
def sfuInf (neg : Bool) (fl : Nat) : Nat × Nat := (fp32.infEnc + (if neg then fp32.signBit else 0), fl)

/-- 2^a. -/
def sfuExp2 (a : Num) : Nat × Nat :=
  match a with
  | .nan s => sfuNaN s
  | .inf n => if n then (0, 0) else sfuInf false 0
  | .fin neg m e =>
    let v := m * 2 ^ (e + 149).toNat
    let q : Nat := v / 2 ^ 149
    let r := v % 2 ^ 149
    if neg = false ∧ 128 ≤ q then sfuInf false (fOF + fNX)
    else if neg = true ∧ 150 ≤ q then (0, fUF + fNX)
    else
      let n : Int := if neg then (if r = 0 then -(q : Int) else -(q : Int) - 1) else q
      let f := if neg = true ∧ r ≠ 0 then 2 ^ 149 - r else r
      if f = 0 then fp32.round 0 false 1 n false
      else fp32.round 0 false (fxExp (f * 2 ^ (fxBits - 149) * fxLn2 / fxOne)) (n - (fxBits : Nat)) true

/-- log₂ a. -/
def sfuLog2 (a : Num) : Nat × Nat :=
  match a with
  | .nan s => sfuNaN s
  | .inf n => if n then sfuNaN true else sfuInf false 0
  | .fin neg m e =>
    if m = 0 then sfuInf true fDZ
    else if neg then sfuNaN true
    else
      let h := 2 ^ (bitLen m - 1)
      let n : Int := e + (bitLen m : Int) - 1
      let l : Nat := if m = h then 0 else 2 * fxAtanh ((m - h) * fxOne / (m + h)) * fxOne / fxLn2
      let t : Int := n * (fxOne : Int) + (l : Int)
      fp32.round 0 (decide (t < 0)) t.natAbs (-(fxBits : Nat)) (m != h)

/-- 1 / a. -/
def sfuRcp (a : Num) : Nat × Nat := fp32.div 0 (.fin false 1 0) a

/-- 1 / √a. -/
def sfuRsqrt (a : Num) : Nat × Nat :=
  match a with
  | .nan s => sfuNaN s
  | .inf n => if n then sfuNaN true else (0, 0)
  | .fin neg m e =>
    if m = 0 then sfuInf neg fDZ
    else if neg then sfuNaN true
    else
      let m' := if e % 2 = 0 then m else 2 * m
      let e' : Int := if e % 2 = 0 then e else e - 1
      let r := isqrt (2 ^ 160 / m')
      fp32.round 0 false r (-80 - e' / 2) (r * r * m' != 2 ^ 160)

/-- sin (π r) for r in units of 2^-149, 0 < r ≤ 1/2, with a sign. -/
def sfuSinUnit (neg : Bool) (r : Nat) : Nat × Nat :=
  if r = 2 ^ 148 then fp32.round 0 neg 1 0 false
  else fp32.round 0 neg (fxSin (r * 2 ^ (fxBits - 149) * fxPi / fxOne)) (-(fxBits : Nat)) true

/-- sin (π a). -/
def sfuSinpi (a : Num) : Nat × Nat :=
  match a with
  | .nan s => sfuNaN s
  | .inf _ => sfuNaN true
  | .fin neg m e =>
    let v := m * 2 ^ (e + 149).toNat % 2 ^ 150
    let odd := decide (2 ^ 149 ≤ v)
    let r := v % 2 ^ 149
    if r = 0 then (fp32.sign neg 0, 0)
    else sfuSinUnit (neg != odd) (if 2 ^ 148 < r then 2 ^ 149 - r else r)

/-- cos (π a). -/
def sfuCospi (a : Num) : Nat × Nat :=
  match a with
  | .nan s => sfuNaN s
  | .inf _ => sfuNaN true
  | .fin _ m e =>
    let v := m * 2 ^ (e + 149).toNat % 2 ^ 150
    let r := if 2 ^ 149 < v then 2 ^ 150 - v else v
    if r = 2 ^ 148 then (0, 0)
    else if r < 2 ^ 148 then sfuSinUnit false (2 ^ 148 - r)
    else sfuSinUnit true (r - 2 ^ 148)

/-- An SFU function by its code (R153, R187) on FP32 bits: the result and its flags. -/
def sfuFn (fn x : Nat) : Nat × Nat :=
  let a := fp32.decode (x % 2 ^ 32)
  match fn with
  | 0 => sfuExp2 a
  | 1 => sfuLog2 a
  | 2 => sfuRcp a
  | 3 => sfuRsqrt a
  | 4 => sfuSinpi a
  | _ => sfuCospi a

/-! ## The queue (R188, R189) -/

/-- A request joins the queue of the executing core's cluster. -/
def sfuEnqueue (r : SfuReq) : M Unit := do
  orderM uSFU
  modify fun s => s.modCluster (clusterOf s.cur) fun x => { x with sfu := x.sfu ++ [r] }

/-- A scalar special function. A write stream bound to the destination takes the result in program order, so that form waits
until the queue is empty and is served at once. -/
def sfuM (fn : Nat) (ra rd : BitVec 5) : M Unit := do
  readyM [ra] [] [rd] []
  let s ← get
  if (s.me.boundTo rd.toNat).isSome && !(s.cluster (clusterOf s.cur)).sfu.isEmpty then throw .stall
  let a ← src ra
  let c ← getC
  if (c.boundTo rd.toNat).isSome then
    orderM uSFU
    putFlags rd (sfuFn fn a.toNat) 0
  else
    need (!(c.idemOn && c.imask.getLsbD rd.toNat)) cIDEMVIOL (BitVec.ofNat 64 rd.toNat)
    let k ← curK
    sfuEnqueue { core := k, ctx := c.cr.ctx, fn := fn, dest := if rd = 0 then none else some (c.regOff rd.toNat), rd := rd.toNat, vd := none, mask := 0,
                 args := [a] }

/-- FEX2 (R187). -/
def execFex2 (ra rd : BitVec 5) (stl : BitVec 2) (s : State) : Outcome State Fault Refusal := issue 4 stl (sfuM 0 ra rd) s
/-- FLG2. -/
def execFlg2 (ra rd : BitVec 5) (stl : BitVec 2) (s : State) : Outcome State Fault Refusal := issue 4 stl (sfuM 1 ra rd) s
/-- FRCP. -/
def execFrcp (ra rd : BitVec 5) (stl : BitVec 2) (s : State) : Outcome State Fault Refusal := issue 4 stl (sfuM 2 ra rd) s
/-- FRSQ. -/
def execFrsq (ra rd : BitVec 5) (stl : BitVec 2) (s : State) : Outcome State Fault Refusal := issue 4 stl (sfuM 3 ra rd) s
/-- FSINP. -/
def execFsinp (ra rd : BitVec 5) (stl : BitVec 2) (s : State) : Outcome State Fault Refusal := issue 4 stl (sfuM 4 ra rd) s
/-- FCOSP. -/
def execFcosp (ra rd : BitVec 5) (stl : BitVec 2) (s : State) : Outcome State Fault Refusal := issue 4 stl (sfuM 5 ra rd) s

/-- Word `i` of a vector register with its 32-bit element `e` replaced. -/
def setElem32 (v : List Word) (e : Nat) (x : Nat) : List Word :=
  v.mapIdx fun i w => if i = e / 2 then setField w (32 * (e % 2)) 32 x else w

/-- The values of a vector request written to the active elements, with the union of their flags. -/
def sfuVec (fn : Nat) (mask : BitVec 4096) (args : List Word) (v : List Word) : List Word × Nat :=
  args.zipIdx.foldl (fun acc a => if mask.getLsbD a.2 then
      (setElem32 acc.1 a.2 (sfuFn fn a.1.toNat).1, acc.2 ||| (sfuFn fn a.1.toNat).2) else acc) (v, 0)

/-- Flags of a request for the context it was issued in: cr.fflags while that context is current, else the FFLAGS doubleword of its block
(R127, R189). -/
def Core.sfuFlags (c : Core) (ctx : Word) (fl : Nat) : Core :=
  let f := BitVec.ofNat 64 fl
  if ctx = c.cr.ctx then { c with cr := { c.cr with fflags := c.cr.fflags ||| f } }
  else
    let a := ctx.toNat % 0x8000 + 0xD0
    { c with arr := c.arr.setWord a (c.arr.word a ||| f) }

/-- A served request: its result reaches the captured destination and its flags the context it was issued in (R189). An instruction that
waited for the result issues at a cycle that the manual does not bind (R131). -/
def Core.sfuWrite (c : Core) (r : SfuReq) : Core :=
  match r.vd with
  | some vd =>
    let w := sfuVec r.fn r.mask r.args (c.vreg vd)
    { c with vregs := tset c.vregs vd w.1, vtags := tset c.vtags vd 0x14, vpend := .v vd :: c.vpend }.sfuFlags r.ctx w.2
  | none =>
    let v := sfuFn r.fn (r.args.headD 0).toNat
    let c := match r.dest with
      | some off => { c with arr := c.arr.setWord off (BitVec.ofNat 64 v.1), vpend := .w off :: c.vpend }
      | none => c
    c.sfuFlags r.ctx v.2

/-- SFU_COMPLETE (R189): the request at the head of a cluster's queue is served. -/
def execSfuComplete (cluster : Nat) (s : State) : Outcome State Fault Refusal :=
  match (s.cluster cluster).sfu with
  | [] => .next s
  | r :: rest => .next (((s.noteIdle cluster r.core).modCluster cluster fun x => { x with sfu := rest }).modCore r.core fun c => c.sfuWrite r)

/-- cr.tval of a source 2 machine check (R396). -/
def sfuTval (r : SfuReq) : Word := BitVec.ofNat 64 (match r.vd with | some v => 0x2002 + v * 256 | none => 2 + r.rd * 256)

/-- The SFU's result check finds a mismatch a second time at the head: the request is dropped and the machine check is owed
(R189, R396). -/
def State.sfuFails (s : State) (cluster : Nat) : State :=
  match (s.cluster cluster).sfu with
  | [] => s
  | r :: rest =>
    ((s.noteIdle cluster r.core).modCluster cluster fun x => { x with sfu := rest }).modCore r.core fun c =>
      { c with sfuLost := (match r.vd with | some v => 0x10000 + v | none => r.dest.getD 0x20000, sfuTval r) :: c.sfuLost }

end Sys2Proof.Machine
end

