-- ==== Sys2Proof/Machine/Vec.lean ====
section
/-! DEFINITION. Vector lanes and the majors VA and VM (spec/10_vector_instructions.md R190 to R206). An element is a natural
number below two to its size. -/

namespace Sys2Proof.Machine
open Host

/-! ## Elements -/

/-- Elements of size `z` bits of a register (R191). -/
def elemsOf (z : Nat) (v : List Word) : List Nat := v.flatMap fun w => spanOf (fun i => w.toNat / 2 ^ (z * i) % 2 ^ z) 0 (64 / z)

/-- Digits of `z` bits put together, lowest first. -/
def joinBits (z : Nat) : List Nat → Nat
  | [] => 0
  | x :: r => x % 2 ^ z + 2 ^ z * joinBits z r

/-- `n` words of elements of size `z`. -/
def packElems (z : Nat) (xs : List Nat) : Nat → List Word
  | 0 => []
  | n + 1 => BitVec.ofNat 64 (joinBits z (xs.take (64 / z))) :: packElems z (xs.drop (64 / z)) n

/-- Tag of vector register `n`. -/
def Core.vtag (c : Core) (n : Nat) : Nat := (tget 0 c.vtags n).toNat

/-- Element count of a tag under the core's grant (R191). -/
def Core.count (c : Core) (tag : Nat) : Nat := c.grant * (64 / tagBits tag)

/-- Elements of register `n` under a tag. -/
def Core.elems (c : Core) (n tag : Nat) : List Nat := elemsOf (tagBits tag) (c.vreg n)

/-- Active bits of a mask for `e` elements. -/
def Core.active (c : Core) (mk : BitVec 3) (e : Nat) : List Bool := spanOf (c.mask mk.toNat).getLsbD 0 e

/-- Register `n` written with elements of a tag. -/
def Core.setElems (c : Core) (n tag : Nat) (xs : List Nat) : Core :=
  { c with vregs := tset c.vregs n (packElems (tagBits tag) xs c.grant), vtags := tset c.vtags n (BitVec.ofNat 8 tag) }

/-- A mask written; m0 discards, and only the bits of the grant exist (R191). -/
def Core.setMask (c : Core) (n : Nat) (m : Nat) : Core :=
  if n = 0 then c else { c with masks := tset c.masks n (BitVec.ofNat 4096 (m % 2 ^ (16 * c.grant))) }

/-- A vector register written by an instruction, with a variable latency (R131, R132). -/
def Core.putElems (c : Core) (n tag : Nat) (xs : List Nat) : Core :=
  let d := c.setElems n tag xs
  { d with vpend := .v n :: d.vpend }

/-- A mask written by an instruction, with a variable latency. -/
def Core.putMask (c : Core) (n : Nat) (m : Nat) : Core :=
  if n = 0 then c else
  let d := c.setMask n m
  { d with vpend := .m n :: d.vpend }

/-- The location of mask `n`, unless it is m0. -/
def locM (n : BitVec 3) : List Loc := if n = 0 then [] else [.m n.toNat]

/-- Bits of a list, lowest first. -/
def bitsNat : List Bool → Nat
  | [] => 0
  | b :: r => (if b then 1 else 0) + 2 * bitsNat r

/-! ## Tags (R34, R35) -/

/-- A signed integer tag. -/
def tagI (t : Nat) : Bool := decide (1 ≤ t ∧ t ≤ 4)
/-- An unsigned integer tag. -/
def tagN (t : Nat) : Bool := decide (5 ≤ t ∧ t ≤ 8)
/-- An integer tag. -/
def tagInt (t : Nat) : Bool := tagI t || tagN t
/-- BF16, FP32 or FP64. -/
def tagFp (t : Nat) : Bool := decide (0x13 ≤ t ∧ t ≤ 0x15)
/-- A pair tag (R40). -/
def tagPair (t : Nat) : Bool := decide (0x16 ≤ t ∧ t ≤ 0x17)
/-- The base format of a floating-point tag. -/
def tagFmt (t : Nat) : Fmt := match t with | 0x13 => bf16 | 0x16 => bf16 | 0x15 => fp64 | _ => fp32
/-- The conversion index of a tag that VCVT accepts (R148, R199). -/
def tagCi (t : Nat) : Option Nat := if 1 ≤ t ∧ t ≤ 8 then some (t - 1) else if 0x10 ≤ t ∧ t ≤ 0x15 then some (t - 8) else none

/-- cr.tval of FMTCHK (R194). -/
def fmtTval (r : Nat) (vb : Bool) (tag : Nat) : Word := BitVec.ofNat 64 (r + (if vb then 32 else 0) + tag * 256)

/-- A source register's tag is accepted (R35). -/
def tagM (ok : Nat → Bool) (r : BitVec 5) (vb : Bool) : M Nat := do
  let c ← getC
  let t := c.vtag r.toNat
  need (tagDefined t && ok t) cFMTCHK (fmtTval r.toNat vb t)
  return t

/-- A second source's tag agrees with the first's. -/
def sameTagM (t : Nat) (r : BitVec 5) (vb : Bool) : M Unit := do
  let c ← getC
  need (c.vtag r.toNat == t) cFMTCHK (fmtTval r.toNat vb (c.vtag r.toNat))

/-! ## The checks before execution (R137, R192, R194) -/

/-- Orders 2 and 4: the core has lanes, and the masks `ms`, the vector registers `vs` and the scalar registers are ready. -/
def vreadyM (bits : Word) (ms : List (BitVec 3)) (vs : List (BitVec 5)) (rs wd : List (BitVec 5)) : M Unit := do
  kindM isGeneral bits
  let c ← getC
  readyLocsM (rs.flatMap c.locOf ++ ms.flatMap locM ++ vs.map fun v => .v v.toNat) (wd.flatMap c.locOf)

/-- Order 6: the grant is not 0 (R192). -/
def grantM (bits : Word) : M Unit := do
  let c ← getC
  need (c.grant != 0) cILLOP bits

/-! ## Element-wise operations (R196) -/

/-- An element as an integer. -/
def elemInt (z : Nat) (signed : Bool) (x : Nat) : Int := if signed ∧ 2 ^ (z - 1) ≤ x then (x : Int) - (2 ^ z : Nat) else x

/-- An integer wrapped to `z` bits. -/
def wrapInt (z : Nat) (i : Int) : Nat := (i % ((2 ^ z : Nat) : Int)).toNat

/-- Integer element operations of R196, by VFN. -/
def intOp (op z : Nat) (sg : Bool) (a b : Nat) : Nat :=
  let x := elemInt z sg a
  let y := elemInt z sg b
  match op with
  | 0 => (a + b) % 2 ^ z
  | 1 => (a + 2 ^ z - b) % 2 ^ z
  | 2 => a * b % 2 ^ z
  | 4 => if b = 0 then 2 ^ z - 1 else wrapInt z (x.tdiv y)
  | 6 => if x ≤ y then a else b
  | 7 => if y ≤ x then a else b
  | 8 => if sg then wrapInt z x.natAbs else a
  | 9 => (2 ^ z - a) % 2 ^ z
  | _ => a

/-- Bitwise and shift operations of R196, by VFN. -/
def bitOp (op z : Nat) (a b : Nat) : Nat :=
  match op with
  | 10 => a &&& b
  | 11 => a ||| b
  | 12 => a ^^^ b
  | 13 => a * 2 ^ (b % z) % 2 ^ z
  | 14 => a / 2 ^ (b % z)
  | _ => wrapInt z ((elemInt z true a) / ((2 ^ (b % z) : Nat) : Int))

/-- Floating-point element operations of R196 on one format, by VFN. -/
def fltOp (op : Nat) (f : Fmt) (mode a b d : Nat) : Nat × Nat :=
  let nan := (f.decode a).isNaN
  match op with
  | 0 => opFadd f mode a b
  | 1 => opFsub f mode a b
  | 2 => opFmul f mode a b
  | 3 => opFma f mode d a b
  | 4 => opFdiv f mode a b
  | 5 => f.sqrt mode (f.decode a)
  | 6 => opFmin f mode a b
  | 7 => opFmax f mode a b
  | 8 => (if nan then f.canonNaN else a % f.signBit, 0)
  | _ => (if nan then f.canonNaN else (a + f.signBit) % (2 * f.signBit), 0)

/-- An element operation under a tag: pairs by halves with their flags together (R40). -/
def elemOp (op tag mode a b d : Nat) : Nat × Nat :=
  let z := tagBits tag
  if 10 ≤ op then (bitOp op z a b, 0)
  else if tagInt tag then (intOp op z (tagI tag) a b, 0)
  else
    let f := tagFmt tag
    if tagPair tag then
      let h := 2 ^ (z / 2)
      let lo := fltOp op f mode (a % h) (b % h) (d % h)
      let hi := fltOp op f mode (a / h) (b / h) (d / h)
      (lo.1 + hi.1 * h, lo.2 ||| hi.2)
    else fltOp op f mode a b d

/-- Tags that an element-wise instruction accepts, by VFN (R196). -/
def vaAccepts (op t : Nat) : Bool :=
  if 10 ≤ op ∧ op ≤ 12 then true
  else if 13 ≤ op then tagInt t || t == 0
  else if op = 3 ∨ op = 5 then tagFp t || tagPair t
  else tagInt t || tagFp t || tagPair t

/-- Elements where `act` holds replaced by `f` of the element, with the flags raised. -/
def mapActive (act : List Bool) (old : List Nat) (f : Nat → Nat × Nat) (i : Nat) : List Nat × Nat :=
  match act, old with
  | b :: bs, x :: xs =>
    let r := mapActive bs xs f (i + 1)
    if b then ((f i).1 :: r.1, (f i).2 ||| r.2) else (x :: r.1, r.2)
  | _, _ => ([], 0)

/-- The second operand's elements: a register's, or a scalar's low bits (R195). -/
def vecOperand (sc : Bool) (rb : BitVec 5) (tag n : Nat) : M (List Nat) := do
  if sc then
    let w ← src rb
    return spanOf (fun _ => w.toNat % 2 ^ tagBits tag) 0 n
  else return (← getC).elems rb.toNat tag

/-- A VA instruction of R196 by its VFN; `two` when it has a second operand. Of several tags that fail, cr.tval names that of VA, then VB,
then VD, as here in the other majors: the data before the index of VLDX and VSTX, VA before VB in VPERM (DESIGN CHOICE, log entry 129: R194
gives no order among them). -/
def ewM (op : Nat) (two : Bool) (bits : Word) (sc : BitVec 1) (mk : BitVec 3) (rb ra rd : BitVec 5) : M Unit := do
  let vb := two && sc == 0
  vreadyM bits [mk] ((if vb then [rb] else []) ++ [ra, rd]) (if two && sc == 1 then [rb] else []) []
  let t ← tagM (vaAccepts op) ra false
  if vb then sameTagM t rb true
  if op = 3 then sameTagM t rd false
  grantM bits
  let c ← getC
  let n := c.count t
  let bs ← if two then vecOperand (sc == 1) rb t n else pure []
  let c ← getC
  let as := c.elems ra.toNat t
  let ds := c.elems rd.toNat t
  let r := mapActive (c.active mk n) ds
    (fun i => elemOp op t (modeOf c.cr.frm) (as.getD i 0) (bs.getD i 0) (ds.getD i 0)) 0
  modC fun c => c.putElems rd.toNat t r.1
  raiseFlags (BitVec.ofNat 64 r.2)

/-- VADD (R196). -/
def execVadd (sc : BitVec 1) (mk : BitVec 3) (rb ra rd : BitVec 5) (stl : BitVec 2) (s : State) : Outcome State Fault Refusal :=
  issue 4 stl (ewM 0 true (instrBits (.vadd sc mk rb ra rd stl)) sc mk rb ra rd) s

/-- VSUB (R196). -/
def execVsub (sc : BitVec 1) (mk : BitVec 3) (rb ra rd : BitVec 5) (stl : BitVec 2) (s : State) : Outcome State Fault Refusal :=
  issue 4 stl (ewM 1 true (instrBits (.vsub sc mk rb ra rd stl)) sc mk rb ra rd) s

/-- VMUL (R196). -/
def execVmul (sc : BitVec 1) (mk : BitVec 3) (rb ra rd : BitVec 5) (stl : BitVec 2) (s : State) : Outcome State Fault Refusal :=
  issue 4 stl (ewM 2 true (instrBits (.vmul sc mk rb ra rd stl)) sc mk rb ra rd) s

/-- VFMA (R196). -/
def execVfma (sc : BitVec 1) (mk : BitVec 3) (rb ra rd : BitVec 5) (stl : BitVec 2) (s : State) : Outcome State Fault Refusal :=
  issue 4 stl (ewM 3 true (instrBits (.vfma sc mk rb ra rd stl)) sc mk rb ra rd) s

/-- VDIV (R196). -/
def execVdiv (sc : BitVec 1) (mk : BitVec 3) (rb ra rd : BitVec 5) (stl : BitVec 2) (s : State) : Outcome State Fault Refusal :=
  issue 4 stl (ewM 4 true (instrBits (.vdiv sc mk rb ra rd stl)) sc mk rb ra rd) s

/-- VSQRT (R196). -/
def execVsqrt (mk : BitVec 3) (ra rd : BitVec 5) (stl : BitVec 2) (s : State) : Outcome State Fault Refusal :=
  issue 4 stl (ewM 5 false (instrBits (.vsqrt mk ra rd stl)) 0 mk 0 ra rd) s

/-- VMIN (R196). -/
def execVmin (sc : BitVec 1) (mk : BitVec 3) (rb ra rd : BitVec 5) (stl : BitVec 2) (s : State) : Outcome State Fault Refusal :=
  issue 4 stl (ewM 6 true (instrBits (.vmin sc mk rb ra rd stl)) sc mk rb ra rd) s

/-- VMAX (R196). -/
def execVmax (sc : BitVec 1) (mk : BitVec 3) (rb ra rd : BitVec 5) (stl : BitVec 2) (s : State) : Outcome State Fault Refusal :=
  issue 4 stl (ewM 7 true (instrBits (.vmax sc mk rb ra rd stl)) sc mk rb ra rd) s

/-- VABS (R196). -/
def execVabs (mk : BitVec 3) (ra rd : BitVec 5) (stl : BitVec 2) (s : State) : Outcome State Fault Refusal :=
  issue 4 stl (ewM 8 false (instrBits (.vabs mk ra rd stl)) 0 mk 0 ra rd) s

/-- VNEG (R196). -/
def execVneg (mk : BitVec 3) (ra rd : BitVec 5) (stl : BitVec 2) (s : State) : Outcome State Fault Refusal :=
  issue 4 stl (ewM 9 false (instrBits (.vneg mk ra rd stl)) 0 mk 0 ra rd) s

/-- VAND (R196). -/
def execVand (sc : BitVec 1) (mk : BitVec 3) (rb ra rd : BitVec 5) (stl : BitVec 2) (s : State) : Outcome State Fault Refusal :=
  issue 4 stl (ewM 10 true (instrBits (.vand sc mk rb ra rd stl)) sc mk rb ra rd) s

/-- VOR (R196). -/
def execVor (sc : BitVec 1) (mk : BitVec 3) (rb ra rd : BitVec 5) (stl : BitVec 2) (s : State) : Outcome State Fault Refusal :=
  issue 4 stl (ewM 11 true (instrBits (.vor sc mk rb ra rd stl)) sc mk rb ra rd) s

/-- VXOR (R196). -/
def execVxor (sc : BitVec 1) (mk : BitVec 3) (rb ra rd : BitVec 5) (stl : BitVec 2) (s : State) : Outcome State Fault Refusal :=
  issue 4 stl (ewM 12 true (instrBits (.vxor sc mk rb ra rd stl)) sc mk rb ra rd) s

/-- VSHL (R196). -/
def execVshl (sc : BitVec 1) (mk : BitVec 3) (rb ra rd : BitVec 5) (stl : BitVec 2) (s : State) : Outcome State Fault Refusal :=
  issue 4 stl (ewM 13 true (instrBits (.vshl sc mk rb ra rd stl)) sc mk rb ra rd) s

/-- VSHR (R196). -/
def execVshr (sc : BitVec 1) (mk : BitVec 3) (rb ra rd : BitVec 5) (stl : BitVec 2) (s : State) : Outcome State Fault Refusal :=
  issue 4 stl (ewM 14 true (instrBits (.vshr sc mk rb ra rd stl)) sc mk rb ra rd) s

/-- VSRA (R196). -/
def execVsra (sc : BitVec 1) (mk : BitVec 3) (rb ra rd : BitVec 5) (stl : BitVec 2) (s : State) : Outcome State Fault Refusal :=
  issue 4 stl (ewM 15 true (instrBits (.vsra sc mk rb ra rd stl)) sc mk rb ra rd) s

/-! ## Comparison, selection, conversion, special functions (R197 to R200) -/

/-- An element comparison with its flags: EQ, LT, LE, NE (R197). -/
def elemCmp (cc : BitVec 2) (tag a b : Nat) : Bool × Nat :=
  if tagInt tag then
    let x := elemInt (tagBits tag) (tagI tag) a
    let y := elemInt (tagBits tag) (tagI tag) b
    (match cc.toNat with | 0 => x == y | 1 => decide (x < y) | 2 => decide (x ≤ y) | _ => x != y, 0)
  else if cc = 3 then let r := fpCmp (tagFmt tag) 0 a b; (!r.1, r.2)
  else fpCmp (tagFmt tag) cc a b

/-- VCMP (R197). -/
def execVcmp (sc : BitVec 1) (mk : BitVec 3) (rb ra : BitVec 5) (cc : BitVec 2) (md : BitVec 3) (stl : BitVec 2) (s : State) :
    Outcome State Fault Refusal :=
  issue 4 stl (do
    let bits := instrBits (.vcmp sc mk rb ra cc md stl)
    vreadyM bits [mk, md] (if sc = 0 then [rb, ra] else [ra]) (if sc = 0 then [] else [rb]) []
    let t ← tagM (fun t => tagInt t || tagFp t) ra false
    if sc = 0 then sameTagM t rb true
    grantM bits
    let c ← getC
    let n := c.count t
    let bs ← vecOperand (sc == 1) rb t n
    let c ← getC
    let as := c.elems ra.toNat t
    let r := mapActive (c.active mk n) (spanOf (fun _ => 0) 0 n)
      (fun i => let r := elemCmp cc t (as.getD i 0) (bs.getD i 0); (if r.1 then 1 else 0, r.2)) 0
    modC fun c => c.putMask md.toNat (bitsNat (r.1.map (· == 1)))
    raiseFlags (BitVec.ofNat 64 r.2)) s

/-- VSEL (R198). -/
def execVsel (sc : BitVec 1) (mk : BitVec 3) (rb ra rd : BitVec 5) (stl : BitVec 2) (s : State) : Outcome State Fault Refusal :=
  issue 4 stl (do
    let bits := instrBits (.vsel sc mk rb ra rd stl)
    vreadyM bits [mk] (if sc = 0 then [rb, ra, rd] else [ra, rd]) (if sc = 0 then [] else [rb]) []
    let t ← tagM (fun _ => true) ra false
    if sc = 0 then sameTagM t rb true
    grantM bits
    let c ← getC
    let n := c.count t
    let bs ← vecOperand (sc == 1) rb t n
    let c ← getC
    let as := c.elems ra.toNat t
    let r := mapActive (c.active mk n) bs (fun i => (as.getD i 0, 0)) 0
    modC fun c => c.putElems rd.toNat t r.1) s

/-- VCVT (R199). -/
def execVcvt (mk : BitVec 3) (ft ra rd : BitVec 5) (stl : BitVec 2) (s : State) : Outcome State Fault Refusal :=
  issue 4 stl (do
    let bits := instrBits (.vcvt mk ft ra rd stl)
    vreadyM bits [mk] [ra, rd] [] []
    let t ← tagM (fun t => (tagCi t).isSome) ra false
    let d := ft.toNat
    need ((tagCi d).isSome && d != t && !(tagInt d && tagInt t)) cFMTCHK (fmtTval d true d)
    grantM bits
    let c ← getC
    let as := c.elems ra.toNat t
    let both := min (c.count t) (c.count d)
    let r := mapActive (c.active mk both) (c.elems rd.toNat d)
      (fun i => convert (modeOf c.cr.frm) ((tagCi t).getD 0) ((tagCi d).getD 0) (as.getD i 0)) 0
    modC fun c => c.putElems rd.toNat d r.1
    raiseFlags (BitVec.ofNat 64 r.2)) s

/-- VSFU (R200). -/
def execVsfu (mk fn : BitVec 3) (ra rd : BitVec 5) (stl : BitVec 2) (s : State) : Outcome State Fault Refusal :=
  issue 4 stl (do
    let bits := instrBits (.vsfu mk fn ra rd stl)
    vreadyM bits [mk] [ra, rd] [] []
    let _ ← tagM (· == 0x14) ra false
    grantM bits
    let c ← getC
    let k ← curK
    sfuEnqueue { core := k, ctx := c.cr.ctx, fn := fn.toNat, dest := none, rd := 0, vd := some rd.toNat, mask := c.mask mk.toNat,
                 args := (c.elems ra.toNat 0x14).map (BitVec.ofNat 64) }) s

/-! ## Lane claims (R190, R201, R202) -/

/-- The lanes from `lo` on, `g` of them, are free but for core `k`'s own. -/
def State.lanesFree (s : State) (k g lo : Nat) : Bool :=
  (spanOf id 0 8).all fun u =>
    let j := clusterOf k * 16 + u
    let c := s.core j
    j == k || c.grant == 0 || decide (c.lane + c.grant ≤ lo) || decide (lo + g ≤ c.lane)

/-- The lowest aligned free block of `g` lanes. -/
def State.freeBlock (s : State) (k g : Nat) : Option Nat :=
  (spanOf (fun i => i * g) 0 (256 / g)).find? (fun lo => s.lanesFree k g lo)

/-- The grant of a claim for 2^lg lanes, with its first lane: the largest block not above the request (R201). -/
def State.claimLanes (s : State) (k : Nat) : Nat → Nat × Nat
  | 0 => (0, 0)
  | n + 1 => match s.freeBlock k (4 * 2 ^ (n + 1)) with
    | some lo => (4 * 2 ^ (n + 1), lo)
    | none => s.claimLanes k n

/-- A grant made or left: the vector state of R191. -/
def Core.setGrant (c : Core) (req g lane : Nat) : Core :=
  { c with req := req, grant := g, lane := lane, vregs := [], masks := [], vtags := [] }

/-- Every pending write of a vector register or mask has been performed, those of the SFU among them (R132). -/
def vfreeM : M Unit := do
  let s ← get
  if (s.cluster (clusterOf s.cur)).sfu.any (fun r => r.core == s.cur && r.vd.isSome) then throw .stall
  if s.me.vpend.any Loc.isVec then set s.tick
  modC fun c => c.settleIf (Config.waitCycles s.fresh) Loc.isVec

/-- VCLAIM (R201); on a control core it grants 0 (R121). -/
def execVclaim (lg : BitVec 3) (rd : BitVec 5) (stl : BitVec 2) (s : State) : Outcome State Fault Refusal :=
  issue 4 stl (do
    readyM [] [] [rd] []
    vfreeM
    if isGeneral (← curK) then orderM uLANES
    let s ← get
    let g := if isGeneral s.cur then s.claimLanes s.cur (lg.toNat + 1) else (0, 0)
    modC fun c => c.setGrant (8 * 2 ^ lg.toNat) g.1 g.2
    put rd (BitVec.ofNat 64 g.1) 0) s

/-- VREL (R202): no effect without a grant. Registers, masks and tags are cleared with the grant, where R202 names GRANT and REQ alone (DESIGN
CHOICE, log entry 130). -/
def execVrel (stl : BitVec 2) (s : State) : Outcome State Fault Refusal :=
  issue 4 stl (do
    kindM isGeneral (instrBits (.vrel stl))
    vfreeM
    modC fun c => if c.grant = 0 then c else c.setGrant 0 0 0) s

/-- VLEN (R202). -/
def execVlen (rd : BitVec 5) (stl : BitVec 2) (s : State) : Outcome State Fault Refusal :=
  issue 4 stl (do
    readyM [] [] [rd] []
    let c ← getC
    put rd (BitVec.ofNat 64 c.grant) 0) s

/-! ## Memory access (R203) -/

/-- One element loaded at an aligned address. -/
def velemLoad (va n : Nat) : M Nat := do
  need (va % n == 0) cALIGN (BitVec.ofNat 64 va)
  return leNat (← loadM va n false 1)

/-- An element's access, whose traps keep what the elements before it have done to memory and asked of it (R203, R320); the generators
stay as `gens`. -/
def keeping {α : Type} (gens : Tbl Gen) (body : M α) : M α := fun s =>
  let kept := s.modCore s.cur fun c => { c with gens := gens, ahead := [] }
  match body s with
  | .ok r => .ok r
  | .error (.trap c v) => .error (.trapIn kept c v)
  | .error (.access c v va n a) => .error (.trapIn (kept.attempt kept.cur c va n a) c v)
  | .error (.tfault bad v off va n a) => .error (.tfaultIn kept bad v off va n a)
  | .error e => .error e

/-- One element stored at an aligned address. -/
def velemStore (va n x : Nat) : M Unit := do
  need (va % n == 0) cALIGN (BitVec.ofNat 64 va)
  storeM va (leBytes n x) false 1

/-- Active elements loaded in ascending order; the others as they were. -/
def vloadAll (gens : Tbl Gen) (act : List Bool) (old : List Nat) (addr : Nat → Nat) (n : Nat) (i : Nat) : M (List Nat) :=
  match act, old with
  | b :: bs, x :: xs => do
    let y ← if b then keeping gens (velemLoad (addr i) n) else pure x
    let r ← vloadAll gens bs xs addr n (i + 1)
    return y :: r
  | _, _ => return []

/-- Active elements stored in ascending order. -/
def vstoreAll (gens : Tbl Gen) (act : List Bool) (xs : List Nat) (addr : Nat → Nat) (n : Nat) (i : Nat) : M Unit :=
  match act, xs with
  | b :: bs, x :: xs => do
    if b then keeping gens (velemStore (addr i) n x)
    vstoreAll gens bs xs addr n (i + 1)
  | _, _ => return ()

/-- The address `off` bytes above a base, modulo 2^53. -/
def vaddr (base : Word) (off : Word) : Nat := vaOf (base + off)

/-- Bytes of an element. -/
def elemBytes (t : Nat) : Nat := tagBits t / 8

/-- Elements of an index register as byte offsets for elements of `n` bytes (R203). -/
def indexOffsets (tag n : Nat) (xs : List Nat) : List Word :=
  xs.map fun x => BitVec.ofInt 64 (elemInt (tagBits tag) (tagI tag) x * n)

/-- A tag that VLDX and VSTX accept for an index. -/
def tagIndex (t : Nat) : Bool := t == 3 || t == 4 || t == 7 || t == 8

/-- VLD (R203); an F4 load reads the G × 8 bytes of the register. -/
def execVld (mk : BitVec 3) (ft ra rd : BitVec 5) (stl : BitVec 2) (s : State) : Outcome State Fault Refusal :=
  issue 4 stl (do
    let bits := instrBits (.vld mk ft ra rd stl)
    vreadyM bits [mk] [rd] [ra] []
    grantM bits
    let gens := (← getC).gens
    let base ← src ra
    let c ← getC
    let t := ft.toNat
    if t = 0x10 then
      let bs ← vloadAll gens (spanOf (fun _ => true) 0 (8 * c.grant)) (spanOf (fun _ => 0) 0 (8 * c.grant))
        (fun i => vaddr base (BitVec.ofNat 64 i)) 1 0
      let new := bs.flatMap fun b => [b % 16, b / 16]
      let r := mapActive (c.active mk (c.count t)) (c.elems rd.toNat t) (fun i => (new.getD i 0, 0)) 0
      modC fun c => c.putElems rd.toNat t r.1
    else
      let n := elemBytes t
      let xs ← vloadAll gens (c.active mk (c.count t)) (c.elems rd.toNat t) (fun i => vaddr base (BitVec.ofNat 64 (i * n))) n 0
      modC fun c => c.putElems rd.toNat t xs) s

/-- VLDS (R203). -/
def execVlds (mk : BitVec 3) (rb ra rd : BitVec 5) (stl : BitVec 2) (s : State) : Outcome State Fault Refusal :=
  issue 4 stl (do
    let bits := instrBits (.vlds mk rb ra rd stl)
    vreadyM bits [mk] [rd] [ra, rb] []
    let t ← tagM (· != 0x10) rd false
    grantM bits
    let gens := (← getC).gens
    let base ← src ra
    let st ← src rb
    let c ← getC
    let xs ← vloadAll gens (c.active mk (c.count t)) (c.elems rd.toNat t) (fun i => vaddr base (BitVec.ofNat 64 i * st)) (elemBytes t) 0
    modC fun c => c.putElems rd.toNat t xs) s

/-- VLDX (R203). -/
def execVldx (mk : BitVec 3) (rb ra rd : BitVec 5) (stl : BitVec 2) (s : State) : Outcome State Fault Refusal :=
  issue 4 stl (do
    let bits := instrBits (.vldx mk rb ra rd stl)
    vreadyM bits [mk] [rd, rb] [ra] []
    let t ← tagM (· != 0x10) rd false
    let ti ← tagM tagIndex rb true
    grantM bits
    let gens := (← getC).gens
    let base ← src ra
    let c ← getC
    let offs := indexOffsets ti (elemBytes t) (c.elems rb.toNat ti)
    let old := c.elems rd.toNat t
    let act := (c.active mk (c.count t)).mapIdx fun i b => b && decide (i < c.count ti)
    let xs ← vloadAll gens act old (fun i => vaddr base (offs.getD i 0)) (elemBytes t) 0
    modC fun c => c.putElems rd.toNat t xs) s

/-- VST (R203). -/
def execVst (mk : BitVec 3) (ra rd : BitVec 5) (stl : BitVec 2) (s : State) : Outcome State Fault Refusal :=
  issue 4 stl (do
    let bits := instrBits (.vst mk ra rd stl)
    vreadyM bits [mk] [rd] [ra] []
    let t ← tagM (fun t => t != 0x10 || mk == 0) rd false
    grantM bits
    let gens := (← getC).gens
    let base ← src ra
    let c ← getC
    if t = 0x10 then
      vstoreAll gens (spanOf (fun _ => true) 0 (8 * c.grant)) (c.elems rd.toNat 1) (fun i => vaddr base (BitVec.ofNat 64 i)) 1 0
    else
      let n := elemBytes t
      vstoreAll gens (c.active mk (c.count t)) (c.elems rd.toNat t) (fun i => vaddr base (BitVec.ofNat 64 (i * n))) n 0) s

/-- VSTS (R203). -/
def execVsts (mk : BitVec 3) (rb ra rd : BitVec 5) (stl : BitVec 2) (s : State) : Outcome State Fault Refusal :=
  issue 4 stl (do
    let bits := instrBits (.vsts mk rb ra rd stl)
    vreadyM bits [mk] [rd] [ra, rb] []
    let t ← tagM (· != 0x10) rd false
    grantM bits
    let gens := (← getC).gens
    let base ← src ra
    let st ← src rb
    let c ← getC
    vstoreAll gens (c.active mk (c.count t)) (c.elems rd.toNat t) (fun i => vaddr base (BitVec.ofNat 64 i * st)) (elemBytes t) 0) s

/-- VSTX (R203). -/
def execVstx (mk : BitVec 3) (rb ra rd : BitVec 5) (stl : BitVec 2) (s : State) : Outcome State Fault Refusal :=
  issue 4 stl (do
    let bits := instrBits (.vstx mk rb ra rd stl)
    vreadyM bits [mk] [rd, rb] [ra] []
    let t ← tagM (· != 0x10) rd false
    let ti ← tagM tagIndex rb true
    grantM bits
    let gens := (← getC).gens
    let base ← src ra
    let c ← getC
    let offs := indexOffsets ti (elemBytes t) (c.elems rb.toNat ti)
    let act := (c.active mk (c.count t)).mapIdx fun i b => b && decide (i < c.count ti)
    vstoreAll gens act (c.elems rd.toNat t) (fun i => vaddr base (offs.getD i 0)) (elemBytes t) 0) s

/-! ## Movement, masks and tags (R204) -/

/-- VBC (R204). -/
def execVbc (mk : BitVec 3) (ft ra rd : BitVec 5) (stl : BitVec 2) (s : State) : Outcome State Fault Refusal :=
  issue 4 stl (do
    let bits := instrBits (.vbc mk ft ra rd stl)
    vreadyM bits [mk] [rd] [ra] []
    grantM bits
    let w ← src ra
    let c ← getC
    let t := ft.toNat
    let r := mapActive (c.active mk (c.count t)) (c.elems rd.toNat t) (fun _ => (w.toNat % 2 ^ tagBits t, 0)) 0
    modC fun c => c.putElems rd.toNat t r.1) s

/-- VPERM (R204). -/
def execVperm (mk : BitVec 3) (rb ra rd : BitVec 5) (stl : BitVec 2) (s : State) : Outcome State Fault Refusal :=
  issue 4 stl (do
    let bits := instrBits (.vperm mk rb ra rd stl)
    vreadyM bits [mk] [ra, rb, rd] [] []
    let t ← tagM (fun _ => true) ra false
    let ti ← tagM tagInt rb true
    grantM bits
    let c ← getC
    let n := c.count t
    let as := c.elems ra.toNat t
    let is := (c.elems rb.toNat ti).map fun x => (elemInt (tagBits ti) (tagI ti) x % (n : Int)).toNat
    let r := mapActive (c.active mk n) (c.elems rd.toNat t)
      (fun e => (match is[e]? with | some i => as.getD i 0 | none => 0, 0)) 0
    modC fun c => c.putElems rd.toNat t r.1) s

/-- VSLIDE (R204). -/
def execVslide (mk : BitVec 3) (rb ra rd : BitVec 5) (stl : BitVec 2) (s : State) : Outcome State Fault Refusal :=
  issue 4 stl (do
    let bits := instrBits (.vslide mk rb ra rd stl)
    vreadyM bits [mk] [ra, rd] [rb] []
    let t ← tagM (fun _ => true) ra false
    grantM bits
    let k ← src rb
    let c ← getC
    let n := c.count t
    let as := c.elems ra.toNat t
    let r := mapActive (c.active mk n) (c.elems rd.toNat t)
      (fun e => let i : Int := (e : Int) + k.toInt; (if 0 ≤ i ∧ i < n then as.getD i.toNat 0 else 0, 0)) 0
    modC fun c => c.putElems rd.toNat t r.1) s

/-- VMOP (R204). -/
def execVmop (mb : BitVec 3) (ttLo : BitVec 2) (ma : BitVec 3) (ttHi : BitVec 2) (md : BitVec 3) (stl : BitVec 2) (s : State) :
    Outcome State Fault Refusal :=
  issue 4 stl (do
    let bits := instrBits (.vmop mb ttLo ma ttHi md stl)
    vreadyM bits [ma, mb, md] [] [] []
    grantM bits
    let c ← getC
    let tt := ttHi.toNat * 4 + ttLo.toNat
    let a := c.mask ma.toNat
    let b := c.mask mb.toNat
    let pick (i : Nat) (x y : BitVec 4096) : BitVec 4096 := if tt / 2 ^ i % 2 = 1 then x &&& y else 0
    let r := pick 0 (~~~a) (~~~b) ||| pick 1 (~~~a) b ||| pick 2 a (~~~b) ||| pick 3 a b
    modC fun c => c.putMask md.toNat r.toNat) s

/-- VTAG (R204). -/
def execVtag (ft rd : BitVec 5) (stl : BitVec 2) (s : State) : Outcome State Fault Refusal :=
  issue 4 stl (do
    let bits := instrBits (.vtag ft rd stl)
    vreadyM bits [] [rd] [] []
    grantM bits
    modC fun c => { c with vtags := tset c.vtags rd.toNat (ftTag ft), vpend := .v rd.toNat :: c.vpend }) s

/-- VXTR (R204). -/
def execVxtr (rb ra rd : BitVec 5) (stl : BitVec 2) (s : State) : Outcome State Fault Refusal :=
  issue 4 stl (do
    let bits := instrBits (.vxtr rb ra rd stl)
    vreadyM bits [] [ra] [rb] [rd]
    let t ← tagM (fun _ => true) ra false
    grantM bits
    let i ← src rb
    let c ← getC
    let x := (c.elems ra.toNat t).getD i.toNat 0
    put rd (if tagI t then BitVec.ofInt 64 (elemInt (tagBits t) true x) else BitVec.ofNat 64 x) 0) s

/-! ## Reductions and scans (R205) -/

/-- Tags that an operation of R205 accepts. -/
def redAccepts (op t : Nat) : Bool := if op ≤ 2 then tagInt t || tagFp t else tagInt t || t == 0

/-- Combine of R205: 0 add, 1 min, 2 max, 3 and, 4 or, 5 xor. -/
def redCombine (op tag mode a b : Nat) : Nat × Nat :=
  match op with
  | 0 => elemOp 0 tag mode a b 0
  | 1 => elemOp 6 tag mode a b 0
  | 2 => elemOp 7 tag mode a b 0
  | 3 => (a &&& b, 0)
  | 4 => (a ||| b, 0)
  | _ => (a ^^^ b, 0)

/-- The identity of an operation of R205. -/
def redIdentity (op tag : Nat) : Nat :=
  let z := tagBits tag
  let f := tagFmt tag
  match op with
  | 1 => if tagFp tag then f.infEnc else if tagI tag then 2 ^ (z - 1) - 1 else 2 ^ z - 1
  | 2 => if tagFp tag then f.infEnc + f.signBit else if tagI tag then 2 ^ (z - 1) else 0
  | 3 => 2 ^ z - 1
  | _ => 0

/-- One level of the tree of R205. -/
def redLevel (f : Nat → Nat → Nat × Nat) : List (Option Nat) → List (Option Nat) × Nat
  | a :: b :: r =>
    let q := redLevel f r
    match a, b with
    | some x, some y => (some (f x y).1 :: q.1, (f x y).2 ||| q.2)
    | some x, none => (some x :: q.1, q.2)
    | none, y => (y :: q.1, q.2)
  | _ => ([], 0)

/-- The tree of R205 with `fuel` levels: its root and the flags. -/
def redTree (f : Nat → Nat → Nat × Nat) (t : List (Option Nat)) : Nat → Option Nat × Nat
  | 0 => (t.headD none, 0)
  | fuel + 1 =>
    if t.length ≤ 1 then (t.headD none, 0) else
    let l := redLevel f t
    let r := redTree f l.1 fuel
    (r.1, l.2 ||| r.2)

/-- The running values of VSCAN: elements and flags. -/
def scanAll (f : Nat → Nat → Nat × Nat) (s : Nat) : List Bool → List Nat → List Nat → List Nat × Nat
  | b :: bs, x :: xs, d :: ds =>
    if b then
      let y := f s x
      let r := scanAll f y.1 bs xs ds
      (y.1 :: r.1, y.2 ||| r.2)
    else
      let r := scanAll f s bs xs ds
      (d :: r.1, r.2)
  | _, _, _ => ([], 0)

/-- VRED (R205). -/
def execVred (mk op : BitVec 3) (ra rd : BitVec 5) (stl : BitVec 2) (s : State) : Outcome State Fault Refusal :=
  issue 4 stl (do
    let bits := instrBits (.vred mk op ra rd stl)
    vreadyM bits [mk] [ra, rd] [] []
    let t ← tagM (redAccepts op.toNat) ra false
    grantM bits
    let c ← getC
    let n := c.count t
    let leaves := ((c.elems ra.toNat t).zip (c.active mk n)).map fun e => if e.2 then some e.1 else none
    let r := redTree (redCombine op.toNat t (modeOf c.cr.frm)) leaves 16
    modC fun c => c.putElems rd.toNat t ((r.1.getD (redIdentity op.toNat t)) :: spanOf (fun _ => 0) 0 (n - 1))
    raiseFlags (BitVec.ofNat 64 r.2)) s

/-- VSCAN (R205). -/
def execVscan (mk op : BitVec 3) (ra rd : BitVec 5) (stl : BitVec 2) (s : State) : Outcome State Fault Refusal :=
  issue 4 stl (do
    let bits := instrBits (.vscan mk op ra rd stl)
    vreadyM bits [mk] [ra, rd] [] []
    let t ← tagM (redAccepts op.toNat) ra false
    grantM bits
    let c ← getC
    let r := scanAll (redCombine op.toNat t (modeOf c.cr.frm)) (redIdentity op.toNat t) (c.active mk (c.count t))
      (c.elems ra.toNat t) (c.elems rd.toNat t)
    modC fun c => c.putElems rd.toNat t r.1
    raiseFlags (BitVec.ofNat 64 r.2)) s

end Sys2Proof.Machine
end

