-- ==== Sys2Proof/Machine/Mem.lean ====
section
/-! DEFINITION. Loads, stores, prefetch and discard, fences, streams, queues, and the instructions that reshape local memory
(spec/13_memory_instructions.md R253 to R273; spec/12_memory_hierarchy.md R230 to R236). -/

namespace Sys2Proof.Machine
open Host

/-! ## LD and ST (R253 to R257) -/

/-- The register after an even one, of a pair. -/
def pairOf (r : BitVec 5) : BitVec 5 := r + 1

/-- A load of one value, or of a pair for SZ q. -/
def ldM (va : Nat) (aq : Bool) (hint : BitVec 2) (sz : BitVec 3) (rd : BitVec 5) : M Unit := do
  let bs ← loadM va (szBytes sz) aq hint
  if sz = 4 then
    put rd (BitVec.ofNat 64 (leNat (bs.take 8))) 0
    put (pairOf rd) (BitVec.ofNat 64 (leNat (bs.drop 8))) 0
  else put rd (szExtend sz bs) 0
  let s ← get
  if aq then
    acquireM s.regionScope
    forgetAhead

/-- LD (R255, R257). -/
def execLd (off : BitVec 6) (aq : BitVec 1) (hint : BitVec 2) (sz : BitVec 3) (ra rd : BitVec 5) (stl : BitVec 2) (s : State) :
    Outcome State Fault Refusal :=
  issue 4 stl (do
    readyM [ra] [] (if sz = 4 then [rd, pairOf rd] else [rd]) []
    let base ← src ra
    ldM (memAddr base off (szBytes sz)) (aq == 1) hint sz rd) s

/-- The bytes that ST writes: the low bytes of a register, or a pair. -/
def stBytes (sz : BitVec 3) (rd : BitVec 5) : M (List Byte) := do
  let v ← src rd
  if sz = 4 then
    let w ← src (pairOf rd)
    return leBytes 8 v.toNat ++ leBytes 8 w.toNat
  else return leBytes (szBytes sz) v.toNat

/-- ST (R255, R257). -/
def execSt (off : BitVec 6) (rl : BitVec 1) (hint : BitVec 2) (sz : BitVec 3) (ra rd : BitVec 5) (stl : BitVec 2) (s : State) :
    Outcome State Fault Refusal :=
  issue 4 stl (do
    if rl = 1 then deferredPoison
    readyM (ra :: if sz = 4 then [rd, pairOf rd] else [rd]) [] [] []
    let base ← src ra
    let bs ← stBytes sz rd
    let s ← get
    if rl = 1 then releaseM s.regionScope
    storeM (memAddr base off (szBytes sz)) bs (rl == 1) hint) s

/-- The stack pointer (R178). -/
def rSp : BitVec 5 := 2

/-- C.LDD (R178). -/
def execCLdd (uoff : BitVec 6) (rd : BitVec 5) (s : State) : Outcome State Fault Refusal :=
  issue 2 0 (do
    readyM [rSp] [] [rd] []
    let base ← src rSp
    ldM (vaOf (base + uoff.setWidth 64 * 8)) false 1 3 rd) s

/-- C.STD (R178). -/
def execCStd (uoff : BitVec 6) (rs : BitVec 5) (s : State) : Outcome State Fault Refusal :=
  issue 2 0 (do
    readyM [rSp, rs] [] [] []
    let base ← src rSp
    let bs ← stBytes 3 rs
    storeM (vaOf (base + uoff.setWidth 64 * 8)) bs false 1) s

/-! ## PREF and DISC (R258 to R260) -/

/-- A body that never traps: one that would does nothing (R258). -/
def noTrap (body : M Unit) : M Unit := fun s =>
  match body s with
  | .error (.trap _ _) => .ok ((), s)
  | .error (.access _ _ _ _ _) => .ok ((), s)
  | .error (.tfault _ _ _ _ _ _) => .ok ((), s)
  | r => r

/-- PREF (R258). -/
def execPref (off : BitVec 6) (hint : BitVec 2) (ra : BitVec 5) (stl : BitVec 2) (s : State) : Outcome State Fault Refusal :=
  issue 4 stl (noTrap (do
    readyM [ra] [] [] []
    let base ← src ra
    let (s, t) := (← get).prefTarget (← curK) (memAddr base off 128)
    match t with
    | some (n, pte) =>
      match hintOf hint (pteHint pte) with
      | .bypass => set (s.homeServe (clusterOf s.cur) n .bypass)
      | h => set (s.touchLine s.cur n h (pteClass pte == .uo))
    | none => set s)) s

/-- DISC (R259). -/
def execDisc (off : BitVec 6) (ra : BitVec 5) (stl : BitVec 2) (s : State) : Outcome State Fault Refusal :=
  issue 4 stl (do
    readyM [ra] [] [] []
    let base ← src ra
    let ts ← xlateM (memAddr base off 128) 1 .disc
    match ts with
    | [(t, _)] =>
      match t.place with
      | .dev pa =>
        modify fun s => s.discLine s.cur (pa / 128)
        modC fun c => c.dropAhead (t.place.blocks 1)
      | _ => pure ()
    | _ => pure ()) s

/-! ## Fences (R262, R263) -/

/-- The accesses before a fence, those to UO pages too, have been performed at its scope, and replicas are written back and dropped;
fetch sees the core's earlier stores (R136, R262, R356). -/
def fenceM (scope : Nat) : M Unit := do
  deferredPoison
  modify fun s => s.release s.cur scope
  modify fun s => s.acquireAt s.cur scope true
  modC fun c => { c with hide := [], ahead := [] }

/-- FENCE (R262). -/
def execFence (scope : BitVec 3) (stl : BitVec 2) (s : State) : Outcome State Fault Refusal :=
  issue 4 stl (fenceM scope.toNat) s

/-- A TLB without the entries of an address space and its function's global entries, of one page or of all (R263). -/
def tlbDrop (space : Nat) (page : Option Nat) (t : List TlbEntry) : List TlbEntry :=
  t.filter fun e => !((e.space == space || (pteG e.pte && e.space / 256 == space / 256)) &&
    match page with
    | none => true
    | some vpn => decide (e.vpn ≤ vpn) && decide (vpn < e.vpn + e.pages))

/-- The TLBs that a scope names lose the entries of R263: .core the core's own and its cluster's, .clu those of the cluster,
.bay those of the bay, wider ones all. -/
def State.tlbInvalidate (s : State) (k scope space : Nat) (page : Option Nat) : State :=
  let inCluster (c : Nat) : Bool :=
    if scope ≤ 1 then c == clusterOf k else if scope = 2 then c / 32 == clusterOf k / 32 else true
  let inCore (j : Nat) : Bool := if scope = 0 then j == k else inCluster (clusterOf j)
  { s with
    cores := s.cores.map fun e => if inCore e.1 then (e.1, { e.2 with tlb := tlbDrop space page e.2.tlb }) else e
    clusters := s.clusters.map fun e => if inCluster e.1 then (e.1, { e.2 with tlb := tlbDrop space page e.2.tlb }) else e }

/-- TFENCE (R263). -/
def execTfence (page : BitVec 1) (scope : BitVec 3) (ra : BitVec 5) (stl : BitVec 2) (s : State) : Outcome State Fault Refusal :=
  issue 4 stl (do
    deferredPoison
    readyM (if page = 1 then [ra] else []) [] [] []
    let v ← if page = 1 then src ra else pure 0
    fenceM scope.toNat
    modify fun s => s.releaseAt s.cur 4
    modify fun s => s.tlbInvalidate s.cur scope.toNat (s.spaceOf s.cur) (if page = 1 then some (vaOf v / 2 ^ 13) else none)) s

/-! ## Streams (R264 to R268) -/

/-- SBIND (R265). -/
def execSbind (dir : BitVec 1) (sz : BitVec 3) (g : BitVec 2) (ra : BitVec 3) (rd : BitVec 4) (stl : BitVec 2) (s : State) :
    Outcome State Fault Refusal :=
  issue 4 stl (do
    let ra := quadReg ra
    let rd := highReg rd
    readyM [ra, ra + 1, ra + 2] [] [] []
    let c ← getC
    need (!([0, 1, 2, 3].any (fun j => j != g.toNat && (c.gen j).bound && (c.gen j).reg == rd))) cILLOP (BitVec.ofNat 64 rd.toNat)
    let a ← src ra
    let st ← src (ra + 1)
    let n ← src (ra + 2)
    need (decide (n.toNat < 2 ^ 32)) cILLOP n
    modC fun c => { c with ahead := tdel c.ahead g.toNat }.setGen g.toNat
      { addr := a.setWidth 53, stride := st, reg := rd, bound := true, write := dir == 1, sz := sz, count := n.setWidth 32 }) s

/-- SUNBIND (R265). -/
def execSunbind (g : BitVec 2) (stl : BitVec 2) (s : State) : Outcome State Fault Refusal :=
  issue 4 stl (modC fun c => { c with ahead := tdel c.ahead g.toNat }.setGen g.toNat { c.gen g.toNat with bound := false }) s

/-! ## Queues (R269 to R272) -/

/-- Words that a queue holds. -/
def fifoCap : Nat := 16384

/-- The queue of a cluster. -/
def Cluster.fifo (c : Cluster) (q : Nat) : Fifo := tget { words := [], holder := none } c.fifos q

/-- A queue changed. -/
def State.modFifo (s : State) (cl q : Nat) (f : Fifo → Fifo) : State :=
  s.modCluster cl fun x => { x with fifos := tset x.fifos q (f (x.fifo q)) }

/-- The queue's bank is in FIFO mode, or the instruction traps AFAULT. -/
def fifoModeM (cl q : Nat) (tval : Word) : M Unit := do
  let s ← get
  need ((s.cluster cl).mode (48 + q) == .fifo) cAFAULT tval

/-- A queue of a cluster as one number. -/
def queueNo (cl q : Nat) : Nat := cl * 16 + q

/-- The queue of a waiting instruction has left FIFO mode since its wait began (R269, R271). -/
def Core.queueGone (c : Core) (cl q : Nat) : Bool := c.qwait == some (queueNo cl q, true)

/-- The queue's bank is in FIFO mode, and has been while the instruction has waited, or it traps AFAULT (R269, R271). -/
def queueM (cl q : Nat) (tval : Word) : M Unit := do
  fifoModeM cl q tval
  need (!(← getC).queueGone cl q) cAFAULT tval

/-- The state `s0` at the issue of an instruction that waits at a queue from then on. -/
def State.waitsAt (s0 : State) (cl q : Nat) : State := s0.modCore s0.cur fun c => { c with qwait := some (queueNo cl q, false) }

/-- QPUSH (R269). -/
def execQpush (nb : BitVec 1) (qn : BitVec 4) (ra : BitVec 5) (pd : BitVec 3) (stl : BitVec 2) (s : State) :
    Outcome State Fault Refusal :=
  issue 4 stl (do
    let s0 ← get
    settleM
    readyM [ra] [] [] []
    let v ← src ra
    let s ← get
    let cl := clusterOf s.cur
    let q := qn.toNat
    queueM cl q (BitVec.ofNat 64 (bankAddr (48 + q)))
    orderM (uQUEUE q)
    let f := (s.cluster cl).fifo q
    if fifoCap ≤ f.words.length ∨ f.holder.isSome then
      if nb = 1 then putP pd false 0 else waitHere (s0.waitsAt cl q) 4
    else
      modify fun s => s.modFifo cl q fun f => { f with words := f.words ++ [v] }
      if nb = 1 then putP pd true 0
    closeRegionM) s

/-- QPOP (R269). -/
def execQpop (nb : BitVec 1) (qn : BitVec 4) (pd : BitVec 3) (rd : BitVec 5) (stl : BitVec 2) (s : State) :
    Outcome State Fault Refusal :=
  issue 4 stl (do
    let s0 ← get
    settleM
    let s ← get
    let cl := clusterOf s.cur
    let q := qn.toNat
    queueM cl q (BitVec.ofNat 64 (bankAddr (48 + q)))
    orderM (uQUEUE q)
    match ((s.cluster cl).fifo q).words with
    | [] => if nb = 1 then putP pd false 0 else waitHere (s0.waitsAt cl q) 4
    | w :: r =>
      putNew rd w
      modify fun s => s.modFifo cl q fun f => { f with words := r }
      if nb = 1 then putP pd true 0
    closeRegionM) s

/-- The cluster and queue that a QSEND destination names (R271). -/
def sendCluster (d : Word) : Nat := fieldNat d 8 8

/-- A destination's reserved bits are zero and its cluster lies in the partition (R271). -/
def State.sendOk (s : State) (d : Word) : Bool :=
  d &&& 0xFF0F == d && decide (s.bay0 ≤ sendCluster d / 32 ∧ sendCluster d / 32 < s.bay0 + s.bays)

/-- A packet of core `k` to a queue that no packet holds is opened, before its first word waits (R271). -/
def State.openPacket (s : State) (k : Nat) (d : Word) : State :=
  let cl := sendCluster d
  let q := fieldNat d 0 4
  if ((s.cluster cl).fifo q).holder.isSome then s
  else (s.modFifo cl q fun f => { f with holder := some k }).modCore k fun c => { c with packet := some (d, 0) }

/-- QSEND (R271); in an undo routine it traps ILLOP (R226). -/
def execQsend (last : BitVec 1) (rb ra : BitVec 5) (stl : BitVec 2) (s : State) : Outcome State Fault Refusal :=
  issue 4 stl (do
    let s0 ← get
    settleM
    readyM [ra, rb] [] [] []
    let c ← getC
    need (!c.undo) cILLOP (instrBits (.qsend last rb ra stl))
    let d ← src ra
    let v ← src rb
    let s ← get
    need (s.sendOk d) cAFAULT d
    need (match c.packet with | some (d', _) => d' == d | none => true) cILLOP d
    let sent := match c.packet with | some (_, n) => n | none => 0
    need (!(decide (64 ≤ sent + 1) && last == 0)) cILLOP 64
    let cl := sendCluster d
    let q := fieldNat d 0 4
    queueM cl q d
    if cl = clusterOf s.cur then orderM (uQUEUE q)
    let f := (s.cluster cl).fifo q
    if fifoCap ≤ f.words.length ∨ (f.holder.isSome ∧ f.holder ≠ some s.cur) then waitHere ((s0.openPacket s0.cur d).waitsAt cl q) 4
    modify fun s => s.modFifo cl q fun f =>
      { words := f.words ++ [v], holder := if last = 1 then none else some s.cur }
    modC fun c => { c with packet := if last = 1 then none else some (d, sent + 1) }
    closeRegionM) s

/-! ## Reshaping local memory (R230, R232, R234, R236, R273) -/

/-- The scratchpad boundary moved from `n` to `m` blocks (R232): lines whose block changes are written back and dropped; blocks
that join read zero, and blocks that leave lose their contents. -/
def State.setPad (s : State) (k m : Nat) : State :=
  let n := (s.core k).spN
  let lo := min n m
  let hi := max n m
  let moved := (lineNums (s.core k).l1).filter fun l => decide (lo ≤ l % 48) && decide (l % 48 < hi)
  let s := moved.foldl (fun s l => s.writeBackL1 k l true) s
  s.modCore k fun c => { c with spN := m, arr := c.arr.zero (0x8000 + lo * 0x4000) ((hi - lo) * 0x4000) }

/-- SPSET (R230, R232, R273). -/
def execSpset (ra : BitVec 5) (pd : BitVec 3) (stl : BitVec 2) (s : State) : Outcome State Fault Refusal :=
  issue 4 stl (do
    settleM
    readyM [ra] [] [] []
    let s ← get
    if (s.rangesAt (clusterOf s.cur)).any (fun e => namesSpan e.2 s.cur padWindow 0x40000) then throw .stall
    let v ← src ra
    let ok := v.toNat % 0x4000 == 0 && decide (v.toNat ≤ 0x40000)
    if ok then modify fun s => s.setPad s.cur (v.toNat / 0x4000)
    putP pd ok 0
    closeRegionM) s

/-- The mode that BANKSET's field names. -/
def bankModeOf (m : BitVec 2) : BankMode := match m.toNat with | 0 => .cacheWay | 1 => .scratchpad | _ => .fifo

/-- BANKSET (R273): the request is made, in the order of R188 among those of its arithmetic cycle (R234), and the instruction waits for its
outcome. -/
def execBankset (mode : BitVec 2) (ra : BitVec 5) (pd : BitVec 3) (stl : BitVec 2) (s : State) : Outcome State Fault Refusal :=
  issue 4 stl (do
    let s0 ← get
    settleM
    readyM [ra] [] [] []
    let b ← src ra
    need (decide (b.toNat ≤ 63)) cILLOP b
    let s ← get
    let cl := clusterOf s.cur
    match (s.cluster cl).bankReqs.find? (fun r => r.core == s.cur) with
    | none =>
      set s0
      orderM uBANKS
      modify fun s => s.modCluster cl fun x =>
        { x with bankReqs := x.bankReqs ++ [{ core := s.cur, bank := b.toNat, mode := bankModeOf mode, at_ := x.arrivals, outcome := none }] }
      holdM
    | some r =>
      match r.outcome with
      | none =>
        set s0
        holdM
      | some ok =>
        modify fun s => s.modCluster cl fun x => { x with bankReqs := x.bankReqs.filter (fun q => q.core != s.cur) }
        putP pd ok 0
    closeRegionM) s

/-- A bank's mode request is refused (R234). -/
def Cluster.refuses (c : Cluster) (b : Nat) (m : BankMode) : Bool :=
  (m == .fifo && decide (b < 48)) ||
  (c.mode b == .fifo && m != .fifo && !(c.fifo (b - 48)).words.isEmpty) ||
  (c.mode b == .scratchpad && m != .scratchpad &&
    c.merge.any (fun x => decide (bankAddr b ≤ x.va) && decide (x.va < bankAddr b + 0x20000)))

/-- A bank in another mode: it starts empty (R236). -/
def Cluster.setMode (c : Cluster) (b : Nat) (m : BankMode) : Cluster :=
  { c with modes := tset c.modes b m, bankMem := c.bankMem.zero (b * 0x20000) 0x20000,
           fifos := if 48 ≤ b then tset c.fifos (b - 48) { words := [], holder := none } else c.fifos }

/-- The lines in a bank's way of the cluster memory cache are written back and dropped (R236). -/
def State.emptyWay (s : State) (cl b : Nat) : State :=
  (lineNums ((s.cluster cl).cache.filter fun l => l.way == b)).foldl (fun s n => s.writeBackCluster cl n true) s

/-- What waits at a queue whose bank leaves FIFO mode knows it (R269, R271). -/
def State.queueLeft (s : State) (cl q : Nat) : State :=
  { s with cores := s.cores.map fun e =>
      (e.1, { e.2 with qwait := e.2.qwait.map fun w => (w.1, w.2 || w.1 == queueNo cl q) }) }

/-- BANK_MODE_CHANGE (R236): the first waiting request for a bank takes effect or is refused, once no engine command that had arrived
before it names the bank. -/
def execBankModeChange (cluster bank : Nat) (s : State) : Outcome State Fault Refusal :=
  let c := s.cluster cluster
  match c.bankReqs.find? (fun r => r.bank == bank && r.outcome.isNone) with
  | none => .next s
  | some r =>
    if (s.rangesAt cluster).any (fun e => decide (e.1 < r.at_) && namesSpan e.2 0 (bankAddr bank) 0x20000) then .next s
    else
      let ok := c.mode bank == r.mode || !c.refuses bank r.mode
      let change := ok && c.mode bank != r.mode
      let s := if change && c.mode bank == .cacheWay then s.emptyWay cluster bank else s
      let s := if change && c.mode bank == .fifo then s.queueLeft cluster (bank - 48) else s
      .next (s.modCluster cluster fun x =>
        let x := if change then x.setMode bank r.mode else x
        { x with bankReqs := x.bankReqs.map fun q => if q.core = r.core then { q with outcome := some ok } else q })

/-! ## Ends of a wait -/

/-- QSEND_BOUND_EXPIRY (R384): an open packet that has kept a core from stopping for 2^24 cycles is closed, its firing
aborted and its region faulted; a compatibility thread ends with end word 2 (R447). -/
def execQsendBoundExpiry (core : Nat) (s : State) : Outcome State Fault Refusal :=
  let c := s.core core
  match c.packet, c.packetStop with
  | some (_, 0), _ => .next s
  | some _, some t =>
    if s.clock < t + 2 ^ 24 then .next s
    else
      let s := s.closePacket core
      match s.firingOf core with
      | some f => .next ((s.faultRegion f.region (detailWord 37 0 0 0)).abortFiring core f)
      | none => .next (s.endThread core 2)
  | _, _ => .next s

end Sys2Proof.Machine
end

