-- ==== Sys2Proof/Machine/Atom.lean ====
section
/-! DEFINITION. Atomic operations at memory (spec/16_atomics.md R320 to R337). -/

namespace Sys2Proof.Machine
open Host

/-- What an atomic makes of an old value: the new value, if it stores, and its flags. -/
abbrev AtomOp := Nat → Option Nat × Nat

/-- An atomic of `n` bytes at a device address, performed in the owned copy or at the home slice: the old value and the flags. Where a
target byte is poisoned it has asked for the line, but is not performed (R325, R331). -/
def State.atomic (s : State) (k pa n : Nat) (so : Bool) (f : AtomOp) : State × Option (Nat × Nat) :=
  let cl := clusterOf k
  let ln := pa / 128
  let fn := s.spaceOf k / 256
  let s := s.atomicPlace k ln so
  let own := (s.cluster cl).ownedLine ln
  let line := match own with | some o => o.line | none => s.homeLine ln
  if (spanOf line.isBad (pa % 128) n).any id then (s, none)
  else
    let old := leNat (spanOf line.byte (pa % 128) n)
    let r := f old
    let upd (l : Line) : Line := match r.1 with | some v => l.store (pa % 128) (leBytes n v) | none => l
    match own with
    | some _ =>
      let s := s.modCluster cl fun x => { x with owned := x.owned.map fun o =>
        if o.line.num = ln then
          { line := upd o.line, flags := if r.2 = 0 then o.flags else tset o.flags fn (tget 0 o.flags fn ||| BitVec.ofNat 64 r.2) }
        else o }
      (s, some (old, r.2))
    | none =>
      let s := if r.1.isSome then s.homeWrite ln upd else s
      (if r.2 = 0 then s else s.mergeFlags ln [(fn, BitVec.ofNat 64 r.2)], some (old, r.2))

/-! ## The operations (R327 to R330) -/

/-- AFADD (R330): RNE, NV for every NaN operand, an exact zero sum is +0. -/
def faddOp (f : Fmt) (m b : Nat) : Nat × Nat :=
  let x := f.decode m
  let y := f.decode b
  if x.isNaN || y.isNaN then (f.canonNaN, fNV)
  else
    let r := f.addNum 0 x y
    (if r.1 % f.signBit = 0 then 0 else r.1, r.2)

/-- A floating-point atomic on one format: FN 9 AFADD, 10 AFMIN, 11 AFMAX. -/
def fpAtom (fn : Nat) (f : Fmt) (m b : Nat) : Nat × Nat :=
  match fn with
  | 9 => faddOp f m b
  | 10 => f.minMax false true m b
  | _ => f.minMax true true m b

/-- The new value of an atomic by its FN (0 to 6, 9 to 11) and type, with its flags; pairs by halves. -/
def atomNew (fn ty m b : Nat) : Nat × Nat :=
  let z := tagBits ty
  let b := b % 2 ^ z
  match fn with
  | 0 => ((m + b) % 2 ^ z, 0)
  | 1 => (m &&& b, 0)
  | 2 => (m ||| b, 0)
  | 3 => (m ^^^ b, 0)
  | 4 => (intOp 6 z (tagI ty) m b, 0)
  | 5 => (intOp 7 z (tagI ty) m b, 0)
  | 6 => (b, 0)
  | _ =>
    let f := tagFmt ty
    if tagPair ty then
      let h := 2 ^ (z / 2)
      let lo := fpAtom fn f (m % h) (b % h)
      let hi := fpAtom fn f (m / h) (b / h)
      (lo.1 + hi.1 * h, lo.2 ||| hi.2)
    else fpAtom fn f m b

/-- The operation of a scalar atomic with operand `b`. -/
def atomOp (fn ty b : Nat) : AtomOp := fun m => let r := atomNew fn ty m b; (some r.1, r.2)

/-- ACAS and ACASQ (R328, R329). -/
def casOp (c new : Nat) : AtomOp := fun m => (if m = c then some new else none, 0)

/-! ## The checks of R324 and the common course -/

/-- Alignment, translation, and a place in device memory: its address and whether its page is SO. -/
def atomAddr (va n : Nat) (align : Bool) (a : Acc) : M (Nat × Bool) := do
  need (!align || va % n == 0) cALIGN (BitVec.ofNat 64 va)
  let ts ← xlateM va (if align then n else 1) a
  match ts with
  | (t, _) :: _ =>
    match t.place with
    | .dev pa =>
      if a = .atomic then modC fun c => c.dropAhead (t.place.blocks n)
      return (pa, t.so)
    | _ => throw (.access cAFAULT (BitVec.ofNat 64 va) va 1 a)
  | [] => trap cAFAULT (BitVec.ofNat 64 va)

/-- The poison of a .n form or a VATOM element is recorded against the core (R325). -/
def recordPoison (va : Nat) : M Unit := modC fun c => { c with poisonAt := some (c.poisonAt.getD (BitVec.ofNat 64 va)) }

/-- One atomic performed: its old value and flags, or none when it met poison. -/
def atomDo (pa n : Nat) (so : Bool) (f : AtomOp) : M (Option (Nat × Nat)) := do
  let (t, r) := (← get).atomic (← curK) pa n so f
  set t
  return r

/-- A .n form issued: the open region may not be discarded (R326). -/
def keepRegion : M Unit := modC fun c => { c with noDiscard := true }

/-- A scalar atomic at `va` after its operands have been read: `ret` writes the old value of a returning form, which closes the
region (R326). -/
def atomM (noRet : Bool) (va n : Nat) (fp : Bool) (f : AtomOp) (ret : Nat → Nat → M Unit) : M Unit := do
  let (pa, so) ← atomAddr va n true .atomic
  match ← atomDo pa n so f with
  | none =>
    if noRet then
      recordPoison va
      keepRegion
    else throw (.access cPOISON (BitVec.ofNat 64 va) va n .atomic)
  | some (old, fl) =>
    if noRet then keepRegion
    else
      ret old fl
      if fp then raiseFlags (BitVec.ofNat 64 fl)
      closeRegionM

/-- The word that a returning atomic writes: sign-extended for I32 (R327). -/
def atomRet (ty old : Nat) : Word := if ty = 3 then sext (BitVec.ofNat 32 old) else BitVec.ofNat 64 old

/-- AADD to ASWAP and the floating-point atomics, by FN. -/
def scalarAtom (fn : Nat) (noRet : BitVec 1) (ty rb ra rd : BitVec 5) : M Unit := do
  if noRet = 0 then settleM
  readyM [ra, rb] [] (if noRet = 0 then [rd] else []) []
  let a ← src ra
  let b ← src rb
  let n := tagBits ty.toNat / 8
  atomM (noRet == 1) (vaOf a) n (decide (9 ≤ fn)) (atomOp fn ty.toNat (b.toNat % 2 ^ (8 * n))) (fun old _ => putNew rd (atomRet ty.toNat old))

/-- AADD (R327). -/
def execAadd (noRet : BitVec 1) (ty rb ra rd : BitVec 5) (stl : BitVec 2) (s : State) : Outcome State Fault Refusal :=
  issue 4 stl (scalarAtom 0 noRet ty rb ra rd) s

/-- AAND (R327). -/
def execAand (noRet : BitVec 1) (ty rb ra rd : BitVec 5) (stl : BitVec 2) (s : State) : Outcome State Fault Refusal :=
  issue 4 stl (scalarAtom 1 noRet ty rb ra rd) s

/-- AOR (R327). -/
def execAor (noRet : BitVec 1) (ty rb ra rd : BitVec 5) (stl : BitVec 2) (s : State) : Outcome State Fault Refusal :=
  issue 4 stl (scalarAtom 2 noRet ty rb ra rd) s

/-- AXOR (R327). -/
def execAxor (noRet : BitVec 1) (ty rb ra rd : BitVec 5) (stl : BitVec 2) (s : State) : Outcome State Fault Refusal :=
  issue 4 stl (scalarAtom 3 noRet ty rb ra rd) s

/-- AMIN (R327). -/
def execAmin (noRet : BitVec 1) (ty rb ra rd : BitVec 5) (stl : BitVec 2) (s : State) : Outcome State Fault Refusal :=
  issue 4 stl (scalarAtom 4 noRet ty rb ra rd) s

/-- AMAX (R327). -/
def execAmax (noRet : BitVec 1) (ty rb ra rd : BitVec 5) (stl : BitVec 2) (s : State) : Outcome State Fault Refusal :=
  issue 4 stl (scalarAtom 5 noRet ty rb ra rd) s

/-- ASWAP (R327). -/
def execAswap (noRet : BitVec 1) (ty rb ra rd : BitVec 5) (stl : BitVec 2) (s : State) : Outcome State Fault Refusal :=
  issue 4 stl (scalarAtom 6 noRet ty rb ra rd) s

/-- ACAS (R328). -/
def execAcas (noRet : BitVec 1) (_ty rb ra rd : BitVec 5) (stl : BitVec 2) (s : State) : Outcome State Fault Refusal :=
  issue 4 stl (do
    if noRet = 0 then settleM
    readyM [ra, rb, rd] [] (if noRet = 0 then [rd] else []) []
    let a ← src ra
    let b ← src rb
    let c ← src rd
    atomM (noRet == 1) (vaOf a) 8 false (casOp c.toNat b.toNat) (fun old _ => putNew rd (BitVec.ofNat 64 old))) s

/-- ACASQ (R329). -/
def execAcasq (noRet : BitVec 1) (rb : BitVec 4) (ra : BitVec 5) (rd : BitVec 4) (stl : BitVec 2) (s : State) : Outcome State Fault Refusal :=
  issue 4 stl (do
    let rb := evenReg rb
    let rd := evenReg rd
    if noRet = 0 then settleM
    readyM [ra, rb, pairOf rb, rd, pairOf rd] [] (if noRet = 0 then [rd, pairOf rd] else []) []
    let a ← src ra
    let b0 ← src rb
    let b1 ← src (pairOf rb)
    let c0 ← src rd
    let c1 ← src (pairOf rd)
    atomM (noRet == 1) (vaOf a) 16 false (casOp (c0.toNat + 2 ^ 64 * c1.toNat) (b0.toNat + 2 ^ 64 * b1.toNat)) (fun old _ => do
      putNew rd (BitVec.ofNat 64 (old % 2 ^ 64))
      putNew (pairOf rd) (BitVec.ofNat 64 (old / 2 ^ 64)))) s

/-- AFADD (R330). -/
def execAfadd (noRet : BitVec 1) (ty rb ra rd : BitVec 5) (stl : BitVec 2) (s : State) : Outcome State Fault Refusal :=
  issue 4 stl (scalarAtom 9 noRet ty rb ra rd) s

/-- AFMIN (R330). -/
def execAfmin (noRet : BitVec 1) (ty rb ra rd : BitVec 5) (stl : BitVec 2) (s : State) : Outcome State Fault Refusal :=
  issue 4 stl (scalarAtom 10 noRet ty rb ra rd) s

/-- AFMAX (R330). -/
def execAfmax (noRet : BitVec 1) (ty rb ra rd : BitVec 5) (stl : BitVec 2) (s : State) : Outcome State Fault Refusal :=
  issue 4 stl (scalarAtom 11 noRet ty rb ra rd) s

/-- AFLAG (R332): the flag register of the home slice is read and cleared. -/
def execAflag (ra rd : BitVec 5) (stl : BitVec 2) (s : State) : Outcome State Fault Refusal :=
  issue 4 stl (do
    settleM
    readyM [ra] [] [rd] []
    let a ← src ra
    let (pa, _) ← atomAddr (vaOf a) 1 false .load
    let s ← get
    let key := homeSlice (pa / 128) * 64 + s.spaceOf s.cur / 256
    set { s with flags := tset s.flags key 0 }
    putNew rd (tget 0 s.flags key)
    closeRegionM) s

/-! ## Top-k records (R333, R334) -/

/-- Bits [31:0], SCORE. -/
def tkScore (e : Word) : Nat := fieldNat e 0 32
/-- Bits [47:32], ID. -/
def tkId (e : Word) : Nat := fieldNat e 32 16
/-- Bits [55:48], GROUP. -/
def tkGroup (e : Word) : Nat := fieldNat e 48 8
/-- The sentinel entry. -/
def tkSentinel : Word := 0x0000FFFFFF800000

/-- Entry x ranks above entry y (R334). -/
def tkAbove (x y : Word) : Bool :=
  match numCmp (fp32.decode (tkScore x)) (fp32.decode (tkScore y)) with
  | some .gt => true
  | some .eq => decide (tkId x < tkId y)
  | _ => false

/-- Doubleword `i` of a record. -/
def recWord (r i : Nat) : Word := BitVec.ofNat 64 (r / 2 ^ (64 * i))

/-- The control word of a record. -/
def recCtl (r : Nat) : Word := recWord r 4

/-- The slots of a record. -/
def recSlots (r : Nat) : List Word := spanOf (fun i => recWord r (5 + i)) 0 11

/-- An entry put at its rank. -/
def tkInsert (e : Word) : List Word → List Word
  | [] => [e]
  | y :: r => if tkAbove e y then e :: y :: r else y :: tkInsert e r

/-- Entries in descending rank, each ID once: the higher-ranked entry of two stays (R334). -/
def tkOnce (seen : List Nat) : List Word → List Word
  | [] => []
  | x :: r => if seen.contains (tkId x) then tkOnce seen r else x :: tkOnce (tkId x :: seen) r

/-- The greedy selection of R334 from entries in descending rank: `sel` so far, in descending rank. -/
def tkSelect (k glim : Nat) (sel : List Word) : List Word → List Word
  | [] => sel
  | x :: r =>
    if sel.length < k ∧ (glim = 0 ∨ (sel.filter (fun y => tkGroup y == tkGroup x)).length < glim) then tkSelect k glim (sel ++ [x]) r
    else tkSelect k glim sel r

/-- A record or posted entry is malformed (R334). -/
def tkBad (r : Nat) (e : Word) : Bool :=
  let c := recCtl r
  let k := fieldNat c 0 4
  let n := fieldNat c 4 4
  k == 0 || decide (8 < k) || decide (k < n) || decide (8 < fieldNat c 8 4) || fieldNat c 12 20 != 0 ||
  ((recSlots r).take n).any (fun s => fieldNat s 56 8 != 0) || fieldNat e 56 8 != 0 || decide (255 < tkId e) ||
  decide (31 < tkGroup e) || (fp32.decode (tkScore e)).isNaN

/-- The slots that the device trusts are as it left them: those below COUNT in descending rank with distinct experts, the others
sentinels. -/
def tkTrusted (r : Nat) : Bool :=
  let n := fieldNat (recCtl r) 4 4
  let live := (recSlots r).take n
  (live.zip (live.drop 1)).all (fun p => tkAbove p.1 p.2) && ((recSlots r).drop n).all (· == tkSentinel)

/-- The new control word and slots after a post. -/
def tkPost (r : Nat) (e : Word) : Word × List Word :=
  let c := recCtl r
  let n := fieldNat c 4 4
  let sel := tkSelect (fieldNat c 0 4) (fieldNat c 8 4) [] (tkOnce [] (tkInsert e ((recSlots r).take n)))
  let groups := sel.foldl (fun a x => if tkGroup x < 32 then a ||| 2 ^ tkGroup x else a) 0
  (BitVec.ofNat 64 (fieldNat c 0 4 + sel.length * 16 + fieldNat c 8 4 * 256 + groups * 2 ^ 32),
   sel ++ spanOf (fun _ => tkSentinel) 0 (11 - sel.length))

/-- Doublewords put together, lowest first. -/
def joinWords : List Word → Nat
  | [] => 0
  | w :: r => w.toNat + 2 ^ 64 * joinWords r

/-- A record after a post: the record, RECBAD, and the result; `free` gives what a record that was not as the device left it
becomes (R334). -/
def tkStep (free : Nat → Word) (r : Nat) (e : Word) : Option Nat × Nat × Word :=
  if tkBad r e then (none, 32, BitVec.allOnes 64)
  else if r / 2 ^ tkId e % 2 = 1 then (none, 0, recCtl r)
  else if tkTrusted r then
    let p := tkPost r e
    (some (r % 2 ^ 256 + 2 ^ 256 * joinWords (p.1 :: p.2)), 0, p.1)
  else
    let ws := spanOf free 0 16
    (some (joinWords ws), 0, ws.getD 4 0)

/-- ATOPK (R334). -/
def execAtopk (noRet : BitVec 1) (rb ra rd : BitVec 5) (stl : BitVec 2) (s : State) : Outcome State Fault Refusal :=
  issue 4 stl (do
    if noRet = 0 then settleM
    readyM [ra, rb] [] (if noRet = 0 then [rd] else []) []
    let a ← src ra
    let e ← src rb
    let s ← get
    set { s with fresh := s.fresh + 16 }
    let free (i : Nat) : Word := Config.freeWord (s.fresh + i)
    atomM (noRet == 1) (vaOf a) 128 false (fun r => let t := tkStep free r e; (t.1, t.2.1))
      (fun old _ => putNew rd (tkStep free old e).2.2)) s

/-! ## VATOM (R335) -/

/-- Tags of the data that a lane operation accepts. -/
def vatomTag (fn t : Nat) : Bool :=
  let i := t == 3 || t == 4 || t == 7 || t == 8
  if fn ≤ 5 then i else if fn = 6 then i || t == 0 else tagFp t || tagPair t

/-- The places of all elements, in ascending order; a failing check finds the walks of the elements before it made (R324, R320). -/
def vatomAddrs (gens : Tbl Gen) (n : Nat) : List Nat → M (List (Nat × Nat × Bool))
  | [] => return []
  | va :: r => do
    let (pa, so) ← keeping gens (atomAddr va n true .atomic)
    let rest ← vatomAddrs gens n r
    return (va, pa, so) :: rest

/-- One atomic per element in ascending order: old values, 0 where an element met poison, and the flags. -/
def vatomAll (fn ty n : Nat) : List (Nat × Nat × Bool) → List Nat → M (List Nat × Nat)
  | (va, pa, so) :: r, x :: xs => do
    match ← atomDo pa n so (atomOp fn ty x) with
    | some (old, fl) =>
      let rest ← vatomAll fn ty n r xs
      return (old :: rest.1, fl ||| rest.2)
    | none =>
      recordPoison va
      let rest ← vatomAll fn ty n r xs
      return (0 :: rest.1, rest.2)
  | _, _ => return ([], 0)

/-- The elements of a VATOM at issue, once every check has passed (R324, R335): the format of the data, their size, the places, and the
operands. On a core without lanes no register has a tag that the index check accepts, and R335 has that core trap ILLOP, so the grant is
tested first (log entry 27). -/
def vatomM (noRet : BitVec 1) (op : BitVec 4) (rb ra rd : BitVec 5) (bits : Word) : M (Nat × Nat × List (Nat × Nat × Bool) × List Nat) := do
  if noRet = 0 then settleM
  let c ← getC
  readyLocsM (c.locOf ra ++ [.v rb.toNat, .v rd.toNat]) []
  need (isGeneral (← curK) && c.grant != 0) cILLOP bits
  let t ← tagM (vatomTag op.toNat) rd false
  let ti ← tagM tagIndex rb true
  let gens := (← getC).gens
  let base ← src ra
  let c ← getC
  let z := elemBytes t
  let n := min (c.count t) (c.count ti)
  let offs := (indexOffsets ti z (c.elems rb.toNat ti)).take n
  let places ← vatomAddrs gens z (offs.map (vaddr base))
  return (t, z, places, c.elems rd.toNat t)

/-- VATOM (R335). -/
def execVatom (noRet : BitVec 1) (op : BitVec 4) (rb ra rd : BitVec 5) (stl : BitVec 2) (s : State) : Outcome State Fault Refusal :=
  issue 4 stl (do
    let (t, z, places, old) ← vatomM noRet op rb ra rd (instrBits (.vatom noRet op rb ra rd stl))
    let r ← vatomAll op.toNat t z places old
    if noRet = 0 then
      modC fun c => c.putElems rd.toNat t (r.1 ++ old.drop places.length)
      if 9 ≤ op.toNat then raiseFlags (BitVec.ofNat 64 r.2)
      closeRegionM
    else keepRegion) s

/-- The first `j` elements of a VATOM reach their home slices. -/
def vatomSome (j : Nat) (noRet : BitVec 1) (op : BitVec 4) (rb ra rd : BitVec 5) (bits : Word) : M Unit := do
  let (t, z, places, old) ← vatomM noRet op rb ra rd bits
  let _ ← vatomAll op.toNat t z (places.take (j % (places.length + 1))) old

/-- The reset of its function finds core `k` in the midst of a VATOM, or not (R336): where its next instruction is one, some of the
elements, from the lowest on, have been performed, and neither the rest nor a result will be. Whether it is and how many are, the spec
leaves to the moment of the reset: free choices (log entry 110). -/
def State.cutVatom (s : State) (k : Nat) : State :=
  let begun := Config.freeChoice s.fresh % 2 == 1
  let j := Config.freeChoice (s.fresh + 1)
  let s := { s with fresh := s.fresh + 2 }
  if !begun then s else
  match s.fetch k with
  | .instr t (.vatom noRet op rb ra rd stl) =>
    match vatomSome j noRet op rb ra rd (instrBits (.vatom noRet op rb ra rd stl)) { t with cur := k } with
    | .ok (_, u) => { u.modCore k fun c => { s.core k with l1 := c.l1, uoOld := c.uoOld, tlb := c.tlb } with cur := s.cur }
    | .error _ => s
  | _ => s

end Sys2Proof.Machine
end

