-- ==== Sys2Proof/Machine/Region.lean ====
section
/-! DEFINITION. The pool and the regions' beginnings: kind tables and the checks of descriptors (spec/02_tiles.md R15 to R24),
insertion with ages, overflow and renumbering (spec/02 R19, R20; spec/06 R97, R103, R106), completion tiles (spec/04 R70, R71),
and activation with its checks (spec/04 R60 to R66, R74 to R76). -/

namespace Sys2Proof.Machine

/-! ## Descriptors (R15 to R18) -/

/-- KIND of a descriptor. -/
def descKind (d : List Word) : Nat := fieldNat (d.getD 0 0) 0 16
/-- POISON. -/
def descPoison (d : List Word) : Bool := (d.getD 2 0).getLsbD 63
/-- INLINE. -/
def descInline (d : List Word) : Bool := (d.getD 2 0).getLsbD 62
/-- FMT. -/
def descFmt (d : List Word) : Nat := fieldNat (d.getD 2 0) 53 8
/-- VA. -/
def descVa (d : List Word) : Nat := fieldNat (d.getD 2 0) 0 53
/-- ROWS. -/
def descRows (d : List Word) : Nat := fieldNat (d.getD 3 0) 0 16
/-- COLS. -/
def descCols (d : List Word) : Nat := fieldNat (d.getD 3 0) 16 16

/-- A field of a descriptor as a 64-bit value: 0 keyA, 1 keyB, 2 aux (R17). -/
def descField (d : List Word) (f : Nat) : Word :=
  match f with
  | 0 => BitVec.ofNat 64 (fieldNat (d.getD 0 0) 16 24)
  | 1 => BitVec.ofNat 64 (fieldNat (d.getD 0 0) 40 24)
  | _ => d.getD 1 0

/-- A descriptor with PENDING and age as the home slice writes them (R16). -/
def descStamp (d : List Word) (pending : Bool) (age : Nat) : List Word :=
  [d.getD 0 0, d.getD 1 0, setField (d.getD 2 0) 61 1 (if pending then 1 else 0), setField (d.getD 3 0) 32 32 age]

/-- Age of a tile. -/
def Tile.age (t : Tile) : Nat := fieldNat (t.d.getD 3 0) 32 32

/-- PENDING of a tile. -/
def Tile.pending (t : Tile) : Bool := (t.d.getD 2 0).getLsbD 61

/-- The age of a pending product (R390). -/
def pendingAge : Nat := 0xFFFFFFFF

/-! ## The kind table (R21, R22) -/

/-- The address space of a region. -/
def Region.space (g : Region) : Nat := g.func * 256 + g.proc

/-- N of a header, none when the header breaks R21. -/
def kindCount (h : List Word) : Option Nat :=
  if fieldNat (h.getD 0 0) 32 32 = 0 ∧ h.getD 1 0 = 0 ∧ 2 ≤ (h.getD 0 0).toNat ∧ (h.getD 0 0).toNat ≤ 65536
  then some (h.getD 0 0).toNat else none

/-- An entry of a kind table, none for a kind that is not declared. The entry is what the home copy holds at the step of the check, where
R23 leaves open whether an entry rewritten meanwhile is seen old or new (DESIGN CHOICE, log entry 40); a header that breaks R21 after
activation declares no kind, so that check 1 of R24 fails (DESIGN CHOICE, log entry 41). -/
def State.kindEntry (s : State) (space kinds k : Nat) : State × Except (MemErr × Nat) (Option (Word × Word)) :=
  match s.devWords space kinds 2 with
  | (s, .error e) => (s, .error e)
  | (s, .ok h) =>
    match kindCount h with
    | none => (s, .ok none)
    | some n =>
      if k = 0 ∨ n ≤ k then (s, .ok none) else
      match s.devWords space (kinds + 16 * k) 2 with
      | (s, .error e) => (s, .error e)
      | (s, .ok e) => (s, .ok (some (e.getD 0 0, e.getD 1 0)))

/-- PLACE of an entry. -/
def entPlace (e : Word × Word) : Nat := fieldNat e.1 0 2
/-- LAYOUT. -/
def entLayout (e : Word × Word) : Nat := fieldNat e.1 2 2
/-- FMT. -/
def entFmt (e : Word × Word) : Nat := fieldNat e.1 8 8
/-- PSKIP. -/
def entPskip (e : Word × Word) : Bool := e.1.getLsbD 16
/-- SHAPE. -/
def entShape (e : Word × Word) : Bool := e.1.getLsbD 17
/-- A reserved bit of an entry is set. -/
def entReserved (e : Word × Word) : Bool := fieldNat e.1 18 46 != 0 || fieldNat e.1 4 4 != 0 || fieldNat e.2 32 32 != 0

/-- The checks of R24 on a descriptor and its kind's entry: the reason code, 0 when it passes. -/
def insertReason (d : List Word) (e : Option (Word × Word)) : Nat :=
  match e with
  | none => 1
  | some e =>
    if entReserved e ∨ entPlace e = 3 ∨ entLayout e = 3 then 7
    else if tagDefined (descFmt d) = false ∨ (entFmt e ≠ 0 ∧ descFmt d ≠ entFmt e) then 2
    else if descInline d ≠ (entLayout e == 0) then 3
    else if entLayout e = 2 ∧ descVa d % 16 ≠ 0 then 4
    else if entLayout e = 1 ∧ descVa d % max 1 (tagBits (descFmt d) / 8) ≠ 0 then 4
    else if entShape e ∧ (fieldNat e.2 0 16 < descRows d ∨ fieldNat e.2 16 16 < descCols d) then 5
    else 0

/-- The logical slice that a kind's present entry gives a descriptor; none where R70 or, with the layout, R453 refuses it. -/
def State.placeOf (s : State) (g : Region) (d : List Word) (layout : Bool) : State × Option Nat :=
  match s.kindEntry g.space g.eff.kinds (descKind d) with
  | (s, .error _) => (s, none)
  | (s, .ok none) => (s, none)
  | (s, .ok (some e)) =>
    if entReserved e ∨ entPlace e = 3 ∨ (layout ∧ entLayout e = 3) then (s, none)
    else (s, some (lsliceOf (descField d (entPlace e))))

/-! ## Insertion (R19, R20, R103, R106) -/

/-- The copies of a region: two when it is paired (R400). -/
def Region.copies (g : Region) : List Nat := if g.eff.paired then [0, 1] else [0]

/-- The tiles of a region's copy in a logical slice. -/
def State.tilesAt (s : State) (r copy l : Nat) : List Tile :=
  s.tiles.filter fun t => t.region == r && t.copy == copy && t.lslice == l

/-- The tiles of a logical slice receive the ages 0, 1, 2 and so on in their order (R20); a pending tile has no age yet. -/
def State.renumber (s : State) (r copy l : Nat) : State :=
  let ts := sortBy (fun a b => decide (a.age < b.age)) ((s.tilesAt r copy l).filter (fun t => !t.pending))
  let ages : Tbl Nat := (ts.map (fun (t : Tile) => t.id)).zipIdx
  let stamp (t : Tile) : Tile := match tfind ages t.id with
    | some a => { t with d := descStamp t.d false a }
    | none => t
  let s := { s with tiles := s.tiles.map stamp }
  s.modRegion r fun g => { g with ages := tset g.ages (copy * 4096 + l) ts.length }

/-- The next age of a logical slice (R19, R20). -/
def State.nextAge (s : State) (r copy l : Nat) : State × Nat :=
  let key := copy * 4096 + l
  let now (s : State) : Nat := match s.region? r with | some g => tget 0 g.ages key | none => 0
  let s := if now s = pendingAge then s.renumber r copy l else s
  (s.modRegion r fun g => { g with ages := tset g.ages key (now s + 1) }, now s)

/-- A descriptor inserted at its home slice for one copy: resident, in the overflow list, or refused for want of room in the
overflow area (R103, R106). -/
def State.insertOne (s : State) (r copy l : Nat) (d : List Word) (pending : Bool) (key : Nat × Nat × Nat × Nat) : State :=
  match s.region? r with
  | none => s
  | some g =>
    let sl := s.sliceOf g copy l
    let full := s.sieveFull sl || (s.tilesAt r copy l).any (·.overflow)
    if full && decide (Config.overflowBytes < 32 * ((s.tiles.filter (·.overflow)).length + 1))
    then s.faultRegion r (detailWord 36 0 0 sl)
    else
      let a := if pending then (s, pendingAge) else s.nextAge r copy l
      let s := a.1
      let t : Tile := { id := s.nextTile, region := r, copy := copy, lslice := l, d := descStamp d pending a.2, overflow := full,
                        held := false, key := key, from_ := s.clock + 1 }
      let s := { s with tiles := s.tiles ++ [t], nextTile := s.nextTile + 1 }
      s.modRegion r fun x => (x.markDirty sl).unsweep copy l

/-- A descriptor inserted in each of some copies. -/
def State.insertTile (s : State) (r l : Nat) (copies : List Nat) (d : List Word) (pending : Bool) (key : Nat × Nat × Nat × Nat) :
    State := copies.foldl (fun s c => s.insertOne r c l d pending key) s

/-- A removal, insertion or refill of this place in the order of R110 and R389 may still take place in the control cycle. -/
def State.insertTurn (s : State) (key : List Nat) : Bool := s.lastInsert.1 != s.clock || !lexLt key s.lastInsert.2

/-- A removal, insertion or refill of a place in the order of R110 and R389 has taken place: `[]` removal by a COMMIT, 0 SEED, 1 products
with the slice and the reservation of their group, 2 completion tiles with the RCB's VA, 3 refill. A release keeps no order with these: its
tiles are seen from the next cycle on, and neither an insertion nor a refill looks at it (DESIGN CHOICE, log entry 113). -/
def State.noteInsert (s : State) (key : List Nat) : State := { s with lastInsert := (s.clock, key) }

/-- Notices held for want of room in their rings that no region waits with. -/
def State.ownerless (s : State) : Nat := (s.funcs.flatMap fun f => f.2.noticesHeld.filter fun n => n.2.2.isNone).length

/-- What a step of the device makes of `s` would hold a notice with which no region waits, so that the step itself waits (R443), or insert a
tile after one of a later place in the control cycle (R389). -/
def State.tooSoon (s u : State) : Bool := decide (s.ownerless < u.ownerless) || !s.insertTurn u.lastInsert.2

/-- A step of the device performed, or not yet: then nothing of it has happened (DEDUCED, log entry 116: R443 names what waits, not how
much of a step has been done by then). -/
def State.orWait (s u : State) : State := if s.tooSoon u then s else u

/-- Tiles removed for good (R109). -/
def State.removeTiles (s : State) (r copy l : Nat) (ids : List Nat) : State :=
  State.modRegion { s with tiles := s.tiles.filter fun t => !ids.contains t.id } r fun g => g.unsweep copy l

/-! ## Completion tiles (R70, R71) -/

/-- The descriptor of a completion tile. -/
def completionDesc (cdesc : Word) (cstat bwhich rcb : Nat) : List Word :=
  [cdesc, BitVec.ofNat 64 (cstat + bwhich * 16 + rcb / 256 % 2 ^ 45 * 2 ^ 16), BitVec.ofNat 64 (2 ^ 62), 0]

/-- A completion tile reaches a parent's home slice; the answer says whether it was delivered. One that finds no room in the overflow
area, so that its parent faults and nothing is inserted (R106), counts as delivered, and ORPHAN stays clear (DESIGN CHOICE, log entry 103:
R71 names a parent that is not ACTIVE alone). -/
def State.deliverTile (s : State) (parent : Option Nat) (cdesc : Word) (cstat bwhich rcb : Nat) : State × Bool :=
  match parent.bind s.region? with
  | none => (s, false)
  | some p =>
    if p.state ≠ .active then (s, false) else
    let d := completionDesc cdesc cstat bwhich rcb
    match s.placeOf p d false with
    | (s, none) => (s.faultRegion p.id (detailWord 41 0 0 (descKind d)), false)
    | (s, some l) => (((s.insertTile p.id l p.copies d p.eff.stepped (2, 0, 0, rcb)).memBudget p.id).noteInsert [2, rcb], true)

/-- A completion tile is sent (R70): PARENT and the kind in CDESC are nonzero. -/
def tileSent (parentVa : Nat) (cdesc : Word) : Bool := parentVa != 0 && fieldNat cdesc 0 16 != 0

/-- The DEV fields of an RCB from DETAIL to TRUN (R61). What software wrote to one of them meanwhile is gone: R64 leaves the field
unpredictable then, and the model takes the device's own value (DESIGN CHOICE, log entry 42). -/
def State.putCounters (s : State) (func proc rcb : Nat) (detail : Word) (c : Counters) (by_ : Option Nat) : State :=
  [detail, BitVec.ofNat 64 c.ndisp, BitVec.ofNat 64 c.nfire, BitVec.ofNat 64 c.nprod, BitVec.ofNat 64 c.nlive,
   BitVec.ofNat 64 c.npois, BitVec.ofNat 64 c.nstep, BitVec.ofNat 64 c.npre, BitVec.ofNat 64 c.trun].zipIdx.foldl
    (fun s e => s.devStore8 func proc (rcb + 0x88 + 8 * e.2) e.1 by_) s

/-- A notice of R446 on a region. -/
def noticeOf (rcb type cstat : Nat) (detail : Word) : Word × Word :=
  (BitVec.ofNat 64 rcb, BitVec.ofNat 64 (type + cstat * 2 ^ 8 + detail.toNat % 2 ^ 32 * 2 ^ 16))

/-- A STATUS value kept for those that await the region of an RCB is forgotten. -/
def State.dropLost (s : State) (f p rcb : Nat) : State :=
  { s with lostStatus := s.lostStatus.filter fun e => !(e.1 == f * 256 + p && e.2.1 == rcb) }

/-- The last write of STATUS, with STATE = DONE; a lost one is kept for those that await the region (R454). Then a notice of TYPE 1 is
posted where stability reporting is host-assisted (R445, R446). -/
def State.finalStatus (s : State) (f p rcb : Nat) (v : Word) (cstat : Nat) (detail : Word) : State :=
  let s := s.dropLost f p rcb
  let s := match s.devWrite (f * 256 + p) (rcb + 0x80) (leBytes 8 v.toNat) with
    | (s, none) => s
    | (s, some _) =>
      let s := s.postNotice f (BitVec.ofNat 64 ((rcb + 0x80) % vaSpace), 3) none
      { s with lostStatus := (f * 256 + p, rcb, v) :: s.lostStatus }
  if s.duty.getLsbD 2 then s.postNotice f (noticeOf rcb 1 cstat detail) none else s

/-! ## The guards of a rule (R57, R58, R60) -/

/-- EN of a guard term. -/
def guardEn (t : Word) : Bool := t.getLsbD 31
/-- OP. -/
def guardOp (t : Word) : Nat := fieldNat t 28 3
/-- RK. -/
def guardRk (t : Word) : Bool := t.getLsbD 27
/-- LSLOT. -/
def guardLslot (t : Word) : Nat := fieldNat t 25 2
/-- LFLD. -/
def guardLfld (t : Word) : Nat := fieldNat t 23 2
/-- RSLOT. -/
def guardRslot (t : Word) : Nat := fieldNat t 21 2
/-- RFLD. -/
def guardRfld (t : Word) : Nat := fieldNat t 19 2

/-- A guard term of a rule of an arity is well formed (R57; check 11 of R74). -/
def guardOk (arity : Nat) (t : Word) : Bool :=
  if !guardEn t then fieldNat t 0 32 == 0
  else fieldNat t 16 3 == 0 && decide (guardLslot t < arity) && guardLfld t != 3 &&
    (if guardRk t then guardRslot t == 0 && guardRfld t == 0
     else fieldNat t 0 16 == 0 && decide (guardRslot t < arity) && guardRfld t != 3)

/-- The comparison of R58. -/
def guardCmp (op : Nat) (l r : Word) : Bool :=
  match op with
  | 0 => l == r
  | 1 => l != r
  | 2 => l.slt r
  | 3 => l.sle r
  | 4 => l.ult r
  | 5 => l.ule r
  | 6 => l != 0 && r.toNat % l.toNat == 0
  | _ => l &&& r == r

/-- A guard term holds for the descriptors of a group (R57, R58). -/
def guardHolds (t : Word) (ds : List (List Word)) : Bool :=
  let l := descField (ds.getD (guardLslot t) []) (guardLfld t)
  let c : BitVec 16 := t.setWidth 16
  let r := if guardRk t then (if guardOp t < 4 then c.signExtend 64 else c.setWidth 64)
    else descField (ds.getD (guardRslot t) []) (guardRfld t)
  !guardEn t || guardCmp (guardOp t) l r

/-- Node of the placement check: slot and field. -/
def placeNode (slot fld : Nat) : Nat := slot * 4 + fld

/-- Classes joined: every node of the class of `b` moves to that of `a`. -/
def joinClass (cl : List Nat) (a b : Nat) : List Nat :=
  cl.map fun c => if c = cl.getD b 0 then cl.getD a 0 else c

/-- The placement check of R60 by guards; SEL against PLACE is check 10. -/
def placementOk (r : List Word) : Bool :=
  let cl := [0, 1, 2, 3].foldl (fun cl i =>
    let t := ruleGuard r i
    if guardEn t && guardOp t == 0 && !guardRk t
    then joinClass cl (placeNode (guardLslot t) (guardLfld t)) (placeNode (guardRslot t) (guardRfld t)) else cl) (spanOf id 0 16)
  (spanOf id 0 (ruleArity r)).all fun s =>
    cl.getD (placeNode s (ruleSel r s)) 0 == cl.getD (placeNode 0 (ruleSel r 0)) 0

/-! ## The checks of activation (R74) -/

/-- Checks that end with a reason, a rule index and a slot or guard; the reads they have made stay made. -/
abbrev Chk := ExceptT (Nat × Nat × Nat) (StateM State)

/-- A check. -/
def chk (b : Bool) (reason rule slot : Nat) : Chk Unit := if b then pure () else throw (reason, rule, slot)

/-- Doublewords that activation reads; a fault is reason 15. -/
def chkWords (space va n : Nat) : Chk (List Word) := do
  let s ← get
  let (s, r) := s.devWords space va n
  set s
  match r with
  | .error _ => throw (15, 0, 0)
  | .ok ws => return ws

/-- Check 9: reserved bits, ARITY, CLASS, AFF and SEL. -/
def ruleFieldsOk (r : List Word) : Bool :=
  let a := ruleArity r
  fieldNat (ruleWord r 0) 24 40 == 0 && !(ruleWord r 0).getLsbD 15 && fieldNat (ruleWord r 4) 53 11 == 0 &&
  fieldNat (ruleWord r 5) 53 11 == 0 && ruleWord r 7 == 0 && decide (1 ≤ a ∧ a ≤ 4) && ruleAff r != 3 &&
  [0, 1, 2, 3].all fun s => if s < a then ruleSel r s != 3 else ruleSel r s == 0

/-- Check 10 for one slot. Of several slots that fail, the lowest is named: R74 gives no order among the slots of one rule, and the model goes
slot by slot, with the kind's declaration and SEL = PLACE of a slot together (DESIGN CHOICE, log entry 119). -/
def slotChk (space kinds i : Nat) (r : List Word) (slot : Nat) : Chk Unit := do
  if ruleArity r ≤ slot then chk (ruleKind r slot == 0) 10 i slot
  else
    let s ← get
    let (s, e) := s.kindEntry space kinds (ruleKind r slot)
    set s
    match e with
    | .error _ => throw (15, 0, 0)
    | .ok e =>
      chk (match e with | some e => entPlace e == ruleSel r slot | none => false) 10 i slot

/-- ENTRY and ENTRY2 of check 13. -/
def entriesOk (r : List Word) : Bool :=
  let ok (e : Nat) : Bool := e != 0 && e % 2 == 0
  ok (ruleEntry r) && (if ruleClass r = 1 then ok (ruleEntry2 r) else ruleEntry2 r == 0)

/-- A commutativity table of `m` kinds passes R76. -/
def commOk (m : Nat) (rows inv : List Word) : Bool :=
  (spanOf id 0 m).all fun i =>
    let row := rows.getD i 0
    let e0 := inv.getD (2 * i) 0
    decide (row.toNat < 2 ^ m) &&
    (spanOf id 0 m).all (fun j => row.getLsbD j == (rows.getD j 0).getLsbD i) &&
    fieldNat e0 54 10 == 0 && inv.getD (2 * i + 1) 0 == 0 &&
    (if e0.getLsbD 53 then fieldNat e0 0 53 == 0 else fieldNat e0 0 53 != 0 && fieldNat e0 0 53 % 2 == 0)

/-- The commutativity table read and checked for BOOSTED rule `i` (R75, R76): rows, and the first doubleword of each entry. -/
def commChk (space va i : Nat) : Chk (List Word × List Word) := do
  chk (va != 0) 14 i 0
  let h ← chkWords space va 2
  let m := (h.getD 0 0).toNat
  chk (decide (1 ≤ m ∧ m ≤ 64) && h.getD 1 0 == 0) 14 i 0
  let rows ← chkWords space (va + 0x10) m
  let inv ← chkWords space (va + (0x10 + 8 * m + 15) / 16 * 16) (2 * m)
  chk (commOk m rows inv) 14 i 0
  return (rows, (spanOf (fun j => inv.getD (2 * j) 0) 0 m))

/-- The checks of one rule, in the order 9, 10, 11, 8, 12, 13, 14; `comm` is the commutativity table once it is known. -/
def ruleChk (space kinds commVa i : Nat) (r : List Word) (comm : Option (List Word × List Word)) :
    Chk (Option (List Word × List Word)) := do
  chk (ruleFieldsOk r) 9 i 0
  for s in [0, 1, 2, 3] do slotChk space kinds i r s
  for n in [0, 1, 2, 3] do chk (guardOk (ruleArity r) (ruleGuard r n)) 11 i n
  chk (placementOk r) 8 i 0
  chk (if ruleClass r = 3 then decide (1 ≤ ruleGwid r ∧ ruleGwid r ≤ 8) else ruleGwid r == 0) 12 i 0
  chk (entriesOk r) 13 i 0
  if ruleClass r = 2 ∧ comm.isNone then
    let t ← commChk space commVa i
    return some t
  else return comm

/-- Every rule read and checked in ascending index: an inherited table is not read again. R74 does not say when a record is read; record
`i` is read once the rules below it have passed (DESIGN CHOICE, log entry 43). -/
def rulesChk (space kinds commVa rulesVa : Nat) (copy : Option (List (List Word))) (i : Nat)
    (comm : Option (List Word × List Word)) : Nat → Chk (List (List Word) × Option (List Word × List Word))
  | 0 => return ([], comm)
  | n + 1 => do
    let r ← match copy with
      | some rs => pure (rs.getD i [])
      | none => chkWords space (rulesVa + 64 * i) 8
    let comm ← ruleChk space kinds commVa i r comm
    let (rs, c) ← rulesChk space kinds commVa rulesVa copy (i + 1) comm n
    return (r :: rs, c)

/-! ## Activation (R61 to R66) -/

/-- Field group `b` of a child comes from its parent (R66). -/
def inherits (p : Option Region) (w : List Word) (b : Nat) : Bool :=
  match p with
  | some g => g.pass / 2 ^ b % 2 == 1 && !(w.getD 7 0).getLsbD (16 + b)
  | none => false

/-- The effective fields of an RCB without its tables. -/
def effOf (p : Option Region) (w : List Word) : Eff :=
  let ctrl := w.getD 1 0
  let from' {α : Type} (b : Nat) (own : α) (get : Eff → α) : α :=
    if inherits p w b then (match p with | some g => get g.eff | none => own) else own
  { rules := [], kinds := from' 1 (fieldNat (w.getD 3 0) 0 53) (·.kinds), comm := from' 2 (fieldNat (w.getD 4 0) 0 53) (·.comm),
    commRows := from' 2 [] (·.commRows), commInv := from' 2 [] (·.commInv), kbank := [],
    trap := from' 4 (w.getD 6 0 &&& 0x1FFFFFFFFFFFFF) (·.trap),
    stepped := from' 5 (fieldNat ctrl 0 2 == 1) (·.stepped), rollback := from' 5 (ctrl.getLsbD 2) (·.rollback),
    paired := from' 5 (ctrl.getLsbD 3) (·.paired), prio := from' 6 (fieldNat ctrl 8 3) (·.prio),
    fdom := from' 7 (fieldNat ctrl 16 16) (·.fdom), smap := from' 8 (fieldNat ctrl 32 4) (·.smap),
    bfire := from' 9 (w.getD 9 0).toNat (·.bfire), bcore := from' 10 (w.getD 10 0).toNat (·.bcore),
    btile := from' 11 (w.getD 11 0).toNat (·.btile), bmem := from' 12 (w.getD 12 0).toNat (·.bmem),
    btime := from' 13 (w.getD 13 0).toNat (·.btime), frmi := from' 14 (w.getD 14 0 &&& 15) (·.frmi) }

/-- The reserved bits of an RCB are zero (R61, R62, R66). The table of R61 does not describe bits [63:32] of the INHERIT doubleword, which
are taken as reserved (DESIGN CHOICE, log entry 44). Bytes 0xD0 to 0xFF, which the table reserves but does not have software write, are
not looked at (DESIGN CHOICE, log entry 101). -/
def rcbReservedOk (w : List Word) : Bool :=
  [0, 2, 3, 4, 5, 6].all (fun i => fieldNat (w.getD i 0) 53 11 == 0) &&
  (w.getD 1 0) &&& 0xFE00FFF00000F8F0 == 0 && (w.getD 7 0) &&& 0xFFFFFFFF80008000 == 0 &&
  fieldNat (w.getD 14 0) 4 60 == 0 && w.getD 15 0 == 0

/-- Check 1 of R74. An own field in whose place the parent's value counts is not looked at, but its reserved bits are (DESIGN CHOICE, log
entry 45). -/
def rcbOk (p : Option Region) (rcb : Nat) (w : List Word) (e : Eff) : Bool :=
  rcb % 256 == 0 && rcbReservedOk w && (inherits p w 5 || decide (fieldNat (w.getD 1 0) 0 2 ≤ 1)) &&
  decide (e.frmi.toNat % 8 ≤ 4) && (inherits p w 0 || fieldNat (w.getD 2 0) 0 53 % 64 == 0) && e.kinds % 16 == 0 &&
  e.comm % 16 == 0 && (inherits p w 3 || fieldNat (w.getD 5 0) 0 53 % 8 == 0)

/-- The region of a process with an RCB at a VA that is ACTIVE or DRAINING. -/
def State.regionAt (s : State) (func proc rcb : Nat) : Option Region :=
  s.regions.find? fun g => g.func == func && g.proc == proc && g.rcb == rcb

/-- Levels of the region tree from a region up to its root, at most `fuel`. -/
def State.depth (s : State) (r : Option Nat) : Nat → Nat
  | 0 => 0
  | fuel + 1 => match r with | none => 0 | some i => 1 + s.depth (s.parentOf i) fuel

/-- The checks of R74 on an RCB that has been read, and the effective fields with the tables (R64, R66). A child with a BOOSTED rule whose
COMM comes from a parent that never read that table has no copy to take, and reads the table at its own activation (DESIGN CHOICE, log
entry 46). DRAINING regions count among the 4,096, and completed ancestors among the 64 levels (DESIGN CHOICE, log entry 47). A STATUS of
DONE whose write was lost counts as written (R454). -/
def activationChk (func proc rcb : Nat) (w : List Word) (p : Option Region) : Chk Eff := do
  let e := effOf p w
  let s ← get
  let space := func * 256 + proc
  let copy := if inherits p w 0 then p.map (·.eff.rules) else none
  let n := match copy with | some rs => rs.length | none => fieldNat (w.getD 1 0) 48 9
  chk (rcbOk p rcb w e) 1 0 0
  chk (!e.rollback || e.stepped) 2 0 0
  chk (!e.paired || decide (2 ≤ s.bays)) 3 0 0
  chk (decide (1 ≤ n ∧ n ≤ 256)) 4 0 0
  let done := s.lostStatus.any fun x => x.1 == space && x.2.1 == rcb
  chk ((fieldNat (w.getD 16 0) 0 4 == 0 || fieldNat (w.getD 16 0) 0 4 == 3 || done) && (s.regionAt func proc rcb).isNone) 5 0 0
  chk (decide (s.depth (p.map (·.id)) 65 < 64) && decide (s.regions.length < 4096) &&
    (fieldNat (w.getD 0 0) 0 53 == 0 || p.isSome)) 6 0 0
  let h ← chkWords space e.kinds 2
  chk (kindCount h).isSome 7 0 0
  let comm := if e.commRows.isEmpty then none else some (e.commRows, e.commInv)
  let (rules, comm) ← rulesChk space e.kinds e.comm (fieldNat (w.getD 2 0) 0 53) copy 0 comm n
  let kb ← match p with
    | some g => if inherits p w 3 then pure g.eff.kbank else chkWords space (fieldNat (w.getD 5 0) 0 53) 32
    | none => chkWords space (fieldNat (w.getD 5 0) 0 53) 32
  let c := comm.getD ([], [])
  return { e with rules := rules, commRows := c.1, commInv := c.2, kbank := kb }

/-- A region as activation leaves it (R64). -/
def Region.fresh (id func proc rcb : Nat) (w : List Word) (p : Option Region) (e : Eff) (hold : Bool) : Region :=
  { id := id, func := func, proc := proc, rcb := rcb, parent := p.map (·.id), pass := fieldNat (w.getD 7 0) 0 16,
    cdesc := w.getD 8 0, eff := e, state := .active, cstat := 0, spent := [], faulted := false, detail := 0, killed := false,
    orphan := false, step := 0, held := hold, escalated := false, cnt := .zero, ndisp1 := 0, trunRem := 0, ages := [], ptrs := [], fseqs := [],
    swept := [], dirty := [], lastIdle := none, wave := none, snap := none, shd := [], frames := [], repeats := 0,
    bornStep := match p with | some g => g.step | none => 0, tileDue := false, doneDue := false }

/-- A refused activation completes the region at once with FAULT (R74), and its completion tile goes to an active parent (R70,
R71). Where the tile is not delivered, STATUS holds ORPHAN before it holds DONE. Of an RCB refused for its misalignment, R454 does not say
where the doublewords of its DEV fields go: the model stores them at the addresses that the RCB's VA gives, misaligned, each through the
page of its first byte (DESIGN CHOICE, log entry 104). -/
def State.refuseRegion (s : State) (func proc rcb : Nat) (w : List Word) (p : Option Region) (reason rule slot : Nat) : State :=
  let detail := detailWord reason rule slot 0
  let s := s.putCounters func proc rcb detail .zero none
  let d := if tileSent (fieldNat (w.getD 0 0) 0 53) (w.getD 8 0) then s.deliverTile (p.map (·.id)) (w.getD 8 0) 3 0 rcb else (s, true)
  let o := if d.2 then 0 else 2 ^ 16
  let s := if d.2 then d.1 else d.1.devStore8 func proc (rcb + 0x80) (BitVec.ofNat 64 (3 * 16 + o)) none
  s.finalStatus func proc rcb (BitVec.ofNat 64 (3 + 3 * 16 + o)) 3 detail

/-- A child whose FDOM is that of a faulted region above it that waits for NREL is held with the other descendants (R445). -/
def State.heldByFault (s : State) (p : Option Region) (e : Eff) : Bool :=
  match p with
  | some g => s.escalations.any fun x => x.2.2.2 == e.fdom && s.isAncestor x.1 g.id 64
  | none => false

/-- Activation of the region of an RCB whose 32 doublewords have been read (R64, R66, R74). The answer is the reason, 0 when the
region is ACTIVE. A refusal writes nothing to the RCB of a region that runs already, whatever the reason (DESIGN CHOICE, log entry 48:
R74 leaves that region unaffected, and has DETAIL and STATUS of a refused one written). A PARENT that names a region which is not ACTIVE
fails at check 6 only: checks 1 to 5 then use the child's own fields, whatever that region's PASS holds (DESIGN CHOICE, log entry 102). -/
def State.activate (s : State) (func proc rcb : Nat) (w : List Word) (hold : Bool) : State × Nat :=
  let pva := fieldNat (w.getD 0 0) 0 53
  let p := if pva = 0 then none else (s.regionAt func proc pva).filter (fun g => g.state == .active)
  match (activationChk func proc rcb w p).run.run s with
  | (.error (reason, rule, slot), s) =>
    if reason = 5 ∨ (s.regionAt func proc rcb).isSome then (s, reason) else (s.refuseRegion func proc rcb w p reason rule slot, reason)
  | (.ok e, s) =>
    let id := s.nextRegion
    let s := (s.dropLost func proc rcb).putCounters func proc rcb 0 .zero (some id)
    let s := s.devStore8 func proc (rcb + 0x80) 1 (some id)
    let esc := s.heldByFault p e
    let g := { Region.fresh id func proc rcb w p e (hold || esc) with escalated := esc }
    ({ s with regions := s.regions ++ [g], nextRegion := id + 1 }, 0)

end Sys2Proof.Machine
end

