-- ==== Sys2Proof/Machine/Sync.lean ====
section
/-! DEFINITION. Wired barrier channels, barrier objects and sync words (spec/17_barriers.md R338 to R348; spec/15 R302, R452
for the reports that reach objects and sync words). -/

namespace Sys2Proof.Machine
open Host

/-! ## Wired channels (R339 to R341) -/

/-- MEMBER bit of a channel. -/
def memberOf (m : Word) (n : Nat) : Bool := m.getLsbD n

/-- SPAN of a channel: 0 cluster, 1 bay, 2 partition. -/
def spanOfChan (m : Word) (n : Nat) : Nat := fieldNat m (16 + 2 * n) 2

/-- The unit that a span makes one group of, for a cluster. -/
def unitOfSpan (span cl : Nat) : Nat := match span with | 0 => cl | 1 => cl / 32 | _ => 0

/-- The scope at which a span's arrivals release and its waits acquire (R339). -/
def State.spanScope (s : State) (span : Nat) : Nat := match span with | 0 => 1 | 1 => 2 | _ => s.regionScope

/-- A core record that belongs to a group: cluster and function of its work, and its membership. -/
def inGroup (c : Core) (cl fn : Nat) (ch span unit func : Nat) : Bool :=
  memberOf c.bmask ch && spanOfChan c.bmask ch == span && unitOfSpan span cl == unit && fn == func

/-- A core has work. -/
def Core.busy (c : Core) : Bool := match c.run with | .idle => false | .out => false | _ => true

/-- The members of a group with their keys: running cores, and the saved cores of kept firings (R341). -/
def State.members (s : State) (ch span unit func : Nat) : Tbl Core :=
  s.cores.filter fun e => e.2.busy && inGroup e.2 (clusterOf e.1) (s.spaceOf e.1 / 256) ch span unit func

/-- The phase of a group. -/
def State.groupPhase (s : State) (ch span unit func : Nat) : Bool :=
  match s.groups.find? (fun g => g.chan == ch && g.span == span && g.unit == unit && g.func == func) with
  | some g => g.phase
  | none => false

/-- The phase of the group that a core's channel belongs to, under a membership mask. -/
def State.phaseOf (s : State) (k : Nat) (m : Word) (ch : Nat) : Bool :=
  let span := spanOfChan m ch
  s.groupPhase ch span (unitOfSpan span (clusterOf k)) (s.spaceOf k / 256)

/-- An arrival is outstanding: made, and its phase not flipped (R339). -/
def Chan.outstanding (c : Chan) (ph : Bool) : Bool := c.arrived && c.phase == ph

/-- Some joined member of a group has an outstanding arrival. -/
def State.groupBusy (s : State) (ch span unit func : Nat) : Bool :=
  let ph := s.groupPhase ch span unit func
  (s.members ch span unit func).any fun e => (e.2.chan ch).joined && (e.2.chan ch).outstanding ph

/-- A channel record of a core changed. -/
def Core.setChan (c : Core) (n : Nat) (x : Chan) : Core := { c with chans := tset c.chans n x }

/-- Channels on which BMASK would change a core's membership or span. -/
def maskChanges (old new : Word) : List Nat :=
  (spanOf id 0 15).filter fun n => memberOf old n != memberOf new n || spanOfChan old n != spanOfChan new n

/-- A value that BMASK accepts: reserved bits zero and no span of 0b11 (R339). -/
def maskOk (v : Word) : Bool :=
  fieldNat v 46 18 == 0 && !v.getLsbD 15 && (spanOf id 0 15).all fun n => spanOfChan v n != 3

/-- The mask written: changed channels start without an arrival, and join at once where no arrival is outstanding (R341). -/
def State.setMask (s : State) (k : Nat) (v : Word) : State :=
  let ns := maskChanges (s.core k).bmask v
  let chan (j : Bool) : Chan := { joined := j, arrived := false, phase := false }
  let s := s.modCore k fun c => ns.foldl (fun c n => c.setChan n (chan false)) { c with bmask := v }
  ns.foldl (fun s n =>
    let span := spanOfChan v n
    let busy := s.groupBusy n span (unitOfSpan span (clusterOf k)) (s.spaceOf k / 256)
    s.modCore k fun c => c.setChan n (chan (!busy))) s

/-- A group's phase flipped: every waiting joiner joins (R340, R341). -/
def State.flip (s : State) (ch span unit func : Nat) : State :=
  let ph := s.groupPhase ch span unit func
  let join (c : Core) : Core := c.setChan ch { c.chan ch with joined := true }
  let others := s.groups.filter fun g => !(g.chan == ch && g.span == span && g.unit == unit && g.func == func)
  { s with
    groups := { chan := ch, span := span, unit := unit, func := func, phase := !ph } :: others
    cores := s.cores.map fun e =>
      if e.2.busy && inGroup e.2 (clusterOf e.1) (s.spaceOf e.1 / 256) ch span unit func then (e.1, join e.2) else e }

/-- PHASE_FLIP (R340): the phase flips once every joined member has arrived in it; a kept firing holds it until it has resumed (R341). -/
def execPhaseFlip (channel span unit func : Nat) (s : State) : Outcome State Fault Refusal :=
  let ph := s.groupPhase channel span unit func
  let ms := (s.members channel span unit func).filter (fun e => (e.2.chan channel).joined)
  if !ms.isEmpty && ms.all (fun e => !isSaved e.1 && (e.2.chan channel).outstanding ph) then .next (s.flip channel span unit func) else .next s

/-- BMASK (R339). -/
def execBmask (ra : BitVec 5) (stl : BitVec 2) (s : State) : Outcome State Fault Refusal :=
  issue 4 stl (do
    readyM [ra] [] [] []
    let v ← src ra
    let s ← get
    let c := s.me
    need (maskOk v && (maskChanges c.bmask v).all fun n => !(c.chan n).outstanding (s.phaseOf s.cur c.bmask n)) cILLOP v
    modify fun s => s.setMask s.cur v
    keepRegion) s

/-- The core is a member of the channel, or the instruction traps ILLOP (R340). -/
def memberM (ch : BitVec 4) : M Unit := do
  let c ← getC
  need (memberOf c.bmask ch.toNat) cILLOP (BitVec.ofNat 64 ch.toNat)

/-- BARV (R340, R341). -/
def execBarv (ch : BitVec 4) (stl : BitVec 2) (s : State) : Outcome State Fault Refusal :=
  issue 4 stl (do
    let s0 ← get
    deferredPoison
    memberM ch
    let s ← get
    let n := ch.toNat
    let c := s.me
    let span := spanOfChan c.bmask n
    let ph := s.phaseOf s.cur c.bmask n
    if (c.chan n).outstanding ph then waitHere s0 4
    if !(c.chan n).joined && s.groupBusy n span (unitOfSpan span (clusterOf s.cur)) (s.spaceOf s.cur / 256) then waitHere s0 4
    releaseM (s.spanScope span)
    modC fun c => c.setChan n { joined := true, arrived := true, phase := ph }
    keepRegion) s

/-- BWAIT (R340). -/
def execBwait (ch : BitVec 4) (stl : BitVec 2) (s : State) : Outcome State Fault Refusal :=
  issue 4 stl (do
    let s0 ← get
    memberM ch
    let s ← get
    let n := ch.toNat
    let c := s.me
    if (c.chan n).outstanding (s.phaseOf s.cur c.bmask n) then waitHere s0 4
    modC fun c => c.setChan n { c.chan n with arrived := false }
    acquireM (s.spanScope (spanOfChan c.bmask n))
    forgetAhead) s

/-- BTEST (R340). -/
def execBtest (ch : BitVec 4) (pd : BitVec 3) (stl : BitVec 2) (s : State) : Outcome State Fault Refusal :=
  issue 4 stl (do
    readyM [] [] [] [pd]
    memberM ch
    let s ← get
    let n := ch.toNat
    let c := s.me
    if (c.chan n).outstanding (s.phaseOf s.cur c.bmask n) then putP pd false 0
    else
      modC fun c => c.setChan n { c.chan n with arrived := false }
      acquireM (s.spanScope (spanOfChan c.bmask n))
      putP pd true 0) s

/-! ## Objects and sync words at the home slice (R342 to R347) -/

/-- Every replica of a line is written back and dropped, and an owned copy returned, before an object of it is operated on
(R343). -/
def State.recallAll (s : State) (n : Nat) : State :=
  let s := s.cores.foldl (fun s e => if (lineFind e.2.l1 n).isSome then s.writeBackL1 e.1 n true else s) s
  let s := s.clusters.foldl (fun s e => if (lineFind e.2.cache n).isSome then s.writeBackCluster e.1 n true else s) s
  s.recallAny n

/-- The object or sync word is the most recently used of its home slice (R343). The first 4,096 of a slice are in its sync cache, and the
others have been written back to their lines; the model keeps the fields in the line in either case, and knows that an object is there. -/
def State.keepObject (s : State) (pa : Nat) : State := { s with sync := pa :: s.sync.filter (· != pa) }

/-- An object or sync word is about to be operated on at its home slice (R343). -/
def State.reachObject (s : State) (pa : Nat) : State := (s.recallAll (pa / 128)).keepObject pa

/-- Doubleword `i` of an object at a device address, as its home slice holds it. -/
def State.objWord (s : State) (pa i : Nat) : Word := BitVec.ofNat 64 (leNat (s.homeBytes (pa + 8 * i) 8))

/-- Doublewords of an object stored at its home slice. -/
def State.objPut (s : State) (party pa : Nat) (ws : List Word) : State :=
  s.homeStore party pa (ws.flatMap fun (w : Word) => leBytes 8 w.toNat) .default

/-- A barrier object's four doublewords (R342). -/
structure BarObj where
  w0 : Word
  w1 : Word
  w2 : Word
  w3 : Word
  deriving DecidableEq, Repr

/-- ARRIVED. -/
def BarObj.arrived (o : BarObj) : Nat := fieldNat o.w0 32 32
/-- EXPECT. -/
def BarObj.expect (o : BarObj) : Nat := fieldNat o.w0 0 32
/-- GEN. -/
def BarObj.gen (o : BarObj) : Nat := fieldNat o.w1 0 32
/-- ERR. -/
def BarObj.err (o : BarObj) : Bool := o.w1.getLsbD 32
/-- CODE. -/
def BarObj.code (o : BarObj) : Nat := fieldNat o.w2 0 8
/-- LCODE. -/
def BarObj.lcode (o : BarObj) : Nat := fieldNat o.w2 8 8
/-- DETAIL. -/
def BarObj.detail (o : BarObj) : Nat := fieldNat o.w3 0 32
/-- LDETAIL. -/
def BarObj.ldetail (o : BarObj) : Nat := fieldNat o.w3 32 32

/-- EXPECT is 0 or a reserved bit is set (R342). -/
def BarObj.malformed (o : BarObj) : Bool := o.expect == 0 || fieldNat o.w1 33 31 != 0 || fieldNat o.w2 16 48 != 0

/-- CODE and DETAIL written. -/
def BarObj.setCode (o : BarObj) (code detail : Nat) : BarObj :=
  { o with w2 := setField o.w2 0 8 code, w3 := setField o.w3 0 32 detail }

/-- The phase completes when the arrivals suffice outside the error phase (R344). -/
def BarObj.settle (o : BarObj) : BarObj :=
  if o.err ∨ o.arrived < o.expect then o
  else
    { w0 := setField o.w0 32 32 (o.arrived - o.expect), w1 := setField o.w1 0 32 (o.gen + 1),
      w2 := setField (setField o.w2 8 8 o.code) 0 8 0, w3 := setField (setField o.w3 32 32 o.detail) 0 32 0 }

/-- An error completion (R344). -/
def BarObj.fail (o : BarObj) (code detail : Nat) : BarObj := { o.setCode code detail with w1 := setField o.w1 32 1 1 }

/-- An arrival, with a note when `code` is not 0; at a malformed object it is an error completion with RANGEBAD, detail 7
(R342, R344). -/
def BarObj.arrive (o : BarObj) (code detail : Nat) : BarObj :=
  if o.malformed then o.fail 6 7
  else
    let o := if code != 0 && o.code == 0 then o.setCode code detail else o
    { o with w0 := setField o.w0 32 32 (min (o.arrived + 1) (2 ^ 32 - 1)) : BarObj }.settle

/-- A resume (R344). -/
def BarObj.resume (o : BarObj) : BarObj := { o with w1 := setField o.w1 32 1 0 : BarObj }.settle

/-- The object at a device address. -/
def State.barObj (s : State) (pa : Nat) : BarObj :=
  { w0 := s.objWord pa 0, w1 := s.objWord pa 1, w2 := s.objWord pa 2, w3 := s.objWord pa 3 }

/-- An object changed at its home slice. -/
def State.modObj (s : State) (party pa : Nat) (f : BarObj → BarObj) : State :=
  let o := f (s.barObj pa)
  s.objPut party pa [o.w0, o.w1, o.w2, o.w3]

/-- The bytes that a sync word has counted raise its generation (R346). -/
def swSettle (target gen count : Nat) : Nat × Nat :=
  if target = 0 then (gen, count) else ((gen + count / target) % 2 ^ 24, count % target)

/-- A sync word raised by a number of bytes; none when it is malformed (R346). -/
def State.swRaise (s : State) (party pa n : Nat) : Option State :=
  let w0 := s.objWord pa 0
  let w1 := s.objWord pa 1
  let target := fieldNat w0 0 40
  if target = 0 ∨ fieldNat w0 40 24 ≠ 0 then none
  else
    let r := swSettle target (fieldNat w1 40 24) (fieldNat w1 0 40 + n)
    some (s.objPut party pa [w0, BitVec.ofNat 64 (r.1 * 2 ^ 40 + r.2)])

/-- The checks of R345 on an object's or sync word's address; then every replica of its line is recalled, the home slice is asked for it, and
the core's later loads look behind this access no more (R353). What finds the object poisoned, or its initial value wrong, has asked too (R320). -/
def objAddr (gens : Tbl Gen) (va n : Nat) : M Nat := do
  let (pa, _) ← atomAddr va n true .atomic
  modify fun s => ((s.reachObject pa).homeServe (clusterOf s.cur) (pa / 128) .default).forgetUo s.cur (pa / 128)
  let s ← get
  keeping gens (need (!s.homeBad pa n) cPOISON (BitVec.ofNat 64 va))
  return pa

/-- An object changed by the executing core. -/
def modObjM (pa : Nat) (f : BarObj → BarObj) : M Unit := modify fun s => s.modObj (clusterOf s.cur) pa f

/-- MBINIT (R345). -/
def execMbinit (rb ra : BitVec 5) (stl : BitVec 2) (s : State) : Outcome State Fault Refusal :=
  issue 4 stl (do
    readyM [ra, rb] [] [] []
    let gens := (← getC).gens
    let a ← src ra
    let c ← src rb
    let pa ← objAddr gens (vaOf a) 32
    keeping gens (need (decide (0 < c.toNat ∧ c.toNat < 2 ^ 32)) cILLOP c)
    modObjM pa fun o => { w0 := c, w1 := setField o.w1 32 1 0, w2 := setField o.w2 0 16 0, w3 := 0 }
    keepRegion) s

/-- MBARV (R345). -/
def execMbarv (scope : BitVec 3) (ra rd : BitVec 5) (stl : BitVec 2) (s : State) : Outcome State Fault Refusal :=
  issue 4 stl (do
    deferredPoison
    readyM [ra] [] [rd] []
    let gens := (← getC).gens
    let a ← src ra
    releaseM scope.toNat
    let pa ← objAddr gens (vaOf a) 32
    let s ← get
    put rd (BitVec.ofNat 64 (s.barObj pa).gen) 0
    modObjM pa fun o => o.arrive 0 0
    keepRegion) s

/-- MBWAIT (R345); while it waits, what it has asked of the home slice stays asked (R320). -/
def execMbwait (scope : BitVec 3) (rb ra rd : BitVec 5) (stl : BitVec 2) (s : State) : Outcome State Fault Refusal :=
  issue 4 stl (do
    readyM [ra, rb] [] [rd] []
    let gens := (← getC).gens
    let a ← src ra
    let g ← src rb
    let pa ← objAddr gens (vaOf a) 32
    let s ← get
    let o := s.barObj pa
    if o.gen = fieldNat g 0 32 ∧ o.err = false then waitHere (s.modCore s.cur fun c => { c with gens := gens, ahead := [] }) 4
    acquireM scope.toNat
    forgetAhead
    putWait 4 rd (BitVec.ofNat 64 (if o.err then 2 ^ 40 + o.code * 2 ^ 32 + o.detail else o.lcode * 2 ^ 32 + o.ldetail))) s

/-- MBTEST (R345). -/
def execMbtest (scope : BitVec 3) (ra rd : BitVec 5) (stl : BitVec 2) (s : State) : Outcome State Fault Refusal :=
  issue 4 stl (do
    readyM [ra] [] [rd] []
    let gens := (← getC).gens
    let a ← src ra
    let pa ← objAddr gens (vaOf a) 32
    let s ← get
    let o := s.barObj pa
    acquireM scope.toNat
    put rd (BitVec.ofNat 64 (o.code * 2 ^ 40 + (if o.err then 2 ^ 32 else 0) + o.gen)) 0) s

/-- SWINIT (R347). -/
def execSwinit (rb ra : BitVec 5) (stl : BitVec 2) (s : State) : Outcome State Fault Refusal :=
  issue 4 stl (do
    readyM [ra, rb] [] [] []
    let gens := (← getC).gens
    let a ← src ra
    let t ← src rb
    let pa ← objAddr gens (vaOf a) 16
    keeping gens (need (decide (0 < t.toNat ∧ t.toNat < 2 ^ 40)) cILLOP t)
    modify fun s => s.objPut (clusterOf s.cur) pa [setField (s.objWord pa 0) 0 40 t.toNat, setField (s.objWord pa 1) 0 40 0]
    keepRegion) s

/-- SWWAIT (R347); as MBWAIT while it waits. -/
def execSwwait (scope : BitVec 3) (rb ra rd : BitVec 5) (stl : BitVec 2) (s : State) : Outcome State Fault Refusal :=
  issue 4 stl (do
    readyM [ra, rb] [] [rd] []
    let gens := (← getC).gens
    let a ← src ra
    let g ← src rb
    let pa ← objAddr gens (vaOf a) 16
    let s ← get
    let gen := fieldNat (s.objWord pa 1) 40 24
    if gen = fieldNat g 0 24 then waitHere (s.modCore s.cur fun c => { c with gens := gens, ahead := [] }) 4
    acquireM scope.toNat
    forgetAhead
    putWait 4 rd (BitVec.ofNat 64 gen)) s

/-- SWTEST (R347). -/
def execSwtest (scope : BitVec 3) (ra rd : BitVec 5) (stl : BitVec 2) (s : State) : Outcome State Fault Refusal :=
  issue 4 stl (do
    readyM [ra] [] [rd] []
    let gens := (← getC).gens
    let a ← src ra
    let pa ← objAddr gens (vaOf a) 16
    let s ← get
    acquireM scope.toNat
    put rd (s.objWord pa 1) 0) s

end Sys2Proof.Machine
end

