-- ==== Sys2Proof/Machine/Pool.lean ====
section
/-! DEFINITION. The POOL major, C.CMT and RSPAWN: a firing's inputs, products, ends, idempotent regions, constants, BOOSTED
operations and children (spec/11_firing_instructions.md R207 to R228; spec/19 R378; spec/20 R388). -/

namespace Sys2Proof.Machine
open Host

/-- The core runs a firing, or the instruction traps ILLOP (R208). -/
def firingM (bits : Word) : M Firing := do
  let s ← get
  match s.firingOf s.cur with
  | some f => return f
  | none => trap cILLOP bits

/-! ## INDESC (R210) -/

/-- The value that INDESC reads from a descriptor. -/
def indescValue (d : List Word) (sel word : Nat) : Word :=
  match sel with
  | 0 => d.getD word 0
  | 1 => BitVec.ofNat 64 (descKind d)
  | 2 => descField d 0
  | 3 => descField d 1
  | 4 => BitVec.ofNat 64 (fieldNat (d.getD 3 0) 32 32)
  | 5 => BitVec.ofNat 64 (descFmt d)
  | 6 => BitVec.ofNat 64 (descRows d)
  | _ => BitVec.ofNat 64 (descCols d)

/-- INDESC (R210). -/
def execIndesc (sel : BitVec 3) (word slot : BitVec 2) (rd : BitVec 5) (stl : BitVec 2) (s : State) : Outcome State Fault Refusal :=
  issue 4 stl (do
    readyM [] [] [rd] []
    let _ ← firingM (instrBits (.indesc sel word slot rd stl))
    let c ← getC
    let d := spanOf (fun i => c.arr.word (0x600 + 32 * slot.toNat + 8 * i)) 0 4
    put rd (indescValue d sel.toNat word.toNat) 0) s

/-! ## EMIT and EMITV (R211, R212) -/

/-- A core that may emit: it runs a firing, outside its handler and undo routines, and is not the stager of a MATRIX firing
(R208, R212, R226). -/
def emitterM (bits : Word) : M Unit := do
  let _ ← firingM bits
  let s ← get
  need (!s.me.inHandler && !s.me.undo && !isStager s.cur) cILLOP bits

/-- The checks of R24 on descriptor `d` as product `i` of the firing. -/
def checkDesc (i : Nat) (d : List Word) : M Unit := do
  let s ← get
  match s.regionOf s.cur with
  | none => pure ()
  | some g =>
    match s.kindEntry g.space g.eff.kinds (descKind d) with
    | (_, .error (e, va)) => memTrap e va va 1 .load
    | (s, .ok e) =>
      set s
      let r := insertReason d e
      need (r == 0) cFMTCHK (BitVec.ofNat 64 (descKind d + r * 2 ^ 16 + i % 64 * 2 ^ 20))

/-- Descriptors checked in order. -/
def checkDescs (i : Nat) : List (List Word) → M Unit
  | [] => pure ()
  | d :: r => do
    checkDesc i d
    checkDescs (i + 1) r

/-- A descriptor put into the product buffer at index `i`. -/
def Core.putProduct (c : Core) (i : Nat) (d : List Word) : Core :=
  { c with arr := c.arr.write (0x1000 + 32 * i) (d.flatMap fun w => leBytes 8 w.toNat) }

/-- The trap of too many products (R212). -/
def roomM (n : Nat) : M Unit := do
  let c ← getC
  need (decide (c.pcnt + n ≤ 64)) cPRODOVF (BitVec.ofNat 64 (c.pcnt % 128 * 2 ^ 16 + min n 0xFFFF))

/-- Descriptors checked and buffered. -/
def bufferM (ds : List (List Word)) : M Unit := do
  let c ← getC
  checkDescs c.pcnt ds
  modC fun c => { (ds.zipIdx.foldl (fun c e => c.putProduct (c.pcnt + e.2) e.1) c) with pcnt := c.pcnt + ds.length }

/-- EMIT (R212). -/
def execEmit (ra : BitVec 3) (stl : BitVec 2) (s : State) : Outcome State Fault Refusal :=
  issue 4 stl (do
    let r := quadReg ra
    readyM [r, r + 1, r + 2, r + 3] [] [] []
    emitterM (instrBits (.emit ra stl))
    let d0 ← src r
    let d1 ← src (r + 1)
    let d2 ← src (r + 2)
    let d3 ← src (r + 3)
    roomM 1
    bufferM [[d0, d1, d2, d3]]) s

/-- Doublewords loaded as LD would, from an address on. -/
def loadWordsM (va : Nat) : Nat → M (List Word)
  | 0 => return []
  | n + 1 => do
    let bs ← loadM (va % vaSpace) 8 false 1
    let r ← loadWordsM (va + 8) n
    return BitVec.ofNat 64 (leNat bs) :: r

/-- Lists of four. -/
def fours : List Word → List (List Word)
  | a :: b :: c :: d :: r => [a, b, c, d] :: fours r
  | _ => []

/-- EMITV (R212). -/
def execEmitv (rb ra : BitVec 5) (stl : BitVec 2) (s : State) : Outcome State Fault Refusal :=
  issue 4 stl (do
    readyM [ra, rb] [] [] []
    emitterM (instrBits (.emitv rb ra stl))
    let a ← src ra
    let n := (← src rb).toNat
    roomM n
    if n ≠ 0 then
      need (a.toNat % 8 == 0) cALIGN a
      let ws ← loadWordsM (vaOf a) (4 * n)
      bufferM (fours ws)) s

/-! ## COMMIT and ABORT (R213 to R216, R388) -/

/-- The descriptors in a core's buffer. -/
def Core.products (c : Core) : List (List Word) :=
  (spanOf id 0 c.pcnt).map fun i => spanOf (fun j => c.arr.word (0x1000 + 32 * i + 8 * j)) 0 4

/-- The products of a region sent from index `i` on, each placed by its kind's entry as the table stands now; one that R453 refuses
faults the region, and is not inserted (R388, R453). -/
def State.sendProducts (s : State) (r i : Nat) : List (List Word) → State × List Product
  | [] => (s, [])
  | d :: ds =>
    match s.region? r with
    | none => (s, [])
    | some g =>
      match s.placeOf g d true with
      | (s, none) =>
        let q := (s.faultRegion r (detailWord 42 0 0 (descKind d))).sendProducts r (i + 1) ds
        (q.1, { index := i, d := d, lslice := 0, inserted := true } :: q.2)
      | (s, some l) =>
        let q := s.sendProducts r (i + 1) ds
        (q.1, { index := i, d := d, lslice := l, inserted := false } :: q.2)

/-- An engine command of a firing has not completed: a parked product, and what is queued behind it, counts as completed
(R213, R297). -/
def State.engineBusy (s : State) (f : Nat) : Bool :=
  s.clusters.any fun e => e.2.commands.any (fun c => c.who.firing == some f) ||
    e.2.cells.any fun c => c.2.staging.any (fun q => q.who.firing == some f) ||
      (c.2.parked.isNone && c.2.matrix.any (fun q => q.who.firing == some f))

/-- The counters of a region changed; a paired region counts copy 0 (R400). -/
def State.count (s : State) (r copy : Nat) (g : Counters → Counters) : State :=
  if copy = 0 then s.modRegion r fun x => { x with cnt := g x.cnt } else s

/-- A firing with no product unacknowledged leaves flight (R388). -/
def State.retire (s : State) (f : Nat) : State :=
  { s with firings := s.firings.filter fun x => !(x.id == f && x.retired && x.products.isEmpty) }

/-- A firing commits: its products go on their way, its inputs are removed, its conflict entries released, its cores become
idle (R213). Where none of its products is to be inserted, its budgets are judged here (R67). -/
def State.commitFiring (s : State) (f : Firing) (emitter : Nat) : State :=
  let ds := (s.core emitter).products
  let s := { s with filters := s.filters.filter (fun e => e.holder != f.id) }
  let s := if s.classOf f = 2 then s.modCore emitter (fun c => c.setUndo false 0) else s
  let s := (s.noteInsert []).removeTiles f.region f.copy f.lslice f.tiles
  let q := s.sendProducts f.region 0 ds
  let s := q.1.modFiring f.id fun x => { x with retired := true, products := q.2, cores := [] }
  let s := s.count f.region f.copy fun c => { c with nfire := c.nfire + 1, nprod := c.nprod + ds.length }
  let s := if q.2.all (·.inserted) then s.tileBudgets f.region else s
  ((f.cores.foldl State.idleCore s).clearCells f.id).retire f.id

/-- COMMIT executed by core `k`: of a MATRIX firing the first core waits idle for its partner (R215). -/
def State.commitCore (s : State) (k : Nat) (f : Firing) : State :=
  let others := f.cores.filter (· != k)
  if s.classOf f = 1 ∧ !(others.all f.committed.contains) then
    (s.modFiring f.id fun x => { x with committed := k :: x.committed }).modCore k fun c => { c with run := .committed f.id }
  else s.commitFiring f ((f.cores.find? isIssuer).getD k)

/-- The region of a firing is killed, or the firing is marked for abort by that (R72). -/
def State.isKilled (s : State) (f : Firing) : Bool :=
  f.doomed || match s.region? f.region with | some g => g.killed | none => false

/-- COMMIT (R213). In a control cycle in which an insertion or a refill has taken place, it waits for the next one to remove the inputs
(R110). -/
def commitM (bits : Word) : M Unit := do
  deferredPoison
  let f ← firingM bits
  let c ← getC
  need (!c.inHandler && !c.undo) cILLOP bits
  settleM
  let s ← get
  if s.engineBusy f.id || !s.insertTurn [] then
    modC fun c => { c with committing := true }
    holdM
  releaseM s.regionScope
  let s ← get
  throw (.fin (if s.isKilled f then s.abortFiring s.cur f else s.commitCore s.cur f))

/-- COMMIT. -/
def execCommit (stl : BitVec 2) (s : State) : Outcome State Fault Refusal := issue 4 stl (commitM (instrBits (.commit stl))) s

/-- C.CMT (R178): COMMIT. -/
def execCCmt (s : State) : Outcome State Fault Refusal := issue 2 0 (commitM (instrBits .cCmt)) s

/-- ABORT (R216); by a handler inside an open section the region faults instead (R225). -/
def execAbort (stl : BitVec 2) (s : State) : Outcome State Fault Refusal :=
  issue 4 stl (do
    let f ← firingM (instrBits (.abort stl))
    let s ← get
    let c := s.me
    need (!c.undo) cILLOP (instrBits (.abort stl))
    if s.classOf f = 2 ∧ c.inHandler ∧ c.opened then
      throw (.fin ((s.faultRegion f.region (detailWord 32 0 0 cBOPCONF)).dropFiring f))
    throw (.fin (s.abortFiring s.cur f))) s

/-! ## BOP (R221 to R228) -/

/-- The firing is BOOSTED, outside its handler and undo routines, or the instruction traps ILLOP (R208, R222). -/
def boostedM (bits : Word) : M Firing := do
  let f ← firingM bits
  let s ← get
  need (s.classOf f == 2 && !s.me.inHandler && !s.me.undo) cILLOP bits
  return f

/-- The physical slice whose filter holds the entries of an object (R221). -/
def State.filterSlice (s : State) (r : Nat) (obj : Word) : Nat :=
  match s.region? r with | some g => s.mapEntry g.eff.smap (lsliceOf obj) | none => 0

/-- The holders of an object under kinds that do not commute with a row, other than a firing (R222). -/
def State.rivals (s : State) (f : Firing) (obj row : Word) : List Firing :=
  (s.filters.filter fun e => e.region == f.region && e.obj == obj && e.holder != f.id && e.kinds &&& ~~~row != 0).filterMap
    fun e => (s.firing? e.holder).filter (fun h => h.copy == f.copy)

/-- An operation of a kind recorded for a firing on an object; none when the slice has no free entry. -/
def State.recordOp (s : State) (f : Firing) (obj : Word) (k : Nat) : Option State :=
  let mine (e : Filter) : Bool := e.region == f.region && e.obj == obj && e.holder == f.id
  let bit : BitVec 64 := (1 : BitVec 64) <<< k
  if s.filters.any mine then
    some { s with filters := s.filters.map fun e => if mine e then { e with kinds := e.kinds ||| bit } else e }
  else
    let sl := s.filterSlice f.region obj
    if 4096 ≤ (s.filters.filter fun e => s.filterSlice e.region e.obj == sl).length then none
    else some { s with filters := { region := f.region, obj := obj, holder := f.id, kinds := bit } :: s.filters }

/-- An inverse call pushed onto the undo stack, which opens a section (R222, R224). -/
def Core.pushUndo (c : Core) (e0 : Word) (k : Nat) (obj arg : Word) : Core :=
  let n := c.ucnt + 1
  let b := 0x1800 + 32 * n
  let m := (((c.arr.setWord b (BitVec.ofNat 64 (fieldNat e0 0 53 + k * 2 ^ 53))).setWord (b + 8) obj).setWord (b + 16) arg).setWord (b + 24) 0
  { c with arr := m }.setUndo true n

/-- BOP (R222). -/
def execBop (kHi : BitVec 1) (rb ra kLo : BitVec 5) (stl : BitVec 2) (s : State) : Outcome State Fault Refusal :=
  issue 4 stl (do
    let s0 ← get
    settleM
    readyM [ra, rb] [] [] []
    let f ← boostedM (instrBits (.bop kHi rb ra kLo stl))
    let k := kHi.toNat * 32 + kLo.toNat
    let s ← get
    let rows := match s.regionOf s.cur with | some g => g.eff.commRows | none => []
    let e0 := match s.regionOf s.cur with | some g => g.eff.commInv.getD k 0 | none => 0
    need (decide (k < rows.length)) cILLOP (BitVec.ofNat 64 k)
    let obj ← src ra
    let arg ← src rb
    modC fun c => c.setUndo false c.ucnt
    let s ← get
    if !e0.getLsbD 53 ∧ s.me.ucnt = 319 then throw (.fin (s.bopConf s.cur 3))
    let hs := s.rivals f obj (rows.getD k 0)
    if hs.any (fun h => decide (h.stamp < f.stamp)) then throw (.fin (s.bopConf s.cur 1))
    if !hs.isEmpty then
      let w := s0.modCore s.cur fun c => c.setUndo false c.ucnt
      throw (.hold (hs.foldl (fun s h => s.modFiring h.id fun x => { x with notified := true }) w))
    match s.recordOp f obj k with
    | none => throw (.fin (s.bopConf s.cur 2))
    | some s =>
      set s
      if !e0.getLsbD 53 then modC fun c => c.pushUndo e0 k obj arg
      acquireM s.regionScope
      forgetAhead
      closeRegionM) s

/-- BOP.end (R225). -/
def execBopEnd (stl : BitVec 2) (s : State) : Outcome State Fault Refusal :=
  issue 4 stl (do
    settleM
    let _ ← boostedM (instrBits (.bopEnd stl))
    modC fun c => c.setUndo false c.ucnt
    closeRegionM) s

/-- A notified firing aborts on core `k`: no section is open there, and its COMMIT has not issued (R223). -/
def Core.mayAbort (c : Core) : Bool := !c.opened && !c.undo && !c.committing

/-- CONFLICT_ABORT (R223): a notified firing aborts at a boundary with OPEN 0; one that a pre-emption keeps aborts at once, and one that the
checker moved with an undo stack does so once it has resumed. -/
def execConflictAbort (firing : Nat) (s : State) : Outcome State Fault Refusal :=
  match s.firing? firing with
  | none => .next s
  | some f =>
    if !f.notified || f.retired then .next s
    else if f.kept then .next (if s.undoPending f then s else s.endKept f)
    else match f.cores with
      | [] => .next s
      | k :: _ => if (s.core k).mayAbort then .next (s.abortFiring k f) else .next s

/-! ## IDEM and KLD (R217, R220) -/

/-- IDEM (R217); it has no effect in a compatibility thread (R385) and traps ILLOP in an undo routine (R226). -/
def execIdem (ra : BitVec 5) (stl : BitVec 2) (s : State) : Outcome State Fault Refusal :=
  issue 4 stl (do
    let c ← getC
    if c.isThread then
      readyM [ra] [] [] []
      let _ ← src ra
    else
      settleM
      readyM [ra] [] [] []
      need (!c.undo) cILLOP (instrBits (.idem ra stl))
      let m ← src ra
      modC fun c => c.openRegion c.pc (m.setWidth 32)) s

/-- KLD (R220). -/
def execKld (kn rd : BitVec 5) (stl : BitVec 2) (s : State) : Outcome State Fault Refusal :=
  issue 4 stl (do
    readyM [] [] [rd] []
    let v ← constM kn.toNat (instrBits (.kld kn rd stl))
    put rd v 0) s

/-- KLD.x (R220). -/
def execKldX (ra rd : BitVec 5) (stl : BitVec 2) (s : State) : Outcome State Fault Refusal :=
  issue 4 stl (do
    readyM [ra] [] [rd] []
    let i ← src ra
    need (decide (i.toNat < 32)) cILLOP i
    let v ← constM i.toNat (instrBits (.kldX ra rd stl))
    put rd v 0) s

/-! ## RSPAWN (R378) -/

/-- RSPAWN (R378). -/
def execRspawn (ra rd : BitVec 5) (stl : BitVec 2) (s : State) : Outcome State Fault Refusal :=
  issue 4 stl (do
    settleM
    readyM [ra] [] [rd] []
    let f ← firingM (instrBits (.rspawn ra rd stl))
    let c ← getC
    need (!c.undo) cILLOP (instrBits (.rspawn ra rd stl))
    let v ← src ra
    need (v.toNat % 256 == 0) cALIGN v
    let w ← loadWordsM (vaOf v) 32
    let s ← get
    match s.region? f.region with
    | none => pure ()
    | some g =>
      if fieldNat (w.getD 0 0) 0 53 ≠ g.rcb then putNew rd 16
      else
        releaseM s.regionScope
        let s ← get
        let a := s.activate g.func g.proc (vaOf v) w false
        if s.tooSoon a.1 then throw .stall
        set a.1
        putNew rd (BitVec.ofNat 64 a.2)
    closeRegionM) s

end Sys2Proof.Machine
end

