-- ==== Sys2Proof/Machine/Eng.lean ====
section
/-! DEFINITION. The copy engine, the indirect copy engine and the merge network: commands, their queues, pieces and reports
(spec/15_merge_and_copy.md R299 to R319, R452; spec/17 R344, R346). A command begins once its queue and the scoreboard allow, is
performed piece by piece, and reports when it has ended. -/

namespace Sys2Proof.Machine
open Host

/-! ## Accesses of an engine (R306) -/

/-- Steps of an engine that may end with an engine code and a detail (R301); what has been performed stays. -/
abbrev EM := ExceptT (Nat × Nat) (StateM State)

/-- The engine code of a failed access. -/
def engCode (e : MemErr) : Nat := match e with | .tfault _ => 2 | .afault => 3 | .poison => 4

/-- An access failed at an address. -/
def engFail {α : Type} (e : MemErr) (va : Nat) : EM α := throw (engCode e, va % 2 ^ 32)

/-- The physical address of a place in device or host memory (R238). -/
def Place.phys (p : Place) : Option Nat := match p with | .dev a => some a | .host a => some (8 * 2 ^ 42 + a) | _ => none

/-- Where a command of a paired copy finds a page: an SHD page in the copy's frame (R400). -/
def State.copyPlace (s : State) (w : Who) (va : Nat) (t : Target) (write : Bool) : State × Place :=
  match t.place.phys, w.region with
  | some pa, some (r, _) =>
    if !t.shd then (s, t.place) else
    let s := s.noteShd r w.copy pa (va / 2 ^ 13) write
    (s, match s.region? r with
      | some g => if g.eff.paired then .dev (g.shadowPa w.copy pa) else t.place
      | none => t.place)
  | _, _ => (s, t.place)

/-- Where an access of a command leads: a local window, or memory through the issuer's address space (R301, R306, R400). -/
def State.engXlate (s : State) (w : Who) (va : Nat) (a : Acc) : State × Except MemErr Place :=
  if windowBase ≤ va then
    (s, match s.window w.core va true with
      | some p => .ok p
      | none => .error .afault)
  else
    match s.xlateDev w.space va a w.handler with
    | (s, .error e) => (s, .error e)
    | (s, .ok t) =>
      let r := s.copyPlace w va t a.writes
      (r.1, .ok r.2)

/-- The lines of a span of device memory are served at their home slices. -/
def State.serveSpan (s : State) (a n : Nat) : State := (linesOf a n).foldl (fun s l => s.homeServe otherParty l .default) s

/-- Bytes of one page read by an engine, each with its poison. -/
def engReadPart (w : Who) (va n : Nat) : EM (List (Byte × Bool)) := do
  let (s, r) := (← get).engXlate w va .load
  set s
  match r with
  | .error e => engFail e va
  | .ok p =>
    let s := match p with | .dev a => s.serveSpan a n | _ => s
    set s
    return spanOf (fun i => (s.homeByte (p.add i), s.seenBad 0 .so (p.add i))) 0 n

/-- Bytes read in pieces. -/
def engReadParts (w : Who) : List (Nat × Nat) → EM (List (Byte × Bool))
  | [] => return []
  | (va, n) :: r => do
    let b ← engReadPart w va n
    let bs ← engReadParts w r
    return b ++ bs

/-- Bytes read by an engine, each with its poison. -/
def engRead (w : Who) (va n : Nat) : EM (List (Byte × Bool)) := engReadParts w (pagesOf (va % vaSpace) n (n / 0x2000 + 2))

/-- The value of the bytes. -/
def engNat (bs : List (Byte × Bool)) : Nat := leNat (bs.map (·.1))

/-- Some byte is poisoned. -/
def engBad (bs : List (Byte × Bool)) : Bool := bs.any (·.2)

/-- A line that an engine has written is dropped, without write-back, from the replicas of a cluster (R306). -/
def State.dropReplicas (s : State) (cl n : Nat) : State :=
  let s := { s with cores := s.cores.map fun (e : Nat × Core) => if clusterOf e.1 = cl then (e.1, { e.2 with l1 := lineDrop e.2.l1 n }) else e }
  s.modCluster cl fun x => { x with cache := lineDrop x.cache n }

/-- The granule of a place is poisoned. -/
def State.poisonAt (s : State) (p : Place) : State :=
  match p with
  | .arr c o => s.modCore c fun x => { x with arr := x.arr.setBad (o / 8) true }
  | .bank c o => s.modCluster c fun x => { x with bankMem := x.bankMem.setBad (o / 8) true }
  | .panel c o => s.modCluster c fun x => { x with store := x.store.setBad (o / 8) true }
  | .host a => { s with host := s.host.setBad (a / 8) true }
  | .dev a => s.homeWrite (a / 128) fun l => { l with poison := l.poison ||| BitVec.twoPow 16 (a % 128 / 8) }

/-- Bytes of one page written by an engine; bytes marked bad poison their granules. -/
def engWritePart (w : Who) (va : Nat) (bs : List (Byte × Bool)) : EM Unit := do
  let (s, r) := (← get).engXlate w va .store
  set s
  match r with
  | .error e => engFail e va
  | .ok p =>
    let s := s.homePut p (bs.map (·.1))
    let s := bs.zipIdx.foldl (fun (s : State) (e : (Byte × Bool) × Nat) => if e.1.2 then s.poisonAt (p.add e.2) else s) s
    set (match p with
      | .dev a => (linesOf a bs.length).foldl (fun (s : State) (l : Nat) => s.dropReplicas (clusterOf w.core) l) s
      | _ => s)

/-- Bytes written in pieces. -/
def engWriteParts (w : Who) : List (Nat × Nat) → List (Byte × Bool) → EM Unit
  | [], _ => pure ()
  | (va, n) :: r, bs => do
    engWritePart w va (bs.take n)
    engWriteParts w r (bs.drop n)

/-- Bytes written by an engine. -/
def engWrite (w : Who) (va : Nat) (bs : List (Byte × Bool)) : EM Unit :=
  engWriteParts w (pagesOf (va % vaSpace) bs.length (bs.length / 0x2000 + 2)) bs

/-- Good bytes. -/
def goodBytes (bs : List Byte) : List (Byte × Bool) := bs.map fun b => (b, false)

/-- Doublewords written by an engine. -/
def engWriteWords (w : Who) (va : Nat) (ws : List Word) : EM Unit := engWrite w va (goodBytes (ws.flatMap fun x => leBytes 8 x.toNat))

/-- The local window that an address lies in for core `k`, whose scratchpad reaches up to its current size (R229). -/
def State.windowNo (s : State) (k va : Nat) : Option Nat :=
  if windowBase ≤ va ∧ va < windowBase + 0x4000000 then some 0
  else if bankWindow ≤ va ∧ va < bankWindow + 0x800000 then some 1
  else if sysWindow ≤ va ∧ va < padWindow then some 2
  else if padWindow ≤ va ∧ va < padWindow + (s.core k).spN * 0x4000 then some 3
  else none

/-- A range lies wholly in one local window. -/
def State.inOneWindow (s : State) (k va n : Nat) : Bool := (s.windowNo k va).isSome && s.windowNo k va == s.windowNo k (va + n - 1)

/-- The first address of a range that no local window holds. -/
def State.firstOutside (s : State) (k va n : Nat) : Option Nat :=
  ((pagesOf (va % vaSpace) n (n / 0x2000 + 2)).find? fun e => (s.windowNo k e.1).isNone).map (·.1)

/-! ## Reports (R300, R302, R303, R452) -/

/-- The home address of a report's target of `n` bytes, in the frame of a paired copy for an SHD page (R400), or the engine code of the
failed access (R452). -/
def State.reach (s : State) (w : Who) (va n : Nat) : State × Except Nat Nat :=
  match s.xlateDev w.space va .atomic w.handler with
  | (s, .error e) => (s, .error (engCode e))
  | (s, .ok t) =>
    match t.place with
    | .dev _ =>
      match s.copyPlace w va t true with
      | (s, .dev pa) =>
        let s := (s.reachObject pa).homeServe otherParty (pa / 128) .default
        (s, if s.homeBad pa n then .error 4 else .ok pa)
      | (s, _) => (s, .error 3)
    | _ => (s, .error 3)

/-- An event line with a post (R303). -/
def EvLine.post (l : EvLine) (code detail : Nat) : EvLine :=
  { count := min 255 (l.count + 1), code := if l.code = 0 then code else l.code,
    detail := if l.code = 0 ∧ code ≠ 0 then detail % 2 ^ 32 else l.detail }

/-- A post to an event line of the issuer; one for a firing or thread that has ended is discarded (R303). -/
def State.postEvent (s : State) (w : Who) (line code detail : Nat) : State :=
  let c := s.core w.core
  let alive : Bool := match w.firing with
    | some f => c.run == .firing f || c.run == .committed f
    | none => c.isThread
  if alive && !w.ended then s.modCore w.core fun c => { c with evs := tset c.evs line ((tget EvLine.zero c.evs line).post code detail) } else s

/-- What a report does to its barrier object: success, a note, or an error (R302, R344). -/
def reportObj (code detail : Nat) (note : Option Nat) (o : BarObj) : BarObj :=
  if code ≠ 0 then o.fail code detail else match note with
    | some d => o.arrive 4 d
    | none => o.arrive 0 0

/-- A barrier object told the end of a command; the answer is the code of a lost report (R452). -/
def State.reportTo (s : State) (w : Who) (va code detail : Nat) (note : Option Nat) : State × Option Nat :=
  match s.reach w va 32 with
  | (s, .error e) => (s, some e)
  | (s, .ok pa) => (s.modObj otherParty pa (reportObj code detail note), none)

/-- The report of a command that has ended (R302, R452). -/
def State.report (s : State) (c : EngCmd) (code detail : Nat) : State :=
  let va := fieldNat c.report 0 53
  let b := if c.report.getLsbD 63 then s.reportTo c.who va code detail c.note else (s, none)
  let s := b.1
  let lost := match b.2 with | some e => some (e, va % 2 ^ 32) | none => c.lost
  let post := if code ≠ 0 then (code, detail) else match c.note, lost with
    | some d, _ => (4, d)
    | none, some l => l
    | none, none => (0, 0)
  if c.report.getLsbD 62 then s.postEvent c.who (fieldNat c.report 53 3) post.1 post.2 else s

/-- The sync word of an S report raised by the bytes of a piece (R302, R346); the first failure is kept for the post. -/
def State.raiseSync (s : State) (c : EngCmd) (n : Nat) : State × EngCmd :=
  if !c.report.getLsbD 61 || n == 0 then (s, c) else
  let va := fieldNat c.report 0 53
  let keep (l : Nat × Nat) : EngCmd := { c with lost := if c.lost.isSome then c.lost else some l }
  match s.reach c.who va 16 with
  | (s, .error e) => (s, keep (e, va % 2 ^ 32))
  | (s, .ok pa) =>
    match s.swRaise otherParty pa n with
    | some s => (s, c)
    | none => (s, keep (6, 7))

/-! ## Queues (R304, R305, R318) -/

/-- The queue of an engine: 0 copy, 1 indirect copy, 2 merge. -/
def Cluster.queue (c : Cluster) (e : Nat) : List EngCmd := match e with | 0 => c.copyQ | 1 => c.indQ | _ => c.mergeQ

/-- The queue of an engine replaced. -/
def Cluster.setQueue (c : Cluster) (e : Nat) (q : List EngCmd) : Cluster :=
  match e with | 0 => { c with copyQ := q } | 1 => { c with indQ := q } | _ => { c with mergeQ := q }

/-- The head command of an engine's queue changed. -/
def State.setHead (s : State) (cl e : Nat) (c : EngCmd) : State :=
  s.modCluster cl fun x => x.setQueue e (c :: (x.queue e).tail)

/-- The function of an address space holds the partition (R318). -/
def State.onSlice (s : State) (space : Nat) : Bool := s.slice == some (space / 256)

/-- Who issues a command on core `k`. -/
def State.whoIs (s : State) (k : Nat) : Who :=
  { core := k, space := s.spaceOf k, firing := (s.firingOf k).map (·.id),
    region := (s.regionOf k).map fun g => (g.id, g.step), copy := match s.firingOf k with | some f => f.copy | none => 0,
    handler := (s.core k).inHandler, ended := false }

/-! ## The merge network (R311 to R315, R318) -/

/-- Offset of a context in its cluster's banks. -/
def ctxOff (va : Nat) : Nat := va - bankWindow

/-- SEQ0 to SEQ15 of a context written (R311, R318). -/
def Cluster.putSeq (c : Cluster) (m : MergeCtx) : Cluster :=
  { c with bankMem := (spanOf id 0 16).foldl (fun b i => b.write (ctxOff m.va + 0x80 + 4 * i) (leBytes 4 (tget 0 m.seq i))) c.bankMem }

/-- The DEV fields of a context written (R311). -/
def Cluster.putCtx (c : Cluster) (m : MergeCtx) : Cluster :=
  let o := ctxOff m.va
  let b := [BitVec.ofNat 64 (m.state + m.code * 256 + m.runs.length % 256 * 2 ^ 16), BitVec.ofNat 64 m.fed, BitVec.ofNat 64 m.spused,
    BitVec.ofNat 64 m.nout, BitVec.ofNat 64 m.oused].zipIdx.foldl (fun b e => b.setWord (o + 0x40 + 8 * e.2) e.1) c.bankMem
  Cluster.putSeq { c with bankMem := b.write (o + 0x68) (leBytes 4 m.detail) } m

/-- The context that a cluster's network holds, changed; its DEV fields in memory stay as they are (R311). -/
def keepCtx (cl : Nat) (m : MergeCtx) : EM Unit := modify fun s => s.modCluster cl fun c => { c with merge := some m }

/-- The context that a cluster's network holds, with its DEV fields written: at MGOPEN, a failure and MGCLOSE (R311). -/
def setCtx (cl : Nat) (m : MergeCtx) : EM Unit := modify fun s => s.modCluster cl fun c => { (c.putCtx m) with merge := some m }

/-- A context fails (R313): FAILED with its code, its barrier object in the error phase; the command reports the same. -/
def failCtx {α : Type} (cl : Nat) (m : MergeCtx) (w : Who) (code detail : Nat) : EM α := do
  setCtx cl { m with state := 3, code := code, detail := detail }
  modify fun s => (s.reportTo w (fieldNat (m.words.getD 7 0) 0 53) code detail none).1
  throw (code, detail)

/-- Steps whose error fails a context. -/
def orFail {α : Type} (cl : Nat) (m : MergeCtx) (w : Who) (x : EM α) : EM α :=
  tryCatch x fun e => failCtx cl m w e.1 e.2

/-- Element size in bytes of a context. -/
def MergeCtx.size (m : MergeCtx) : Nat := if fieldNat (m.words.getD 0 0) 0 8 = 0x14 then 4 else 8
/-- CAP. -/
def MergeCtx.cap (m : MergeCtx) : Nat := fieldNat (m.words.getD 0 0) 16 15
/-- NROWS. -/
def MergeCtx.nrows (m : MergeCtx) : Nat := fieldNat (m.words.getD 3 0) 0 16
/-- W. -/
def MergeCtx.width (m : MergeCtx) : Nat := fieldNat (m.words.getD 3 0) 16 16
/-- Chunks per output row. -/
def MergeCtx.chunks (m : MergeCtx) : Nat := (m.width + 127) / 128

/-- Merge-key order (R314). -/
def MEntry.before (a b : MEntry) : Bool := lexLt [a.row, a.col, a.stream, a.seq] [b.row, b.col, b.stream, b.seq]

/-- A multiple of 16 at or above a number. -/
def round16 (n : Nat) : Nat := (n + 15) / 16 * 16

/-- The doublewords of a spilled entry. -/
def spillWords (e : MEntry) : List (Byte × Bool) :=
  goodBytes (leBytes 8 (e.row + e.col * 2 ^ 32)) ++ (leBytes 8 e.value.toNat).map (fun b => (b, e.bad)) ++
    goodBytes (leBytes 8 (e.seq + e.stream * 2 ^ 32)) ++ goodBytes (leBytes 8 0)

/-- A spill of every resident entry (R314). -/
def spillCtx (cl : Nat) (m : MergeCtx) (w : Who) : EM MergeCtx := do
  let es := sortBy MEntry.before m.entries
  let n := es.length
  let size := 32 + 32 * n
  if fieldNat (m.words.getD 2 0) 0 40 < m.spused + size ∨ 256 ≤ m.runs.length then failCtx cl m w 5 m.runs.length
  let lo := es.foldl (fun a e => min a e.stream) 15
  let hi := es.foldl (fun a e => max a e.stream) 0
  let key (e : Option MEntry) : Nat := match e with | some e => e.row + e.col * 2 ^ 32 | none => 0
  let head := [n + lo * 2 ^ 32 + hi * 2 ^ 36 + m.runs.length * 2 ^ 48, key es.head?, key es.getLast?, 0]
  let va := fieldNat (m.words.getD 1 0) 0 53 + m.spused
  orFail cl m w (engWrite w va (goodBytes (head.flatMap (leBytes 8)) ++ es.flatMap spillWords))
  let m := { m with entries := [], spused := m.spused + size, runs := m.runs ++ [(va, n)] }
  keepCtx cl m
  return m

/-- The SW fields of a context are in their ranges (R311, R312 check 4). -/
def ctxFieldsOk (w : List Word) : Bool :=
  let f (i lo n : Nat) : Nat := fieldNat (w.getD i 0) lo n
  f 0 8 8 == 0 && f 0 31 33 == 0 && decide (1 ≤ f 0 16 15 ∧ f 0 16 15 ≤ 16384) && f 1 53 11 == 0 && f 1 0 5 == 0 && f 2 40 24 == 0 &&
  f 2 0 5 == 0 && f 3 32 32 == 0 && f 3 0 16 != 0 && f 3 16 16 != 0 && f 4 53 11 == 0 && f 4 0 4 == 0 && f 5 40 24 == 0 &&
  f 6 53 11 == 0 && f 6 0 4 == 0 && f 7 53 11 == 0 && f 7 0 5 == 0

/-- Spans that share a byte. -/
def spansMeet (a b : Nat × Nat) : Bool := a.2 != 0 && b.2 != 0 && decide (a.1 < b.1 + b.2) && decide (b.1 < a.1 + a.2)

/-- The spill area, the context and the output overlap one another (R312 check 5). -/
def ctxOverlap (va : Nat) (w : List Word) : Bool :=
  let f (i lo n : Nat) : Nat := fieldNat (w.getD i 0) lo n
  let spill := (f 1 0 53, f 2 0 40)
  let ctx := (va, 256)
  let out := [(f 4 0 53, f 5 0 40), (f 6 0 53, 4 * f 3 0 16 * ((f 3 16 16 + 127) / 128))]
  spansMeet spill ctx || out.any (spansMeet spill) || out.any (spansMeet ctx)

/-- Doublewords of a context that a check looks at; poison among them fails the command. -/
def ctxRead (w : Who) (va n : Nat) : EM (List Word) := do
  let bs ← engRead w va (8 * n)
  match bs.zipIdx.find? (·.1.2) with
  | some e => throw (4, (va + e.2) % 2 ^ 32)
  | none => return wordsOf (bs.map (·.1)) n

/-- MGOPEN performed (R312): the checks in their order, each on the bytes that it looks at. -/
def performOpen (cl : Nat) (c : EngCmd) : EM Unit := do
  let s ← get
  let va := vaOf (c.operand 0)
  let afault : EM Unit := throw (3, va % 2 ^ 32)
  if s.windowNo c.who.core va ≠ some 1 then afault
  if (s.cluster cl).mode ((va - bankWindow) / 0x20000) ≠ .scratchpad then afault
  if (s.cluster cl).merge.isSome then throw (6, 1)
  let st ← ctxRead c.who (va + 0x40) 1
  if fieldNat (st.getD 0 0) 0 2 ≠ 0 then throw (6, 1)
  let w ← ctxRead c.who va 8
  let vf := fieldNat (w.getD 0 0) 0 8
  if vf ≠ 0x14 ∧ vf ≠ 0x15 then throw (7, 0)
  if !ctxFieldsOk w then throw (6, 7)
  if ctxOverlap va w then throw (6, 2)
  setCtx cl { va := va, who := c.who, words := w, state := 1, code := 0, detail := 0, fed := 0, spused := 0, nout := 0,
              oused := 0, entries := [], seq := [], runs := [] }

/-- The context that a feed names, when it is OPEN (R313). -/
def feedCtx (cl : Nat) (c : EngCmd) : EM MergeCtx := do
  let s ← get
  match (s.cluster cl).merge with
  | none => throw (6, 1)
  | some m =>
    if m.va ≠ vaOf (c.operand 0) then throw (6, 1)
    if m.state = 3 then throw (m.code, m.detail)
    if m.state ≠ 1 then throw (6, 1)
    return m

/-- One entry of a run taken (R313). The answer is its key. -/
def feedEntry (cl : Nat) (c : EngCmd) : EM Nat := do
  let m ← feedCtx cl c
  let run := vaOf (c.operand 1)
  let st := fieldNat (c.operand 2) 24 4
  let a := (run + 16 * c.done) % vaSpace
  let kb ← orFail cl m c.who (engRead c.who a 8)
  let vb ← orFail cl m c.who (engRead c.who (a + 8) 8)
  if engBad kb then failCtx cl m c.who 4 (a % 2 ^ 32)
  let row := engNat kb % 2 ^ 32
  let col := engNat kb / 2 ^ 32
  let key := row * 2 ^ 32 + col
  let sq := tget 0 m.seq st
  if m.nrows ≤ row ∨ m.width ≤ col ∨ (0 < c.done ∧ key < c.pos) ∨ sq = 2 ^ 32 - 1 then failCtx cl m c.who 6 4
  let m ← if m.cap ≤ m.entries.length then spillCtx cl m c.who else pure m
  let vb := vb.take m.size
  let e : MEntry := { row := row, col := col, stream := st, seq := sq, value := BitVec.ofNat 64 (engNat vb), bad := engBad vb, src := a + 8 }
  let m := { m with entries := m.entries ++ [e], seq := tset m.seq st (sq + 1), fed := m.fed + 1 }
  keepCtx cl m
  return key

/-- A spilled entry read back (R315). -/
def readSpilled (cl : Nat) (m : MergeCtx) (w : Who) (a : Nat) : EM MEntry := do
  let bs ← orFail cl m w (engRead w a 32)
  if engBad (bs.take 8) || engBad ((bs.drop 16).take 8) then failCtx cl m w 4 (a % 2 ^ 32)
  let k := engNat (bs.take 8)
  let q := engNat ((bs.drop 16).take 8)
  let vb := (bs.drop 8).take m.size
  return { row := k % 2 ^ 32, col := k / 2 ^ 32, stream := q / 2 ^ 32 % 16, seq := q % 2 ^ 32, value := BitVec.ofNat 64 (engNat vb),
           bad := engBad vb, src := a + 8 }

/-- The entries of runs read back. -/
def readRuns (cl : Nat) (m : MergeCtx) (w : Who) : List (Nat × Nat) → EM (List MEntry)
  | [] => return []
  | (va, n) :: r => do
    let h ← orFail cl m w (engRead w va 32)
    if engBad h then failCtx cl m w 4 (va % 2 ^ 32)
    let es ← (spanOf id 0 n).mapM fun i => readSpilled cl m w (va + 32 + 32 * i)
    let rest ← readRuns cl m w r
    return es ++ rest

/-- The fold of a column's entries in key order (R315), as an encoding. -/
def foldColumn (f : Fmt) (es : List MEntry) : Nat :=
  match es with
  | [] => 0
  | e :: r =>
    let v := r.foldl (fun v x => (opFadd f 0 v x.value.toNat).1) e.value.toNat
    match f.decode v with | .nan _ => f.canonNaN | _ => v

/-- Columns of a list of entries in ascending order, without repeats. -/
def columnsOf (es : List MEntry) : List Nat := es.foldl (fun cs e => numPut cs e.col) []

/-- The bytes of an output chunk: bitmap, values, padding; the bitmap is poisoned when a poisoned value reached it. -/
def chunkBytes (m : MergeCtx) (h : Nat) (es : List MEntry) : List (Byte × Bool) :=
  let cols := columnsOf es
  let f := if m.size = 4 then fp32 else fp64
  let bad := es.any (·.bad)
  let bitmap := cols.foldl (fun b c => b + 2 ^ (c - 128 * h)) 0
  let vals := cols.flatMap fun c => leBytes m.size (foldColumn f (es.filter (fun e => e.col == c)))
  (leBytes 16 bitmap).map (fun b => (b, bad)) ++ goodBytes (vals ++ List.replicate (round16 vals.length - vals.length) 0)

/-- The output of a close written chunk by chunk (R315): table words, next position and elements written, the first chunk standing at
`first`. A failure keeps what was written until then in NOUT and OUSED. -/
def writeChunks (cl : Nat) (m : MergeCtx) (w : Who) (es : List MEntry) (first pos nout : Nat) (q : Nat) : Nat → EM (List Nat × Nat × Nat)
  | 0 => return ([], pos, nout)
  | n + 1 => do
    let h := q % m.chunks
    let g := es.filter fun e => e.row == q / m.chunks && e.col / 128 == h
    if g.isEmpty then
      let r ← writeChunks cl m w es first pos nout (q + 1) n
      return (0xFFFFFFFF :: r.1, r.2)
    else
      let bs := chunkBytes m h g
      let out := fieldNat (m.words.getD 4 0) 0 53
      if out + fieldNat (m.words.getD 5 0) 0 40 < pos + bs.length then failCtx cl { m with nout := nout, oused := pos - first } w 6 5
      orFail cl { m with nout := nout, oused := pos - first } w (engWrite w pos bs)
      let r ← writeChunks cl m w es first (pos + bs.length) (nout + (columnsOf g).length) (q + 1) n
      return ((pos - out) / 16 :: r.1, r.2)

/-- MGCLOSE performed (R315). The answer is the note of a poisoned value that reached the output. -/
def performClose (cl : Nat) (c : EngCmd) : EM (Option Nat) := do
  let s ← get
  match (s.cluster cl).merge with
  | none => return none
  | some m =>
    if m.va ≠ vaOf (c.operand 0) then return none
    else if m.state = 3 then
      setCtx cl { m with state := 0 }
      modify fun s => s.modCluster cl fun x => { x with merge := none }
      return none
    else
      let m := { m with state := 2 }
      setCtx cl m
      let spilled ← readRuns cl m c.who m.runs
      let es := sortBy MEntry.before (spilled ++ m.entries)
      let out := fieldNat (m.words.getD 4 0) 0 53
      let table := fieldNat (m.words.getD 6 0) 0 53
      let nq := m.nrows * m.chunks
      let first := out + if table = out then round16 (4 * nq) else 0
      let r ← writeChunks cl m c.who es first first 0 0 nq
      orFail cl { m with nout := r.2.2, oused := r.2.1 - first } c.who (engWrite c.who table (goodBytes (r.1.flatMap (leBytes 4))))
      setCtx cl { m with state := 0, nout := r.2.2, oused := r.2.1 - out }
      let note := (es.find? (·.bad)).map fun e => e.src % 2 ^ 32
      modify fun s => ((s.modCluster cl fun x => { x with merge := none }).reportTo c.who
        (fieldNat (m.words.getD 7 0) 0 53) 0 0 note).1
      return note

/-! ## Pieces of COPY, GATH, SCAT and GATH.cb (R308 to R310) -/

/-- A piece of a COPY (R302, R308): the command with the bytes done, and the bytes of the piece. -/
def copyPiece (c : EngCmd) : EM (EngCmd × Nat) := do
  let src := vaOf (c.operand 0)
  let dst := vaOf (c.operand 1)
  let n := (c.operand 2).toNat
  let len := min (n - c.done) (128 - (dst + c.done) % 128)
  let bs ← engRead c.who (src + c.done) len
  match bs.zipIdx.find? (·.1.2) with
  | some e => throw (4, (src + c.done + e.2) % 2 ^ 32)
  | none => pure ()
  engWrite c.who (dst + c.done) bs
  return ({ c with done := c.done + len }, len)

/-- An index of the index list, as an address offset (R309). -/
def gathIndex (c : EngCmd) (i : Nat) : EM Int := do
  let ctl := c.operand 2
  let z := gathIsz ctl
  let a := (vaOf (c.operand 0) + i * z) % vaSpace
  let bs ← engRead c.who a z
  if engBad bs then throw (4, a % 2 ^ 32)
  return gathSigned ctl (engNat bs)

/-- An element of a GATH or SCAT (R309). -/
def gathPiece (c : EngCmd) : EM (EngCmd × Nat) := do
  let z := gathEsz (c.operand 2)
  let x ← gathIndex c c.done
  let g := vaInt ((c.operand 1).toNat + x * z)
  let l := (vaOf (c.operand 3) + c.done * z) % vaSpace
  let src := if c.op = 3 then l else g
  let bs ← engRead c.who src z
  let bad := engBad bs
  engWrite c.who (if c.op = 3 then g else l) (bs.map fun b => (b.1, bad))
  return ({ c with done := c.done + 1, note := if bad ∧ c.note.isNone then some (src % 2 ^ 32) else c.note }, z)

/-- Columns of a bitmap, ascending. -/
def bitColumns (b : Nat) : List Nat := (spanOf id 0 128).filter fun i => b / 2 ^ i % 2 == 1

/-- An output chunk of a GATH.cb put at the next position. -/
def putChunk (c : EngCmd) (bs : List (Byte × Bool)) (note : Option Nat) : EM (EngCmd × Nat) := do
  engWrite c.who c.pos bs
  return ({ c with done := c.done + 1, acc := c.acc ++ [(c.pos - vaOf (c.operand 3)) / 16], pos := c.pos + bs.length,
                   note := if c.note.isSome then c.note else note }, bs.length)

/-- A piece of a GATH.cb (R310): an output chunk, or at last the offset table. A stored source chunk without elements reads as empty
(R28). Of a poisoned value, R310's own bullet is followed, which keeps the rest of the chunk good, where R31 would poison its bitmap
(DESIGN CHOICE, log entry 49). -/
def cbPiece (c : EngCmd) : EM (EngCmd × Nat) := do
  let ctl := c.operand 2
  let n := gathChunks ctl
  let base := (c.operand 1).toNat
  if c.done = gathCount ctl * n then
    let bs := c.acc.flatMap (leBytes 4)
    engWrite c.who (vaOf (c.operand 3)) (goodBytes (bs ++ List.replicate (round16 bs.length - bs.length) 0))
    return ({ c with done := c.done + 1 }, round16 bs.length)
  else
    let x ← gathIndex c (c.done / n)
    let h := c.done % n
    let bad16 := List.replicate 16 ((0 : Byte), true)
    let ta := vaInt (base + (x * n + h) * 4)
    let tw ← engRead c.who ta 4
    if engBad tw then putChunk c bad16 (some (ta % 2 ^ 32))
    else if engNat tw = 0xFFFFFFFF then return ({ c with done := c.done + 1, acc := c.acc ++ [0xFFFFFFFF] }, 0)
    else
      let ca := vaInt (base + 16 * engNat tw)
      let bm ← engRead c.who ca 16
      if engBad bm then putChunk c bad16 (some (ca % 2 ^ 32))
      else
        if engNat bm = 0 then return ({ c with done := c.done + 1, acc := c.acc ++ [0xFFFFFFFF] }, 0)
        if 2 ^ (fieldNat ctl 48 16 - 128 * h) ≤ engNat bm then throw (6, 6)
        let z := gathEsz ctl
        let vs ← engRead c.who (vaInt (ca + 16)) (z * (bitColumns (engNat bm)).length)
        let first := (vs.zipIdx.find? (·.1.2)).map fun e => (ca + 16 + e.2) % 2 ^ 32
        putChunk c (bm ++ vs ++ goodBytes (List.replicate (round16 vs.length - vs.length) 0)) first

/-- The number that `done` reaches when a command has been performed. -/
def EngCmd.total (c : EngCmd) : Nat :=
  let ctl := c.operand 2
  match c.op with
  | 0 => ctl.toNat
  | 1 => gathCount ctl
  | 2 => gathCount ctl * gathChunks ctl + 1
  | 3 => gathCount ctl
  | 5 => fieldNat ctl 0 24
  | _ => 1

/-- The checks that a command makes before its first access (R308, R309, R313). -/
def beginCmd (cl : Nat) (c : EngCmd) : EM EngCmd := do
  let s ← get
  let k := c.who.core
  let src := vaOf (c.operand 0)
  let outside (va n : Nat) : EM Unit := match s.firstOutside k va n with
    | some a => throw (3, a % 2 ^ 32)
    | none => pure ()
  match c.op with
  | 0 =>
    let n := (c.operand 2).toNat
    let dst := vaOf (c.operand 1)
    if n ≠ 0 then
      if !s.inOneWindow k src n && !s.inOneWindow k dst n then throw (6, 3)
      if spansMeet (src, n) (dst, n) then throw (6, 2)
    return c
  | 5 =>
    let m ← feedCtx cl c
    let run := vaOf (c.operand 1)
    if (s.windowNo k run).isNone then failCtx cl m c.who 3 (run % 2 ^ 32)
    return c
  | 4 => return c
  | 6 => return c
  | _ =>
    let ctl := c.operand 2
    let out := vaOf (c.operand 3)
    let table := 4 * gathCount ctl * gathChunks ctl
    outside src (gathCount ctl * gathIsz ctl)
    outside out (if c.op = 2 then table else gathCount ctl * gathEsz ctl)
    return if c.op = 2 ∧ c.done = 0 then { c with pos := out + round16 table } else c

/-- One piece of a command. -/
def pieceCmd (cl : Nat) (c : EngCmd) : EM (EngCmd × Nat) :=
  match c.op with
  | 0 => copyPiece c
  | 2 => cbPiece c
  | 4 => do
    performOpen cl c
    return ({ c with done := 1 }, 0)
  | 5 => do
    let k ← feedEntry cl c
    return ({ c with done := c.done + 1, pos := k }, 0)
  | 6 => do
    let note ← performClose cl c
    return ({ c with done := 1, note := note }, 0)
  | _ => gathPiece c

/-- The head of an engine's queue begins: its checks are made. -/
def State.beginHead (s : State) (cluster engine : Nat) (c : EngCmd) : State :=
  match (beginCmd cluster c).run.run s with
  | (.error e, s) => s.setHead cluster engine { c with begun := true, code := some e }
  | (.ok c, s) => s.setHead cluster engine { c with begun := true, code := if c.total ≤ c.done then some (0, 0) else none }

/-- ENGINE_PERFORM (R304, R305, R318): the head of an engine's queue begins, while its function holds the partition. -/
def execEnginePerform (cluster engine : Nat) (s : State) : Outcome State Fault Refusal :=
  match (s.cluster cluster).queue engine with
  | [] => .next s
  | c :: _ =>
    if c.begun || !s.onSlice c.who.space || s.cmdHeld cluster c.at_ then .next s
    else .next (s.beginHead cluster engine c)

/-- ENGINE_PIECE (R302, R346): the next piece is performed and raises the sync word. -/
def execEnginePiece (cluster engine : Nat) (s : State) : Outcome State Fault Refusal :=
  match (s.cluster cluster).queue engine with
  | [] => .next s
  | c :: _ =>
    if !c.begun || c.code.isSome then .next s
    else
      match (pieceCmd cluster c).run.run s with
      | (.error e, s) => .next (s.setHead cluster engine { c with code := some e })
      | (.ok (c, n), s) =>
        let r := s.raiseSync c n
        .next (r.1.setHead cluster engine { r.2 with code := if r.2.total ≤ r.2.done then some (0, 0) else none })

/-- A region with ROLLBACK has consumed poison through a command of one of its firings, whichever step issued it: it repeats the step in
progress (R32, R399). -/
def State.poisonRolls (s : State) (w : Who) (poison : Bool) : State :=
  match w.region with
  | none => s
  | some (r, _) =>
    match s.region? r with
    | some g => if poison && g.rolls then s.repeatStep r else s
    | none => s

/-- ENGINE_REPORT (R302): a command that has been performed reports and leaves its queue. -/
def execEngineReport (cluster engine : Nat) (s : State) : Outcome State Fault Refusal :=
  match (s.cluster cluster).queue engine with
  | [] => .next s
  | c :: r =>
    match c.code with
    | none => .next s
    | some (code, detail) =>
      let s := ((s.report c code detail).noteIdle cluster (c.who.core % 0x10000)).modCluster cluster fun x => x.setQueue engine r
      .next ((s.poisonRolls c.who (code == 4 || c.note.isSome)).dropGhost c.who.core)

/-- ENGINE_INTERNAL_ERROR (R397): the command is begun again from its record, and goes on at its first piece not yet performed. -/
def execEngineInternalError (cluster engine : Nat) (s : State) : Outcome State Fault Refusal :=
  match (s.cluster cluster).queue engine with
  | [] => .next s
  | c :: _ => if c.begun && c.code.isNone then .next (s.beginHead cluster engine c) else .next s

/-! ## The instructions (R299, R300) -/

/-- A report word's fields (R300); `sync` where S is allowed. -/
def reportOk (w : Word) (sync : Bool) : Bool :=
  let b := w.getLsbD 63
  let e := w.getLsbD 62
  let sy := w.getLsbD 61
  fieldNat w 56 5 == 0 && !(b && sy) && !(sy && !e) && !(sy && !sync) && (b || sy || fieldNat w 0 53 == 0)

/-- The alignment of a report VA. -/
def reportAligned (w : Word) : Bool :=
  if w.getLsbD 63 then fieldNat w 0 5 == 0 else if w.getLsbD 61 then fieldNat w 0 4 == 0 else true

/-- ALIGN for an operand address. -/
def alignedM (w : Word) (n : Nat) : M Unit := need (vaOf w % n == 0) cALIGN (BitVec.ofNat 64 (vaOf w))

/-- A command put into its queue, the issuer's dirty bytes written back first (R306); it stalls while the queue is full (R304). -/
def enqueueM (engine op : Nat) (ops : List Word) (report : Word) : M Unit := do
  let s ← get
  let k := s.cur
  let cl := clusterOf k
  if 32 ≤ ((s.cluster cl).queue engine).length then throw .stall
  orderM uENGINES
  modify fun s => s.releaseAt k 2
  modify fun s => s.modCluster cl fun x =>
    let c : EngCmd := { who := s.whoIs k, at_ := x.arrivals, op := op, ops := ops, report := report, begun := false, done := 0, pos := 0,
                        acc := [], note := none, code := none, lost := none }
    { (x.setQueue engine (x.queue engine ++ [c])) with arrivals := x.arrivals + 1 }
  closeRegionM

/-- The quad of a command and its report word. -/
def quadM (ra : BitVec 3) (rb : BitVec 5) : M (Word × Word × Word × Word × Word) := do
  let r := quadReg ra
  readyM [r, r + 1, r + 2, r + 3, rb] [] [] []
  let a ← src r
  let b ← src (r + 1)
  let c ← src (r + 2)
  let d ← src (r + 3)
  let w ← src rb
  return (a, b, c, d, w)

/-- COPY (R308). -/
def execCopy (rb : BitVec 5) (ra : BitVec 3) (stl : BitVec 2) (s : State) : Outcome State Fault Refusal :=
  issue 4 stl (do
    settleM
    let (a, b, n, _, w) ← quadM ra rb
    need (decide (n.toNat ≤ 2 ^ 32)) cILLOP n
    need (reportOk w true) cILLOP w
    need (reportAligned w) cALIGN (BitVec.ofNat 64 (fieldNat w 0 53))
    enqueueM 0 0 [a, b, n] w) s

/-- The control word of a gather or scatter (R309). -/
def gathOk (cb : Bool) (ctl : Word) : Bool :=
  fieldNat ctl 30 18 == 0 && !ctl.getLsbD 27 && (if cb then fieldNat ctl 48 16 != 0 && decide (fieldNat ctl 24 3 ≤ 3)
    else fieldNat ctl 48 16 == 0 && decide (fieldNat ctl 24 3 ≤ 4))

/-- GATH, GATH.cb and SCAT (R309, R310). -/
def gathM (op : Nat) (rb : BitVec 5) (ra : BitVec 3) : M Unit := do
  settleM
  let (a, b, ctl, p, w) ← quadM ra rb
  let cb := op == 2
  need (gathOk cb ctl) cILLOP ctl
  need (reportOk w true) cILLOP w
  alignedM a (gathIsz ctl)
  alignedM b (if cb then 16 else gathEsz ctl)
  alignedM p (if cb then 16 else gathEsz ctl)
  need (reportAligned w) cALIGN (BitVec.ofNat 64 (fieldNat w 0 53))
  enqueueM 1 op [a, b, ctl, p] w

/-- GATH (R309). -/
def execGath (rb : BitVec 5) (ra : BitVec 3) (stl : BitVec 2) (s : State) : Outcome State Fault Refusal := issue 4 stl (gathM 1 rb ra) s

/-- GATH.cb (R310). -/
def execGathCb (rb : BitVec 5) (ra : BitVec 3) (stl : BitVec 2) (s : State) : Outcome State Fault Refusal := issue 4 stl (gathM 2 rb ra) s

/-- SCAT (R309). -/
def execScat (rb : BitVec 5) (ra : BitVec 3) (stl : BitVec 2) (s : State) : Outcome State Fault Refusal := issue 4 stl (gathM 3 rb ra) s

/-- MGOPEN (R312). -/
def execMgopen (rb ra : BitVec 5) (stl : BitVec 2) (s : State) : Outcome State Fault Refusal :=
  issue 4 stl (do
    settleM
    readyM [ra, rb] [] [] []
    let a ← src ra
    let w ← src rb
    need (reportOk w false) cILLOP w
    alignedM a 256
    need (reportAligned w) cALIGN (BitVec.ofNat 64 (fieldNat w 0 53))
    enqueueM 2 4 [a] w) s

/-- MGFEED (R313). -/
def execMgfeed (rb : BitVec 5) (ra : BitVec 3) (stl : BitVec 2) (s : State) : Outcome State Fault Refusal :=
  issue 4 stl (do
    settleM
    let (a, b, n, _, w) ← quadM ra rb
    need (fieldNat n 28 36 == 0) cILLOP n
    need (reportOk w false) cILLOP w
    alignedM a 256
    alignedM b 16
    need (reportAligned w) cALIGN (BitVec.ofNat 64 (fieldNat w 0 53))
    enqueueM 2 5 [a, b, n] w) s

/-- MGCLOSE (R315). -/
def execMgclose (ra : BitVec 5) (stl : BitVec 2) (s : State) : Outcome State Fault Refusal :=
  issue 4 stl (do
    settleM
    readyM [ra] [] [] []
    let a ← src ra
    alignedM a 256
    enqueueM 2 6 [a] 0) s

/-- QFENCE (R296, R307): the named queues hold no unreported command of this core. -/
def execQfence (mod : BitVec 5) (stl : BitVec 2) (s : State) : Outcome State Fault Refusal :=
  issue 4 stl (do
    settleM
    let s ← get
    let k := s.cur
    let x := s.cluster (clusterOf k)
    let mine (q : List EngCmd) : Bool := q.any fun c => c.who.core == k && !c.who.ended
    let engines := (mod.getLsbD 0 && mine x.copyQ) || (mod.getLsbD 1 && mine x.indQ) || (mod.getLsbD 2 && mine x.mergeQ)
    let ce := s.cell (clusterOf k) (cellOf k)
    let sq := mod.getLsbD 3 && ce.staging.any (fun c => c.who.core == k)
    let behind := ce.matrix.any (fun c => c.who.core == k)
    let mx := mod.getLsbD 4 && !isGeneral k
    need (!(mx && behind && ce.parked.isSome && ce.reloading.isNone)) cILLOP 1
    if engines || (!isGeneral k && sq) || (mx && behind) then holdM
    acquireM 1
    closeRegionM) s

/-- EVWAIT and EVWAIT.nb (R303). -/
def execEvwait (nb : BitVec 1) (evn : BitVec 3) (rd : BitVec 5) (stl : BitVec 2) (s : State) : Outcome State Fault Refusal :=
  issue 4 stl (do
    readyM [] [] [rd] []
    let s ← get
    let l := tget EvLine.zero s.me.evs evn.toNat
    if l.count = 0 then
      if nb = 1 then
        put rd 0 0
        acquireM s.regionScope
      else holdM
    else
      put rd (BitVec.ofNat 64 (l.detail * 2 ^ 32 + l.count * 2 ^ 8 + l.code)) 0
      modC fun c => { c with evs := tset c.evs evn.toNat EvLine.zero }
      acquireM s.regionScope) s

end Sys2Proof.Machine
end

