-- ==== Sys2Proof/Machine/Launch.lean ====
section
/-! DEFINITION. User queues, launch packets and command streams (spec/05_launch.md R77 to R90, R93 to R95, R454, R455). -/

namespace Sys2Proof.Machine
open Host

/-! ## Queues -/

/-- Vectors of a function's MSI-X table (R442). -/
def State.vectors (s : State) (f : Nat) : Nat := if f = 0 then 2048 else (s.func f).nvec

/-- TYPE of a packet. -/
def packetType (w : List Word) : Nat := fieldNat (w.getD 0 0) 0 8
/-- BAR of a packet. -/
def packetBar (w : List Word) : Bool := (w.getD 0 0).getLsbD 10
/-- FLAGS [16] of a packet: HOLD, GO or IRQ. -/
def packetFlag (w : List Word) : Bool := (w.getD 0 0).getLsbD 16
/-- The VA in dw1. -/
def packetVa (w : List Word) : Nat := fieldNat (w.getD 1 0) 0 53

/-- The index of the first packet that has not started. -/
def Queue.next (q : Queue) : Nat := q.ridx + q.packets.length

/-- Packets in progress. -/
def Queue.inProgress (q : Queue) : List Packet := q.packets.filter fun p => !p.done

/-- The ring slot of a packet (R78). -/
def Queue.slotVa (q : Queue) (n : Nat) : Nat := q.ring + 64 * (n % 2 ^ q.log2n)

/-- An AWAIT or CPJUMP in progress holds the queue (R82, R86). -/
def Queue.held (q : Queue) : Bool := q.inProgress.any fun p => packetType p.words == 3 || packetType p.words == 6

/-- The queue in a slot of a process. -/
def State.queue? (s : State) (f p slot : Nat) : Option Queue := tfind ((s.func f).proc p).queues slot

/-- A queue changed. -/
def State.modQueue (s : State) (f p slot : Nat) (g : Queue → Queue) : State :=
  match s.queue? f p slot with
  | none => s
  | some q => s.modProc f p fun x => { x with queues := tset x.queues slot (g q) }

/-- Packets in progress in the partition (R95). -/
def State.packetCount (s : State) : Nat :=
  (s.funcs.flatMap fun f => f.2.procs.flatMap fun p => p.2.queues.flatMap fun q => q.2.inProgress).length

/-- QSTATE, QERR and QAT as the device writes them (R77). -/
def Queue.stateWord (q : Queue) : Word := BitVec.ofNat 64 (q.qstate + q.qerr * 2 ^ 8 + q.qat % 2 ^ 32 * 2 ^ 32)

/-- A queue's state set, and its descriptor written (R77, R454). -/
def State.putQueueState (s : State) (f p slot st err at_ : Nat) : State :=
  let s := s.modQueue f p slot fun q => { q with qstate := st, qerr := err, qat := at_ }
  match s.queue? f p slot with
  | none => s
  | some q => s.devStore8 f p (q.desc + 0x20) q.stateWord none

/-- A queue halts (R79, R80). -/
def State.haltQueue (s : State) (f p slot err at_ : Nat) : State := s.putQueueState f p slot 2 err at_

/-- A queue to be disabled is DISABLED once no packet of it is in progress (R443). -/
def State.settleOff (s : State) (f p slot : Nat) : State :=
  match s.queue? f p slot with
  | none => s
  | some q => if q.off && q.inProgress.isEmpty && q.qstate != 0 then s.putQueueState f p slot 0 0 0 else s

/-- RESULT (R83). -/
def resultWord (code reason extra : Nat) : Word := BitVec.ofNat 64 (code + reason % 256 * 2 ^ 8 + extra % 2 ^ 32 * 2 ^ 32)

/-- The read index moves past every leading packet that has completed (R79). -/
def State.passRead (s : State) (f p slot : Nat) : State :=
  match s.queue? f p slot with
  | none => s
  | some q =>
    let rest := q.packets.dropWhile (·.done)
    let n := q.packets.length - rest.length
    if n = 0 then s else
    (s.modQueue f p slot fun q => { q with ridx := q.ridx + n, packets := rest }).devStore8 f p q.ridxVa (BitVec.ofNat 64 (q.ridx + n)) none

/-- A packet completes with a RESULT, and then the read index moves (R79, R83, R87). -/
def State.completeWith (s : State) (f p slot idx : Nat) (r : Word) : State :=
  match s.queue? f p slot with
  | none => s
  | some q =>
    let s := s.devStore8 f p (q.slotVa idx + 56) r none
    let s := s.modQueue f p slot fun q =>
      { q with packets := q.packets.map fun x => if x.index = idx then { x with done := true, result := r } else x }
    (s.passRead f p slot).settleOff f p slot

/-- A packet completes with a code, reason and extra field (R83). -/
def State.completePacket (s : State) (f p slot idx code reason extra : Nat) : State :=
  s.completeWith f p slot idx (resultWord code reason extra)

/-- A command stream that waits in a queue to be disabled ends there (R90); the spec states no RESULT for its packet. -/
def State.cutStream (s : State) (f p slot idx : Nat) : State :=
  match s.queue? f p slot with
  | some q => if q.off then s.tick.completeWith f p slot idx (Config.freeWord s.fresh) else s
  | none => s

/-- MEMFAULT (R83). -/
def State.memFault (s : State) (f p slot idx : Nat) (e : MemErr × Nat) : State :=
  s.completePacket f p slot idx 4 (engCode e.1) (e.2 % 2 ^ 32)

/-- The device reads the write index of a running queue (R78, R79). -/
def State.readIndex (s : State) (f p slot : Nat) : State :=
  match s.queue? f p slot with
  | none => s
  | some q =>
    if q.qstate ≠ 1 then s else
    match s.devWords (f * 256 + p) q.widxVa 1 with
    | (s, .error _) => s.haltQueue f p slot 4 q.next
    | (s, .ok w) =>
      let n := (w.getD 0 0).toNat
      if n < q.widx ∨ q.ridx + 2 ^ q.log2n < n then s.haltQueue f p slot 2 q.ridx
      else s.modQueue f p slot fun q => { q with widx := n }

/-- NOTIFY (R78, R79, R443, R455). -/
def execNotify (func proc slot : Nat) (s : State) : Outcome State Fault Refusal := .next (s.orWait (s.readIndex func proc slot))

/-! ## Starting a packet (R81, R82, R86, R93 to R95) -/

/-- A packet is well formed (R81, R82). -/
def packetOk (vectors : Nat) (w : List Word) : Bool :=
  let t := packetType w
  let d (i : Nat) : Word := w.getD i 0
  let used := match t with | 0 => 0 | 2 => 3 | 4 => 3 | 5 => 3 | _ => 1
  decide (t ≤ 6) && fieldNat (d 0) 11 5 == 0 && fieldNat (d 0) 17 15 == 0 && (!packetFlag w || t == 1 || t == 2 || t == 4) &&
  (spanOf id 1 6).all (fun i => decide (i ≤ used) || d i == 0) && fieldNat (d 1) 53 11 == 0 &&
  (match t with
   | 2 => fieldNat (d 2) 53 11 == 0 && fieldNat (d 2) 0 5 == 0 && decide ((d 3).toNat ≤ 2 ^ 24)
   | 4 => fieldNat (d 1) 0 3 == 0 && decide ((d 3).toNat < 2048) && decide ((d 3).toNat < vectors)
   | 5 => fieldNat (d 2) 53 11 == 0 && decide (1 ≤ (d 3).toNat ∧ (d 3).toNat ≤ 2 ^ 32)
   | 6 => fieldNat (d 1) 0 5 == 0
   | _ => true)

/-- The packet waits for its function's slice (R93): START, COPY, CPJUMP, and a SEED of a region that is not held. -/
def State.needsSlice (s : State) (f p : Nat) (w : List Word) : Bool :=
  match packetType w with
  | 1 => true
  | 5 => true
  | 6 => true
  | 2 => match s.regionAt f p (packetVa w) with | some g => !g.held | none => true
  | _ => false

/-- The next packet of a queue as it stands in its ring slot. -/
def State.peekPacket (s : State) (f p : Nat) (q : Queue) : State × Except (MemErr × Nat) (List Word) :=
  s.devWords (f * 256 + p) (q.slotVa q.next) 8

/-- The next packet of a queue may start, or halts the queue (R86, R93, R95). -/
def State.queueReady (s : State) (f p : Nat) (q : Queue) : Bool :=
  q.qstate == 1 && !q.off && !q.held && decide (q.next < q.widx) &&
  match s.peekPacket f p q with
  | (_, .error _) => true
  | (_, .ok w) => !packetOk (s.vectors f) w || ((!packetBar w || q.inProgress.isEmpty) && (s.onSlice (f * 256) || !s.needsSlice f p w))

/-- The ready queues of a process. -/
def State.readyQueues (s : State) (f p : Nat) : List (Nat × Queue) := ((s.func f).proc p).queues.filter fun e => s.queueReady f p e.2

/-- Those that have started no packet in the present control cycle (R86). -/
def State.nowQueues (s : State) (f p : Nat) : List (Nat × Queue) := (s.readyQueues f p).filter fun e => decide (e.2.startAt ≤ s.clock)

/-- The queue slot that R95 chooses among ready queues: highest QPRIO, then the first at or above the pointer, wrapping. -/
def chooseQueue (ptrs : Tbl Nat) (ready : List (Nat × Queue)) : Option Nat :=
  let top := ready.foldl (fun m (e : Nat × Queue) => max m e.2.qprio) 0
  let c := ((ready.filter fun e => e.2.qprio == top).map (·.1))
  let ptr := tget 0 ptrs top
  let key (n : Nat) : Nat := if n < ptr then n + 64 else n
  c.foldl (fun (b : Option Nat) (n : Nat) => match b with
    | none => some n
    | some m => if key n < key m then some n else some m) none

/-- Deficit counters of a round-robin (R94): the processes with their counters and weights, which have something ready, which of them may
go now, and the one that would go. Processes with nothing ready are reset; when none that may go has credit, a round adds each ready one's
weight; the choice costs 1. None when the process has no credit beside others that may go. -/
def deficits (ps : List (Nat × Nat × Nat)) (ready now : Nat → Bool) (p : Nat) : Option (Tbl Nat) :=
  let ps := ps.map fun e => (e.1, if ready e.1 then e.2.1 else 0, e.2.2)
  let credit := ps.any fun e => now e.1 && decide (1 ≤ e.2.1)
  let ps := if credit then ps else ps.map fun e => (e.1, if ready e.1 then e.2.1 + e.2.2 else e.2.1, e.2.2)
  match ps.find? fun e => e.1 == p && now p && decide (1 ≤ e.2.1) with
  | none => none
  | some _ => some (ps.map fun e => (e.1, if e.1 = p then e.2.1 - 1 else e.2.1))

/-- The packet start of a process charged (R94); none when it is not its turn. -/
def State.chargeStart (s : State) (f p : Nat) : Option State :=
  let procs := (s.func f).procs
  match deficits (procs.map fun e => (e.1, e.2.packetDeficit, e.2.weight)) (fun n => !(s.readyQueues f n).isEmpty)
    (fun n => !(s.nowQueues f n).isEmpty) p with
  | none => none
  | some t => some (s.modFunc f fun x => { x with procs := x.procs.map fun e => (e.1, { e.2 with packetDeficit := tget 0 t e.1 }) })

/-- A packet put in progress, the next one of its queue not before the next control cycle (R86), and the rotating pointer moved past its
queue (R95). -/
def State.beginPacket (s : State) (f p slot : Nat) (q : Queue) (w : List Word) : State :=
  let s := s.modProc f p fun x => { x with ptrs := tset x.ptrs q.qprio ((slot + 1) % 64) }
  s.modQueue f p slot fun x =>
    { x with packets := x.packets ++ [{ index := q.next, words := w, done := false, result := 0, stream := none }], startAt := s.clock + 1 }

/-- The next packet of a queue starts if it is its turn and has the type `t`; a malformed or unreadable one halts the queue. The step waits
where R389 or R443 has it wait. -/
def State.startPacket (s : State) (f p slot t : Nat) (run : Nat → List Word → State → State) : State :=
  match s.queue? f p slot with
  | none => s
  | some q =>
    if decide (64 ≤ s.packetCount) || chooseQueue ((s.func f).proc p).ptrs (s.nowQueues f p) != some slot then s
    else
      match s.chargeStart f p with
      | none => s
      | some u => s.orWait (match u.peekPacket f p q with
        | (u, .error _) => u.haltQueue f p slot 4 q.next
        | (u, .ok w) =>
          if packetType w ≠ t ∧ packetType w ≤ 6 then s
          else if !packetOk (s.vectors f) w then
            (u.devStore8 f p (q.slotVa q.next + 56) (resultWord 2 0 0) none).haltQueue f p slot 2 q.next
          else run q.next w (u.beginPacket f p slot q w))

/-- NOP (R82). -/
def execNop (func proc slot : Nat) (s : State) : Outcome State Fault Refusal :=
  .next (s.startPacket func proc slot 0 fun n _ s => s.completePacket func proc slot n 0 0 0)

/-- START (R82, R74, R84): the region is activated; an unreadable RCB is a MEMFAULT. The answer is code, reason and extra. -/
def State.runStart (s : State) (f p rcb : Nat) (hold : Bool) : State × Nat × Nat × Nat :=
  match s.devWords (f * 256 + p) rcb 32 with
  | (s, .error e) => (s, 4, engCode e.1, e.2 % 2 ^ 32)
  | (s, .ok w) =>
    let r := s.activate f p rcb w hold
    (r.1, if r.2 = 0 then 0 else 1, r.2, 0)

/-- START. The packet activates its region and completes in the step that starts it, so that no later packet of its queue starts while it is in
progress, which R86 would allow (DESIGN CHOICE, log entry 105). -/
def execStart (func proc slot : Nat) (s : State) : Outcome State Fault Refusal :=
  .next (s.startPacket func proc slot 1 fun n w s =>
    let r := s.runStart func proc (packetVa w) (packetFlag w)
    r.1.completePacket func proc slot n r.2.1 r.2.2.1 r.2.2.2)

/-- Descriptors of a seed array inserted in order from index `i`; the first failure as code, reason and extra (R83, R85). In a stepped
region a seed is visible while software holds the region at step 0, and PENDING otherwise: R85 opposes held regions to released ones, and
the model takes one that an escalation holds at a later step as released (DESIGN CHOICE, log entry 106). A descriptor that finds no room in
the overflow area faults the region, and the rest are still inserted (DESIGN CHOICE, log entry 107). -/
def State.seedFrom (s : State) (r space va sq i : Nat) : Nat → State × Option (Nat × Nat × Nat)
  | 0 => (s, none)
  | n + 1 =>
    match s.devWords space (va + 32 * i) 4 with
    | (s, .error e) => (s, some (4, engCode e.1, e.2 % 2 ^ 32))
    | (s, .ok d) =>
      match s.region? r with
      | none => (s, none)
      | some g =>
        match s.kindEntry space g.eff.kinds (descKind d) with
        | (s, .error e) => (s, some (4, engCode e.1, e.2 % 2 ^ 32))
        | (s, .ok e) =>
          let rs := insertReason d e
          if rs ≠ 0 then (s.faultRegion r (detailWord 34 0 0 rs), some (1, rs, i))
          else
            let l := lsliceOf (descField d (match e with | some e => entPlace e | none => 0))
            let pending := g.eff.stepped && !(g.held && g.step == 0)
            State.seedFrom (s.insertTile r l g.copies d pending (0, 0, sq, i)) r space va sq (i + 1) n

/-- SEED (R82, R84, R85), at its turn in the control cycle (R389). The answer is code, reason and extra. One with GO that ends with an
error leaves a held region held (DESIGN CHOICE, log entry 108). -/
def State.runSeed (s : State) (f p rcb va count : Nat) (go : Bool) : State × Nat × Nat × Nat :=
  match s.regionAt f p rcb with
  | none => (s, 1, 16, 0)
  | some g =>
    if g.state ≠ .active then (s, 1, 16, 0) else
    let q := (s.noteInsert [0]).seedFrom g.id (f * 256 + p) va s.nextTile 0 count
    let s := q.1.tileBudgets g.id
    match q.2 with
    | some e => (s, e.1, e.2.1, e.2.2)
    | none => (if go then s.modRegion g.id fun x => { x with held := x.held && x.escalated } else s, 0, 0, 0)

/-- SEED. -/
def execSeed (func proc slot : Nat) (s : State) : Outcome State Fault Refusal :=
  if !s.insertTurn [0] then .next s else
  .next (s.startPacket func proc slot 2 fun n w s =>
    let r := s.runSeed func proc (packetVa w) (fieldNat (w.getD 2 0) 0 53) (w.getD 3 0).toNat (packetFlag w)
    r.1.completePacket func proc slot n r.2.1 r.2.2.1 r.2.2.2)

/-- AWAIT (R82, R86): the packet is in progress and holds its queue. -/
def execAwait (func proc slot : Nat) (s : State) : Outcome State Fault Refusal := .next (s.startPacket func proc slot 3 fun _ _ s => s)

/-- STATUS of an RCB as an AWAIT observes it: none while its region is ACTIVE or DRAINING (R82, R454). -/
def State.statusSeen (s : State) (f p rcb : Nat) : State × Except (MemErr × Nat) (Option Word) :=
  match s.devWords (f * 256 + p) (rcb + 0x80) 1 with
  | (s, .error e) => (s, .error e)
  | (s, .ok w) =>
    let v := w.getD 0 0
    (s, .ok (if (s.regionAt f p rcb).isSome then none else
      match s.lostStatus.find? fun e => e.1 == f * 256 + p && e.2.1 == rcb with
      | some e => some e.2.2
      | none => if fieldNat v 0 4 = 0 ∨ fieldNat v 0 4 = 3 then some v else none))

/-- AWAIT_COMPLETION (R82, R83). -/
def execAwaitCompletion (func proc slot : Nat) (s : State) : Outcome State Fault Refusal :=
  match (s.queue? func proc slot).bind fun q => q.inProgress.find? fun x => packetType x.words == 3 with
  | none => .next s
  | some x =>
    .next (s.orWait (match s.statusSeen func proc (packetVa x.words) with
      | (u, .error e) => u.memFault func proc slot x.index e
      | (_, .ok none) => s
      | (u, .ok (some v)) => u.completePacket func proc slot x.index 0 0 (v.toNat % 2 ^ 32)))

/-- SIGNAL's store and interrupt (R82, R87). The device's stores of earlier packets are seen before it with REL or without, so that the row
of R87's table without REL is never shown (DESIGN CHOICE, log entry 121). -/
def State.runSignal (s : State) (f p va : Nat) (v : Word) (irq : Bool) (vec : Nat) : State × Option (MemErr × Nat) :=
  match s.devWrite (f * 256 + p) va (leBytes 8 v.toNat) with
  | (s, some e) => (s, some (e, va))
  | (s, none) => (if irq then s.raise f vec else s, none)

/-- SIGNAL. -/
def execSignal (func proc slot : Nat) (s : State) : Outcome State Fault Refusal :=
  .next (s.startPacket func proc slot 4 fun n w s =>
    match s.runSignal func proc (packetVa w) (w.getD 2 0) (packetFlag w) (w.getD 3 0).toNat with
    | (s, some e) => s.memFault func proc slot n e
    | (s, none) => s.completePacket func proc slot n 0 0 0)

/-- Bytes copied piece by piece, each within one page of both sides (R82); the failure of a piece leaves the earlier ones. -/
def State.copyBytes (s : State) (space a b n : Nat) : Nat → State × Option (MemErr × Nat)
  | 0 => (s, none)
  | fuel + 1 =>
    if n = 0 then (s, none) else
    let k := min n (min (0x2000 - a % 0x2000) (0x2000 - b % 0x2000))
    match s.devReadPart space (a % vaSpace) k with
    | (s, .error e) => (s, some e)
    | (s, .ok bs) =>
      match s.devWrite space (b % vaSpace) bs with
      | (s, some e) => (s, some (e, b))
      | (s, none) => State.copyBytes s space (a + k) (b + k) (n - k) fuel

/-- COPY (R82, R83). -/
def execCopyPacket (func proc slot : Nat) (s : State) : Outcome State Fault Refusal :=
  .next (s.startPacket func proc slot 5 fun n w s =>
    let a := packetVa w
    let b := fieldNat (w.getD 2 0) 0 53
    let len := (w.getD 3 0).toNat
    if spansMeet (a, len) (b, len) then s.completePacket func proc slot n 1 17 0
    else
      let r := s.copyBytes (func * 256 + proc) a b len (2 * (len / 0x2000) + 3)
      match r.2 with
      | some e => r.1.memFault func proc slot n e
      | none => r.1.completePacket func proc slot n 0 0 0)

/-! ## Command streams (R88 to R90) -/

/-- CPJUMP (R82): the command processor has the stream, and the queue is held. -/
def execCpjump (func proc slot : Nat) (s : State) : Outcome State Fault Refusal :=
  .next (s.startPacket func proc slot 6 fun n w s =>
    s.modQueue func proc slot fun q =>
      { q with packets := q.packets.map fun x =>
          if x.index = n then { x with stream := some { va := packetVa w, idx := 0, loops := [] } } else x })

/-- OP of a command. -/
def cmdOp (c : List Word) : Nat := fieldNat (c.getD 0 0) 0 8
/-- IND. -/
def cmdInd (c : List Word) : Bool := (c.getD 0 0).getLsbD 8
/-- SPAN. -/
def cmdSpan (c : List Word) : Nat := fieldNat (c.getD 0 0) 16 16
/-- COND. -/
def cmdCond (c : List Word) : Nat := fieldNat (c.getD 0 0) 32 8
/-- CF [40]. -/
def cmdFlag (c : List Word) : Bool := (c.getD 0 0).getLsbD 40

/-- A command has no reserved OP, COND or bit (R88, R90), and no operand that R82 would refuse in the packet it stands for, which R90
does not name (DESIGN CHOICE, log entry 50). Fields and words that its OP does not use are not looked at. -/
def cmdOk (vectors : Nat) (c : List Word) : Bool :=
  let op := cmdOp c
  let va (w : Word) : Bool := fieldNat w 53 11 == 0
  let c1 := c.getD 1 0
  let c2 := c.getD 2 0
  let c3 := c.getD 3 0
  fieldNat (c.getD 0 0) 48 16 == 0 && fieldNat (c.getD 0 0) 41 7 == 0 && fieldNat (c.getD 0 0) 9 7 == 0 &&
  decide (cmdCond c ≤ (if op = 5 then 4 else 3)) &&
  (match op with
   | 1 => !cmdInd c || va c1
   | 2 => va c1
   | 3 => va c1
   | 4 => va c1 && va c2 && fieldNat c2 0 5 == 0 && (if cmdInd c then va c3 else decide (c3.toNat ≤ 2 ^ 24))
   | 5 => va c1
   | 6 => va c1 && fieldNat c1 0 3 == 0 && decide (c3.toNat < vectors)
   | 7 => true
   | _ => false)

/-- COND of a command on a word and a value. -/
def condHolds (cond : Nat) (w v : Word) : Bool :=
  match cond with | 0 => w == v | 1 => w != v | 2 => w.ult v | _ => !(w.ult v)

/-- The next command index, with the bodies that end there left or run again: a body is its first and last index and the runs that
remain, 0 for the body of an IF. -/
def nextCmd (loops : List (Nat × Nat × Nat)) (n : Nat) : List (Nat × Nat × Nat) × Nat :=
  match loops with
  | [] => ([], n)
  | (a, b, r) :: rest => if n ≤ b then (loops, n) else if 2 ≤ r then ((a, b, r - 1) :: rest, a) else nextCmd rest n

/-- A stream moved on to a command. -/
def Stream.goTo (t : Stream) (loops : List (Nat × Nat × Nat)) (n : Nat) : Stream :=
  { t with loops := (nextCmd loops n).1, idx := (nextCmd loops n).2 }

/-- A stream past its present command. -/
def Stream.pass (t : Stream) : Stream := t.goTo t.loops (t.idx + 1)

/-- A body of `span` commands after the present one lies within the enclosing body (R90). -/
def Stream.fits (t : Stream) (span : Nat) : Bool := match t.loops with | [] => true | e :: _ => decide (t.idx + span ≤ e.2.1)

/-- How a command ends. -/
inductive CmdEnd where
  /-- The stream goes on. -/
  | go (t : Stream)
  /-- The command waits. -/
  | wait
  /-- CPFAULT (R90). -/
  | bad
  /-- A memory reference faulted (R83). -/
  | mem (e : MemErr × Nat)
  /-- RET. -/
  | ret
  deriving DecidableEq, Repr

/-- The stream of a queue's packet in progress. -/
def State.streamOf (s : State) (f p slot : Nat) : Option (Nat × Stream) :=
  match (s.queue? f p slot).bind fun q => q.inProgress.find? fun x => x.stream.isSome with
  | none => none
  | some x => x.stream.map fun t => (x.index, t)

/-- The command at the head of a queue's stream executes, if its OP is `op` and the function has its slice (R89, R90, R93). The step waits
where R389 or R443 has it wait. -/
def State.command (s : State) (f p slot op : Nat) (run : List Word → Stream → State → State × CmdEnd) : State :=
  match s.streamOf f p slot with
  | none => s
  | some (n, t) =>
    if !s.onSlice (f * 256) then s else
    let fail (s : State) : State := (s.haltQueue f p slot 3 n).completePacket f p slot n 3 0 t.idx
    s.orWait (match s.devWords (f * 256 + p) (t.va + 32 * t.idx) 4 with
    | (u, .error _) => fail u
    | (u, .ok c) =>
      if cmdOp c ≠ op ∧ 1 ≤ cmdOp c ∧ cmdOp c ≤ 7 then s
      else if !cmdOk (s.vectors f) c then fail u
      else
        match run c t u with
        | (u, .go t') => u.modQueue f p slot fun q => { q with packets := q.packets.map fun x => if x.index = n then { x with stream := some t' } else x }
        | (u, .wait) => u.cutStream f p slot n
        | (u, .bad) => fail u
        | (u, .mem e) => u.memFault f p slot n e
        | (u, .ret) => u.completePacket f p slot n 0 0 0)

/-- An operand, or the word at its VA with IND (R89); none when the read faults. -/
def State.cmdOperand (s : State) (space : Nat) (ind : Bool) (w : Word) : State × Option Word :=
  if !ind then (s, some w) else
  match s.devWords space (fieldNat w 0 53) 1 with
  | (s, .error _) => (s, none)
  | (s, .ok v) => (s, some (v.getD 0 0))

/-- CMD_LOOP (R89, R90). -/
def execCmdLoop (func proc slot : Nat) (s : State) : Outcome State Fault Refusal :=
  .next (s.command func proc slot 1 fun c t s =>
    match s.cmdOperand (func * 256 + proc) (cmdInd c) (c.getD 1 0) with
    | (s, none) => (s, .bad)
    | (s, some n) =>
      if !t.fits (cmdSpan c) || decide (4 ≤ (t.loops.filter fun e => e.2.2 != 0).length) then (s, .bad)
      else if n = 0 ∨ cmdSpan c = 0 then (s, .go (t.goTo t.loops (t.idx + 1 + cmdSpan c)))
      else (s, .go { t with loops := (t.idx + 1, t.idx + cmdSpan c, n.toNat) :: t.loops, idx := t.idx + 1 }))

/-- CMD_IF (R89, R90). -/
def execCmdIf (func proc slot : Nat) (s : State) : Outcome State Fault Refusal :=
  .next (s.command func proc slot 2 fun c t s =>
    if !t.fits (cmdSpan c) then (s, .bad) else
    match s.devWords (func * 256 + proc) (fieldNat (c.getD 1 0) 0 53) 1 with
    | (s, .error e) => (s, .mem e)
    | (s, .ok w) =>
      if condHolds (cmdCond c) (w.getD 0 0 &&& c.getD 3 0) (c.getD 2 0) then
        (s, .go (t.goTo (if cmdSpan c = 0 then t.loops else (t.idx + 1, t.idx + cmdSpan c, 0) :: t.loops) (t.idx + 1)))
      else (s, .go (t.goTo t.loops (t.idx + 1 + cmdSpan c))))

/-- CMD_START (R89, R90). Of a word read through IND, bits [63:53] are dropped, where R90 names no check of it (DESIGN CHOICE, log entry
109). -/
def execCmdStart (func proc slot : Nat) (s : State) : Outcome State Fault Refusal :=
  .next (s.command func proc slot 3 fun c t s =>
    match s.cmdOperand (func * 256 + proc) (cmdInd c) (c.getD 1 0) with
    | (s, none) => (s, .bad)
    | (s, some va) =>
      let r := s.runStart func proc (fieldNat va 0 53) (cmdFlag c)
      (r.1, if r.2.1 = 4 then .mem ((if r.2.2.1 = 2 then .tfault false else if r.2.2.1 = 3 then .afault else .poison), r.2.2.2) else .go t.pass))

/-- CMD_SEED (R89, R90). A COUNT read through IND that exceeds 2^24 ends the stream with CPFAULT, which R90 does not name (DESIGN CHOICE, log
entry 120). -/
def execCmdSeed (func proc slot : Nat) (s : State) : Outcome State Fault Refusal :=
  if !s.insertTurn [0] then .next s else
  .next (s.command func proc slot 4 fun c t s =>
    match s.cmdOperand (func * 256 + proc) (cmdInd c) (c.getD 3 0) with
    | (s, none) => (s, .bad)
    | (s, some n) =>
      if 2 ^ 24 < n.toNat then (s, .bad) else
      let r := s.runSeed func proc (fieldNat (c.getD 1 0) 0 53) (fieldNat (c.getD 2 0) 0 53) n.toNat (cmdFlag c)
      (r.1, if r.2.1 = 4 then .mem ((if r.2.2.1 = 2 then .tfault false else if r.2.2.1 = 3 then .afault else .poison), r.2.2.2) else .go t.pass))

/-- CMD_WAIT (R89). -/
def execCmdWait (func proc slot : Nat) (s : State) : Outcome State Fault Refusal :=
  .next (s.command func proc slot 5 fun c t s =>
    let va := fieldNat (c.getD 1 0) 0 53
    if cmdCond c = 4 then
      match s.statusSeen func proc va with
      | (s, .error e) => (s, .mem e)
      | (s, .ok v) => (s, match v with | some v => if fieldNat v 0 4 = 3 then .go t.pass else .wait | none => .wait)
    else
      match s.devWords (func * 256 + proc) va 1 with
      | (s, .error e) => (s, .mem e)
      | (s, .ok w) => (s, if condHolds (cmdCond c) (w.getD 0 0 &&& c.getD 3 0) (c.getD 2 0) then .go t.pass else .wait))

/-- CMD_SIGNAL (R89). -/
def execCmdSignal (func proc slot : Nat) (s : State) : Outcome State Fault Refusal :=
  .next (s.command func proc slot 6 fun c t s =>
    match s.runSignal func proc (fieldNat (c.getD 1 0) 0 53) (c.getD 2 0) (cmdFlag c) (c.getD 3 0).toNat with
    | (s, some e) => (s, .mem e)
    | (s, none) => (s, .go t.pass))

/-- CMD_RET (R89). -/
def execCmdRet (func proc slot : Nat) (s : State) : Outcome State Fault Refusal :=
  .next (s.command func proc slot 7 fun _ _ s => (s, .ret))

end Sys2Proof.Machine
end

