-- ==== Sys2Proof/Machine/Mtx.lean ====
section
/-! DEFINITION. The matrix cells (spec/14_matrix.md R274 to R298; spec/03 R51, R52; spec/12 R249 to R252): staging, panels,
products, draining and filling, and the semaphores of a cell. -/

namespace Sys2Proof.Machine
open Host

/-! ## Formats and elements -/

/-- A wide cluster (R10). -/
def wideCluster (cl : Nat) : Bool := decide (cl % 32 < 16)

/-- The format of a tag with an exponent. -/
def matFmt (t : Nat) : Fmt := match t with | 0x10 => f4 | 0x11 => f8 | 0x13 => bf16 | 0x15 => fp64 | _ => fp32

/-- The value of an element of a tag (R37, R41 to R43). -/
def matDecode (t x : Nat) : Num := if t = 0x12 then sh8Decode x else (matFmt t).decode x

/-- Element `i` of `z` bits of an array of bytes at `base`; two F4 elements share a byte (R25). -/
def elemOf (m : Memory) (base z i : Nat) : Nat :=
  if z = 4 then (m.byte (base + i / 2)).toNat / 16 ^ (i % 2) % 16 else leNat (m.read (base + i * (z / 8)) (z / 8))

/-- The combinations of R276: A, panel and accumulator tags, and whether the cell is wide. -/
def productOk (wide : Bool) (a p acc : Nat) : Bool :=
  if wide then (a == 0x13 && p == 0x13 && acc == 0x14) || (a == 0x14 && p == 0x14 && acc == 0x14) || (a == 0x15 && p == 0x15 && acc == 0x15)
  else (a == 0x10 && p == 0x10 && acc == 0x14) || (a == 0x11 && p == 0x12 && acc == 0x14)

/-- An A format that a cell accepts (R276). -/
def stageOk (wide : Bool) (t : Nat) : Bool := if wide then [0x13, 0x14, 0x15].contains t else [0x10, 0x11].contains t

/-- A panel format that a cell accepts (R249). -/
def panelOk (wide : Bool) (t : Nat) : Bool := if wide then [0x13, 0x14, 0x15].contains t else [0x10, 0x12].contains t

/-- Elements per k-group (R51). -/
def groupLen (wide : Bool) : Nat := if wide then 32 else 64

/-! ## Panels (R249, R250) -/

/-- STATE of an entry's p0. -/
def panelState (p0 : Word) : Nat := fieldNat p0 0 2
/-- FMT. -/
def panelFmt (p0 : Word) : Nat := fieldNat p0 8 8
/-- KB. -/
def panelKb (p0 : Word) : Nat := fieldNat p0 16 12
/-- BASE. -/
def panelBase (p0 : Word) : Nat := fieldNat p0 32 8
/-- UNITS. -/
def panelUnitsOf (p0 : Word) : Nat := fieldNat p0 40 9

/-- An entry of a panel table. -/
def Cell.panel (c : Cell) (n : Nat) : Word × Word := tget (0, 0) c.panels n

/-- STATE of an entry changed. -/
def Cell.setPanelState (c : Cell) (n st : Nat) : Cell :=
  { c with panels := tset c.panels n (setField (c.panel n).1 0 2 st, (c.panel n).2) }

/-- p0 of an entry. -/
def panelWord (st fmt kb base units : Nat) : Word := BitVec.ofNat 64 (st + fmt * 2 ^ 8 + kb * 2 ^ 16 + base * 2 ^ 32 + units * 2 ^ 40)

/-- The range of an entry overlaps another PRESENT or LOADING one (R281). -/
def Cell.panelOverlap (c : Cell) (n base units : Nat) : Bool :=
  c.panels.any fun e => e.1 != n && panelState e.2.1 != 0 && decide (base < panelBase e.2.1 + panelUnitsOf e.2.1) &&
    decide (panelBase e.2.1 < base + units)

/-! ## Commands of a cell -/

/-- Fields of a product's descriptor (R287): KCNT. -/
def CellCmd.kcnt (c : CellCmd) : Nat := fieldNat (c.ops.getD 0 0) 28 12
/-- KOFF. -/
def CellCmd.koff (c : CellCmd) : Nat := fieldNat (c.ops.getD 0 0) 16 12
/-- PANEL. -/
def CellCmd.panelNo (c : CellCmd) : Nat := fieldNat (c.ops.getD 0 0) 9 6
/-- ABASE. -/
def CellCmd.abase (c : CellCmd) : Nat := fieldNat (c.ops.getD 0 0) 0 9
/-- The command is a product. -/
def CellCmd.isProduct (c : CellCmd) : Bool := decide (3 ≤ c.op)
/-- The command is a product of four cells. -/
def CellCmd.four (c : CellCmd) : Bool := c.op == 4 || c.op == 6
/-- The object VA of a product. -/
def CellCmd.objVa (c : CellCmd) : Nat := vaOf (c.ops.getD 1 0)

/-- Tag of an A unit (R279). -/
def Cell.utag (c : Cell) (u : Nat) : Nat := (tget 0 c.utags u).toNat

/-- The A range of a product: first unit and number of units (R284, R289). -/
def Cell.aRange (x : Cell) (c : CellCmd) : Nat × Nat :=
  (c.abase, c.kcnt * matBits (x.utag c.abase) * if c.four then 2 else 1)

/-- The units that an ASTAGE writes. -/
def stageRange (c : CellCmd) : Nat × Nat :=
  let w := c.ops.getD 1 0
  (fieldNat w 0 9, fieldNat w 24 8 * matBits (fieldNat w 16 8))

/-- Products of a cell that are unfinished and not parked, those behind a parked one among them (R281, R284). -/
def Cell.unparked (c : Cell) : List CellCmd := c.matrix.filter (·.isProduct)

/-- An unfinished, unparked product of a cluster names an entry of a cell (R281). A queue whose parked product names the entry holds back
no load of it (R293). -/
def Cluster.panelNamed (x : Cluster) (ce n : Nat) : Bool :=
  x.cells.any fun e =>
    let names (c : CellCmd) : Bool := c.panelNo == n && (c.four || e.1 == ce)
    !e.2.parked.any names && e.2.unparked.any names

/-- Cell `ce` of a cluster. -/
def Cluster.cell (x : Cluster) (ce : Nat) : Cell := tget .init x.cells ce

/-- A PLOAD or PEVICT of an entry waits (R281, R282). -/
def Cluster.panelBusy (x : Cluster) (ce n : Nat) : Bool := x.panelNamed ce n || panelState ((x.cell ce).panel n).1 == 1

/-- A firing has claimed the cluster's other cells (R288). -/
def Cluster.claimed (x : Cluster) (ce f : Nat) : Bool := [0, 1, 2, 3].all fun c => c == ce || (x.cell c).claim == some f

/-! ## Staging (R280) -/

/-- The place of a local address that a cell core may reach: its scratchpad or the cluster's banks (R229, R280). -/
def State.localPlace (s : State) (k va : Nat) : Option Place :=
  match s.window k va false with
  | some (.arr c o) => if 0x8000 ≤ o then some (.arr c o) else none
  | p => p

/-- Local bytes read; the failure has its engine code and the offset of the first faulting byte, counted from `off`. -/
def State.localBytes (s : State) (k va off : Nat) : Nat → Except (Nat × Nat) (List Byte)
  | 0 => .ok []
  | n + 1 =>
    match s.localPlace k (va % vaSpace) with
    | none => .error (3, off)
    | some p =>
      if s.seenBad k .rc p then .error (4, off) else
      match s.localBytes k (va + 1) (off + 1) n with
      | .error e => .error e
      | .ok bs => .ok (s.seenByte k .rc p :: bs)

/-- Rows of a stage command read, from row `i` on. -/
def State.stageRows (s : State) (k va pitch len i : Nat) : Nat → Except (Nat × Nat) (List (List Byte))
  | 0 => .ok []
  | n + 1 =>
    match s.localBytes k (va + i * pitch) (i * pitch) len with
    | .error e => .error e
    | .ok b =>
      match s.stageRows k va pitch len (i + 1) n with
      | .error e => .error e
      | .ok bs => .ok (b :: bs)

/-- A row written into its blocks: `rb` bytes of each (R279). -/
def stageRow (abuf : Memory) (base rb i blk : Nat) (bs : List Byte) : Nat → Memory
  | 0 => abuf
  | n + 1 => stageRow (abuf.write ((base + blk * (rb / 16)) * 2048 + i * rb) (bs.take rb)) base rb i (blk + 1) (bs.drop rb) n

/-- Unit tags of a range. -/
def setUtags (t : Tbl (BitVec 8)) (lo n : Nat) (v : Nat) : Tbl (BitVec 8) :=
  (spanOf id lo n).foldl (fun t u => tset t u (BitVec.ofNat 8 v)) t

/-- A matrix command's barrier object is told; a lost report reaches no one (R452). -/
def State.cellReport (s : State) (c : CellCmd) (va code detail : Nat) : State :=
  ((s.reportTo c.who va code detail none).1).poisonRolls c.who (code == 4)

/-- ASTAGE performed (R280). -/
def State.performStage (s : State) (cl ce : Nat) (c : CellCmd) : State :=
  let w := c.ops.getD 1 0
  let t := fieldNat w 16 8
  let kc := fieldNat w 24 8
  let obj := vaOf (c.ops.getD 2 0)
  let r := stageRange c
  if !stageOk (wideCluster cl) t then s.cellReport c obj 7 0 else
  let rb := 16 * matBits t
  match s.stageRows c.who.core (vaOf (c.ops.getD 0 0)) (fieldNat w 32 20) (kc * rb) 0 128 with
  | .error (code, off) =>
    (s.modCell cl ce fun x => { x with utags := setUtags x.utags r.1 r.2 0 }).cellReport c obj code off
  | .ok rows =>
    let fill (x : Cell) : Memory := rows.zipIdx.foldl (fun (m : Memory) (e : List Byte × Nat) => stageRow m r.1 rb e.2 0 e.1 kc) x.abuf
    (s.modCell cl ce fun x => { x with abuf := fill x, utags := setUtags x.utags r.1 r.2 t }).cellReport c obj 0 0

/-! ## Loading a panel (R281) -/

/-- Where a read of a panel's source leads: as a load of the stager, through its TLBs (R281). -/
def State.loadTarget (s : State) (w : Who) (va : Nat) : State × Except MemErr Target :=
  if windowBase ≤ va then
    (s, match s.window w.core va false with
      | some p => .ok { place := p, ord := .rc, hint := .default, shd := false }
      | none => .error .afault)
  else
    match s.lookup w.core w.space va .load w.handler with
    | (s, .error e) => (s, .error e)
    | (s, .ok e) =>
      let t : Target := { place := physPlace (leafPa e.pte e.pages va), ord := pteClass e.pte, hint := pteHint e.pte, shd := pteShd e.pte }
      let r := s.copyPlace w va t false
      (r.1, .ok { t with place := r.2 })

/-- A page of a panel's source read as the stager reads it; a failure has its offset counted from `off`. -/
def loadPart (w : Who) (va n off : Nat) : EM (List Byte) := do
  let (s, r) := (← get).loadTarget w va
  set s
  match r with
  | .error e => throw (engCode e, off)
  | .ok t =>
    let s := s.readUo w.core t n
    set (s.touch w.core t t.hint n)
    match (spanOf id 0 n).find? fun i => s.seenBad w.core t.ord (t.place.add i) with
    | some i => throw (4, off + i)
    | none => return spanOf (fun i => s.seenByte w.core t.ord (t.place.add i)) 0 n

/-- Pages read in turn. -/
def loadParts (w : Who) (off : Nat) : List (Nat × Nat) → EM (List Byte)
  | [] => return []
  | (va, n) :: r => do
    let b ← loadPart w va n off
    let bs ← loadParts w (off + n) r
    return b ++ bs

/-- The bytes of column slice `j` of a panel's data units: element (k, j) of the row-major source at byte k × z / 8 (R251, R281). -/
def panelColumn (src : Memory) (z kb j : Nat) : List Byte :=
  let el (k : Nat) : Nat := elemOf src 0 z (k * 128 + j)
  let data := if z = 4 then spanOf (fun c => BitVec.ofNat 8 (el (2 * c) + 16 * el (2 * c + 1))) 0 (64 * kb)
    else (spanOf id 0 (128 * kb)).flatMap fun k => leBytes (z / 8) (el k)
  data ++ List.replicate ((kb * z + 31) / 32 * 0x200 - data.length) 0

/-- A panel's source copied into the column slices of a cell. -/
def putPanel (store : Memory) (ce fmt kb base : Nat) (bs : List Byte) : Memory :=
  let src := Memory.empty.setBytes 0 bs
  let z := matBits fmt
  (spanOf id 0 128).foldl (fun (m : Memory) (j : Nat) =>
    let m := m.write (panelOff ce j base 0) (panelColumn src z kb j)
    if fmt = 0x12 then
      m.write (panelOff ce j (base + panelUnits fmt kb - 1) 0) (src.read (kb * 16384 + 2 * j) 2 ++ List.replicate 510 0)
    else m) store

/-- The checks of a PLOAD, then its entry LOADING (R281): the code of a failed check. -/
def State.beginPanel (s : State) (cl ce n fmt kb base va : Nat) : State × Option (Nat × Nat) :=
  let units := panelUnits fmt kb
  if !panelOk (wideCluster cl) fmt then (s, some (7, 0))
  else if 256 < base + units ∨ (s.cell cl ce).panelOverlap n base units then (s, some (6, 0))
  else (s.modCell cl ce fun x =>
    { x with panels := tset x.panels n (panelWord 1 fmt kb base units, BitVec.ofNat 64 va) }, none)

/-- The copy of a panel whose entry is LOADING (R281): PRESENT, or ABSENT with the code and offset of the failure. -/
def State.copyPanel (s : State) (w : Who) (cl ce n : Nat) : State × Option (Nat × Nat) :=
  let e := (s.cell cl ce).panel n
  let fmt := panelFmt e.1
  let kb := panelKb e.1
  let len := kb * 2048 * matBits fmt + if fmt = 0x12 then 256 else 0
  match (loadParts w 0 (pagesOf (vaOf e.2) len (len / 0x2000 + 2))).run.run s with
  | (.error x, s) => (s.modCell cl ce fun c => c.setPanelState n 0, some x)
  | (.ok bs, s) =>
    let s := s.modCluster cl fun x => { x with store := putPanel x.store ce fmt kb (panelBase e.1) bs }
    (s.modCell cl ce fun c => c.setPanelState n 2, none)

/-- STAGING_PERFORM (R280, R281, R283, R284, R305): the head of the staging queue; a PLOAD takes two steps, so that its entry can be
seen LOADING. -/
def execStagingPerform (cluster cell : Nat) (s : State) : Outcome State Fault Refusal :=
  let x := s.cluster cluster
  match (x.cell cell).staging with
  | [] => .next s
  | c :: r =>
    let pop (s : State) : State := (s.noteIdle cluster c.who.core).modCell cluster cell fun y => { y with staging := r }
    let w := c.ops.getD 1 0
    let obj := vaOf (c.ops.getD 2 0)
    let tce := fieldNat w 6 2
    let n := fieldNat w 0 6
    if c.op = 1 ∧ c.done = 1 then
      let q := s.copyPanel c.who cluster tce n
      let e := q.2.getD (0, 0)
      .next ((pop q.1).cellReport c obj e.1 e.2)
    else if s.cmdHeld cluster c.at_ then .next s
    else if c.op = 0 then
      let g := stageRange c
      let waits := (x.cell cell).unparked.any fun m => decide (m.at_ < c.at_) && spansMeet g ((x.cell cell).aRange m)
      if waits then .next s else .next ((pop s).performStage cluster cell c)
    else if x.panelBusy tce n then .next s
    else
      let q := s.beginPanel cluster tce n (fieldNat w 28 8) (fieldNat w 16 12) (fieldNat w 8 8) (vaOf (c.ops.getD 0 0))
      match q.2 with
      | some e => .next ((pop q.1).cellReport c obj e.1 e.2)
      | none => .next (q.1.modCell cluster cell fun y => { y with staging := { c with done := 1 } :: r })

/-! ## Products (R51, R52, R287, R289) -/

/-- An exact sum of exact products (R51, R52). -/
def sumNum (ps : List Num) : Num :=
  let posInf := ps.any fun p => p == .inf false
  let negInf := ps.any fun p => p == .inf true
  if ps.any (·.isNaN) || (posInf && negInf) then .nan false
  else if posInf then .inf false
  else if negInf then .inf true
  else
    let e := ps.foldl (fun (e : Int) (p : Num) => match p with | .fin _ _ x => min e x | _ => e) 0
    let t := ps.foldl (fun (t : Int) (p : Num) => match p with
      | .fin n m x => t + (if n then -1 else 1) * ((m * 2 ^ (x - e).toNat : Nat) : Int)
      | _ => t) 0
    if t = 0 then .fin (ps.all (·.neg)) 0 e else .fin (decide (t < 0)) t.natAbs e

/-- An accumulator element after the k-groups `g` on of a block, given the products by k within the block (R51). -/
def accGroups (f : Fmt) (len : Nat) (prod : Nat → Num) (acc g : Nat) : Nat → Nat
  | 0 => acc
  | n + 1 =>
    let s := (f.ofNum 0 (sumNum (spanOf prod (g * len) len))).1
    accGroups f len prod (f.addNum 0 (f.decode acc) (f.decode s)).1 (g + 1) n

/-- An accumulator as a table without its elements of +0. -/
def accTable (f : Nat → Nat) : Tbl Word :=
  (spanOf (fun i => (i, BitVec.ofNat 64 (f i))) 0 16384).filter (fun e => e.2 != 0)

/-- The first unit of the A rows that cell `c` takes for block `b` of a product (R287, R289). -/
def blockUnit (m : CellCmd) (z c b : Nat) : Nat := m.abase + (if m.four then c / 2 * m.kcnt * z else 0) + (b - m.koff) * z

/-- Block `b` of a product accumulated into cell `c`; the A buffer is that of the issuing cell. -/
def Cluster.accumulate (x : Cluster) (wide : Bool) (ce c : Nat) (m : CellCmd) (b : Nat) : Tbl Word :=
  let a := (x.cell ce).abuf
  let u := (x.cell ce).utag m.abase
  let p := ((x.cell c).panel m.panelNo).1
  let t := (m.ops.getD 2 0).toNat
  let base := blockUnit m (matBits u) c b * 2048
  let av (i k : Nat) : Num := matDecode u (elemOf a base (matBits u) (i * 128 + k))
  let bv (j k : Nat) : Num := matDecode (panelFmt p) (elemOf x.store (panelOff c j (panelBase p) 0) (matBits (panelFmt p)) (128 * b + k))
  let old := tget [] (x.cell c).accs m.acc
  accTable fun n => accGroups (matFmt t) (groupLen wide) (fun k => mulNum (av (n / 128) k) (bv (n % 128) k)) (tget 0 old n).toNat 0
    (128 / groupLen wide)

/-- The error of a product that cell `c` finds before it accumulates (R287, R289). -/
def Cluster.productCheck (x : Cluster) (wide : Bool) (ce c : Nat) (m : CellCmd) : Option Nat :=
  let y := x.cell ce
  let u := y.utag m.abase
  let p := ((x.cell c).panel m.panelNo).1
  let r := y.aRange m
  if panelState p = 0 then some 1
  else if panelKb p < m.koff + m.kcnt then some 6
  else if !productOk wide u (panelFmt p) (m.ops.getD 2 0).toNat then some 7
  else if 512 < r.1 + r.2 then some 6
  else if (spanOf y.utag r.1 r.2).any (· != u) then some 7
  else none

/-- Bytes of block `b` that cell `c` reads are poisoned (R287). -/
def Cluster.blockBad (x : Cluster) (ce c : Nat) (m : CellCmd) (b : Nat) : Bool :=
  let z := matBits ((x.cell ce).utag m.abase)
  let p := ((x.cell c).panel m.panelNo).1
  let pz := matBits (panelFmt p)
  (x.cell ce).abuf.anyBad (blockUnit m z c b * 2048) (z * 2048) ||
    (spanOf id 0 128).any fun j => x.store.anyBad (panelOff c j (panelBase p) (128 * b * pz / 8)) (16 * pz)

/-- The cells that a product takes. -/
def CellCmd.parts (m : CellCmd) (ce : Nat) : List Nat := if m.four then [0, 1, 2, 3] else [ce]

/-- Blocks accumulated from `b` on: the cluster, and the block and cell of the first error. -/
def Cluster.blocks (x : Cluster) (wide : Bool) (ce : Nat) (m : CellCmd) (b : Nat) : Nat → Cluster × Option (Nat × Nat)
  | 0 => (x, none)
  | n + 1 =>
    match (m.parts ce).find? fun c => x.blockBad ce c m b with
    | some c => (x, some (b, c))
    | none =>
      let new := (m.parts ce).map fun c => (c, x.accumulate wide ce c m b)
      let put (x : Cluster) (e : Nat × Tbl Word) : Cluster :=
        { x with cells := tset x.cells e.1 { x.cell e.1 with accs := tset (x.cell e.1).accs m.acc e.2 } }
      Cluster.blocks (new.foldl put x) wide ce m (b + 1) n

/-- The detail of a product's error (R287). -/
def productDetail (m : CellCmd) (c b : Nat) : Nat := m.panelNo * 2 ^ 16 + c * 2 ^ 14 + m.acc * 2 ^ 12 + b

/-- A product becomes its cell's parked product (R287, R293); in hardware mode an absent panel that was loaded once is to be
reloaded (R295, R445). -/
def State.park (s : State) (cl ce : Nat) (m : CellCmd) (code c b : Nat) : State :=
  let kb := panelKb ((s.cell cl c).panel m.panelNo).1
  let reload := code == 1 && !s.duty.getLsbD 0 && kb != 0 && m.ops.getD 3 0 == 0
  let s := s.modCell cl ce fun x =>
    { x with matrix := x.matrix.tail, parked := some { m with done := b },
             reloading := if reload then some (c * 64 + m.panelNo) else none }
  s.cellReport m m.objVa code (productDetail m c b)

/-- The error of a product at its next block in cell `c`: a check of R287, or poison. -/
def Cluster.firstError (x : Cluster) (wide : Bool) (ce c : Nat) (m : CellCmd) : Option Nat :=
  match x.productCheck wide ce c m with
  | some e => some e
  | none => if x.blockBad ce c m m.done then some 4 else none

/-- A product at the head of the matrix queue performed from its next block; an error names the lowest-numbered cell that fails at the
lowest failing block (R287, R289). -/
def State.performProduct (s : State) (cl ce : Nat) (m : CellCmd) : State :=
  let x := s.cluster cl
  let wide := wideCluster cl
  match (m.parts ce).findSome? fun c => (x.firstError wide ce c m).map fun e => (e, c) with
  | some (code, c) => s.park cl ce m code c m.done
  | none =>
    let r := x.blocks wide ce m m.done (m.koff + m.kcnt - m.done)
    let s := s.setCluster cl r.1
    match r.2 with
    | some (b, c) => s.park cl ce m 4 c b
    | none => ((s.noteIdle cl m.who.core).modCell cl ce fun y => { y with matrix := y.matrix.tail }).cellReport m m.objVa 0 0

/-- An accumulator zeroed; its checksums agree (R286). -/
def Cell.zeroAcc (c : Cell) (a : Nat) : Cell := { c with accs := tdel c.accs a, accBad := numDel c.accBad a }

/-- A product's object returns from its error phase (R294). -/
def State.resumeObj (s : State) (m : CellCmd) : State :=
  match s.reach m.who m.objVa 32 with
  | (s, .error _) => s
  | (s, .ok pa) => s.modObj otherParty pa BarObj.resume

/-- Tag(ad) of the issuer. -/
def Core.atag (c : Core) (a : Nat) : Nat := (tget 0 c.atags a).toNat

/-- The parked product goes back to the head of its queue, to be resumed, and has reached the cell anew (R284, R294, R295). Its checks are
made again with the tag that its accumulator has now. -/
def State.unpark (s : State) (cl ce : Nat) (m : CellCmd) : State :=
  let tag := BitVec.ofNat 64 ((s.core m.who.core).atag m.acc)
  let m := { m with op := if m.four then 6 else 5, ops := m.ops.take 2 ++ tag :: m.ops.drop 3, at_ := (s.cluster cl).arrivals }
  (s.modCell cl ce fun x => { x with matrix := m :: x.matrix, parked := none, reloading := none }).modCluster cl fun x => { x with arrivals := x.arrivals + 1 }

/-- MATRIX_PERFORM (R283, R284, R286, R287, R294): the head of the matrix queue. A parked product holds it. A resumed product first takes its
object out of the error phase, and is performed in a step of its own, so that the object is seen between the two (R441). -/
def execMatrixPerform (cluster cell : Nat) (s : State) : Outcome State Fault Refusal :=
  let x := s.cluster cluster
  let y := x.cell cell
  match y.matrix with
  | [] => .next s
  | m :: r =>
    if y.parked.isSome then .next s
    else if m.op = 2 then .next (s.modCell cluster cell fun c => { c.zeroAcc m.acc with matrix := r })
    else
      let loading := (m.parts cell).any fun c => panelState ((x.cell c).panel m.panelNo).1 == 1
      let staged := y.staging.any fun c => c.op == 0 && decide (c.at_ < m.at_) && spansMeet (stageRange c) (y.aRange m)
      if loading || staged then .next s
      else if 5 ≤ m.op then
        .next ((s.resumeObj m).modCell cluster cell fun c => { c with matrix := { m with op := m.op - 2, begun := true } :: r })
      else .next (s.performProduct cluster cell m)

/-- PANEL_RELOAD (R295): the loader loads the panel of a parked product again, with the reads of the stager of the product's cell, and
resumes it, or replaces its error. -/
def execPanelReload (cluster cell : Nat) (s : State) : Outcome State Fault Refusal :=
  let x := s.cluster cluster
  match (x.cell cell).reloading, (x.cell cell).parked with
  | some sel, some m =>
    let ce := sel / 64
    let n := sel % 64
    let e := (x.cell ce).panel n
    if x.panelBusy ce n then .next s
    else
      let q := s.beginPanel cluster ce n (panelFmt e.1) (panelKb e.1) (panelBase e.1) (vaOf e.2)
      let q := match q.2 with
        | some err => (q.1, some err)
        | none => q.1.copyPanel { m.who with core := cluster * 16 + 8 + cell, handler := false } cluster ce n
      match q.2 with
      | none => .next (q.1.unpark cluster cell m)
      | some err =>
        let m := { m with ops := m.ops.take 3 ++ [1] }
        .next ((q.1.modCell cluster cell fun c => { c with parked := some m, reloading := none }).cellReport m m.objVa err.1 err.2)
  | _, _ => .next s

/-- CLAIM_HOLDOFF_EXPIRY (R288): 4,096 control cycles after a failed claim, the cell may be dispatched to again. -/
def execClaimHoldoffExpiry (cluster cell : Nat) (s : State) : Outcome State Fault Refusal :=
  match (s.cell cluster cell).holdoff with
  | none => .next s
  | some t => if s.clock < t + 4096 then .next s else .next ((s.noteUnit cluster).modCell cluster cell fun c => { c with holdoff := none })

/-! ## The instructions (R275, R277, R278) -/

/-- cr.tval of FMTCHK for an accumulator (R278). -/
def accTval (a tag : Nat) : Word := BitVec.ofNat 64 (a + tag * 256)

/-- Tag(ad) set. -/
def Core.setAtag (c : Core) (a t : Nat) : Core := { c with atags := tset c.atags a (BitVec.ofNat 8 t) }

/-- An operand VA is a multiple of `n`, else ALIGN with the VA (R278). -/
def alignM (w : Word) (n : Nat) : M Unit := need (vaOf w % n == 0) cALIGN (BitVec.ofNat 64 (vaOf w))

/-- The executing core's cluster and cell. -/
def cellM : M (Nat × Nat) := do
  let k ← curK
  return (clusterOf k, cellOf k)

/-- An MTX instruction has been performed: a firing stopped from now on is kept, as none is performed twice (R298; DEDUCED, log entry 132). -/
def mtxM : M Unit := modC fun c => { c with mtx := true }

/-- A synchronous instruction of the issuer waits for the matrix queue; behind a parked product that the loader is not reloading it
traps (R283, R296). -/
def matrixIdleM : M Unit := do
  let (cl, ce) ← cellM
  let x := (← get).cell cl ce
  need (x.parked.isNone || x.reloading.isSome) cILLOP 1
  if x.parked.isSome || !x.matrix.isEmpty then throw .stall

/-- A command put into the matrix queue (R283, R296). -/
def enqueueMatrix (op acc : Nat) (ops : List Word) (done : Nat) : M Unit := do
  let (cl, ce) ← cellM
  let s ← get
  let x := s.cell cl ce
  let full := decide (16 ≤ x.matrix.length + if x.parked.isSome then 1 else 0)
  need (!(full && x.parked.isSome && x.reloading.isNone)) cILLOP 1
  if full then throw .stall
  modify fun s =>
    let c : CellCmd := { who := s.whoIs s.cur, at_ := (s.cluster cl).arrivals, op := op, ops := ops, acc := acc, done := done,
                         begun := false }
    (s.modCell cl ce fun x => { x with matrix := x.matrix ++ [c] }).modCluster cl fun x => { x with arrivals := x.arrivals + 1 }
  mtxM

/-- A command put into the staging queue (R283). -/
def enqueueStaging (op : Nat) (ops : List Word) : M Unit := do
  let (cl, ce) ← cellM
  let s ← get
  if 16 ≤ (s.cell cl ce).staging.length then throw .stall
  modify fun s =>
    let c : CellCmd := { who := s.whoIs s.cur, at_ := (s.cluster cl).arrivals, op := op, ops := ops, acc := 0, done := 0, begun := false }
    (s.modCell cl ce fun x => { x with staging := x.staging ++ [c] }).modCluster cl fun x => { x with arrivals := x.arrivals + 1 }
  mtxM

/-- FP64 on a narrow cell traps FMTCHK with tag 0x15 (R286). -/
def wideM (dbl : Bool) (a : Nat) : M Unit := do
  let (cl, _) ← cellM
  need (!dbl || wideCluster cl) cFMTCHK (accTval a 0x15)

/-- MZERO (R286). -/
def execMzero (dbl : BitVec 1) (ad stl : BitVec 2) (s : State) : Outcome State Fault Refusal :=
  issue 4 stl (do
    kindM isIssuer (instrBits (.mzero dbl ad stl))
    let _ ← firingM (instrBits (.mzero dbl ad stl))
    wideM (dbl == 1) ad.toNat
    enqueueMatrix 2 ad.toNat [] 0
    modC fun c => c.setAtag ad.toNat (if dbl = 1 then 0x15 else 0x14)) s

/-- A cell that a claim can take: no firing runs on it, and no other firing claims it (R288). -/
def State.claimable (s : State) (cl ce f : Nat) : Bool :=
  let work (k : Nat) : Bool := (s.core k).run.firingNo.isSome
  !work (cl * 16 + 8 + ce) && !work (cl * 16 + 12 + ce) && (s.cell cl ce).staging.isEmpty &&
    ((s.cell cl ce).claim == none || (s.cell cl ce).claim == some f)

/-- MZERO.g (R288). -/
def execMzeroG (dbl : BitVec 1) (pd : BitVec 3) (ad stl : BitVec 2) (s : State) : Outcome State Fault Refusal :=
  issue 4 stl (do
    kindM isIssuer (instrBits (.mzeroG dbl pd ad stl))
    readyM [] [] [] [pd]
    let f ← firingM (instrBits (.mzeroG dbl pd ad stl))
    wideM (dbl == 1) ad.toNat
    matrixIdleM
    let (cl, ce) ← cellM
    mtxM
    let s := (← get).noteUnit cl
    let others := [0, 1, 2, 3].filter (· != ce)
    if others.all fun c => s.claimable cl c f.id then
      set (others.foldl (fun (s : State) (c : Nat) => s.modCell cl c fun x => { x.zeroAcc ad.toNat with claim := some f.id })
        (s.modCell cl ce fun x => x.zeroAcc ad.toNat))
      modC fun c => c.setAtag ad.toNat (if dbl = 1 then 0x15 else 0x14)
      putP pd true 0
    else
      set (others.foldl (fun (s : State) (c : Nat) => s.modCell cl c fun x => { x with holdoff := some s.clock }) s)
      putP pd false 0) s

/-- MMA and MMAG (R287, R289). -/
def mmaM (four : Bool) (rb ra : BitVec 5) (ad : BitVec 2) (bits : Word) : M Unit := do
  kindM isIssuer bits
  readyM [ra, rb] [] [] []
  let f ← firingM bits
  let c ← getC
  let t := c.atag ad.toNat
  need (t == 0x14 || t == 0x15) cFMTCHK (accTval ad.toNat t)
  let (cl, ce) ← cellM
  need (!four || ((← get).cluster cl).claimed ce f.id) cILLOP bits
  let d ← src ra
  let w ← src rb
  need (fieldNat d 40 24 == 0 && !d.getLsbD 15 && fieldNat d 28 12 != 0 && decide (fieldNat d 16 12 + fieldNat d 28 12 ≤ 2048)) cILLOP d
  alignM w 32
  enqueueMatrix (if four then 4 else 3) ad.toNat [d, w, BitVec.ofNat 64 t] (fieldNat d 16 12)

/-- MMA (R287). -/
def execMma (rb ra : BitVec 5) (ad stl : BitVec 2) (s : State) : Outcome State Fault Refusal :=
  issue 4 stl (mmaM false rb ra ad (instrBits (.mma rb ra ad stl))) s

/-- MMAG (R289). -/
def execMmag (rb ra : BitVec 5) (ad stl : BitVec 2) (s : State) : Outcome State Fault Refusal :=
  issue 4 stl (mmaM true rb ra ad (instrBits (.mmag rb ra ad stl))) s

/-- MMA.resume and MMAG.resume (R294). -/
def resumeM (four : Bool) (rb ra : BitVec 5) (ad : BitVec 2) (bits : Word) : M Unit := do
  kindM isIssuer bits
  readyM [ra, rb] [] [] []
  let t := (← getC).atag ad.toNat
  need (t == 0x14 || t == 0x15) cFMTCHK (accTval ad.toNat t)
  let d ← src ra
  let w ← src rb
  let (cl, ce) ← cellM
  let x := (← get).cell cl ce
  match x.parked with
  | none => trap cILLOP 0
  | some m =>
    need (x.reloading.isNone && m.four == four && m.acc == ad.toNat && m.ops.getD 0 0 == d && m.ops.getD 1 0 == w) cILLOP 0
    modify fun s => s.unpark cl ce m
    mtxM

/-- MMA.resume (R294). -/
def execMmaResume (rb ra : BitVec 5) (ad stl : BitVec 2) (s : State) : Outcome State Fault Refusal :=
  issue 4 stl (resumeM false rb ra ad (instrBits (.mmaResume rb ra ad stl))) s

/-- MMAG.resume (R294). -/
def execMmagResume (rb ra : BitVec 5) (ad stl : BitVec 2) (s : State) : Outcome State Fault Refusal :=
  issue 4 stl (resumeM true rb ra ad (instrBits (.mmagResume rb ra ad stl))) s

/-! ## Draining and filling (R290 to R292) -/

/-- The local ranges of a tile's rows. -/
def tileRanges (k va pitch rows len : Nat) (write : Bool) : List LocalRange :=
  (spanOf id 0 rows).flatMap fun i => localRange k (va + i * pitch) len write

/-- The first 16-byte address of a tile's rows that a cell core cannot reach. -/
def State.tileFail (s : State) (k va pitch rows len : Nat) : Option Nat :=
  (spanOf id 0 rows).findSome? fun i =>
    (spanOf (fun c => (va + i * pitch + 16 * c) % vaSpace) 0 (len / 16)).find? fun a => (s.localPlace k a).isNone

/-- A tile's rows lie in local memory, and no earlier command of the cluster holds them (R290, R305). -/
def tileM (va pitch rows len : Nat) (write : Bool) : M Unit := do
  let s ← get
  match s.tileFail s.cur va pitch rows len with
  | some a => trap cAFAULT (BitVec.ofNat 64 a)
  | none => pure ()
  let x := s.cluster (clusterOf s.cur)
  if s.heldBy (clusterOf s.cur) x.arrivals (tileRanges s.cur va pitch rows len write) then throw .stall

/-- Bytes of a tile's row stored by the issuer in chunks of 16, their granules poisoned when `bad`. -/
def State.putTile (s : State) (k va : Nat) (bad : Bool) (bs : List Byte) : Nat → State
  | 0 => s
  | n + 1 =>
    let s := match s.localPlace k (va % vaSpace) with
      | none => s
      | some p =>
        let s := (s.hideBytes k .rc p (bs.take 16)).putBytes k .rc p .default (bs.take 16)
        if bad then (s.poisonAt p).poisonAt (p.add 8) else s
    State.putTile s k (va + 16) bad (bs.drop 16) n

/-- The bytes of row `i` of an accumulator as drained: each element, by its column's scale if there is one, rounded once in RNE
(R290). -/
def drainRow (x : Cell) (a tag dfmt : Nat) (scale : Nat → Option Num) (i : Nat) : List Byte :=
  (spanOf id 0 128).flatMap fun j =>
    let v := (matFmt tag).decode (tget 0 (tget [] x.accs a) (i * 128 + j)).toNat
    let v := match scale j with | some n => mulNum v n | none => v
    leBytes (matBits dfmt / 8) (ciEncode 0 (dfmt - 8) v).1

/-- Scale j of an SH8 panel, a BF16 value (R251). -/
def Cluster.scaleOf (x : Cluster) (c n j : Nat) : Num :=
  let p := ((x.cell c).panel n).1
  bf16.decode (leNat (x.store.read (panelOff c j (panelBase p + panelUnitsOf p - 1) 0) 2))

/-- A format and accumulator pair that MDRAIN accepts (R290). -/
def drainOk (tag dfmt : Nat) (scaled : Bool) : Bool :=
  if tag = 0x15 then (dfmt == 0x15 || dfmt == 0x14) && !scaled else dfmt == 0x14 || dfmt == 0x13 || dfmt == 0x11

/-- MDRAIN (R290, R291). -/
def execMdrain (grp : BitVec 1) (rb ra : BitVec 5) (ad stl : BitVec 2) (s : State) : Outcome State Fault Refusal :=
  issue 4 stl (do
    let bits := instrBits (.mdrain grp rb ra ad stl)
    kindM isIssuer bits
    readyM [ra, rb] [] [] []
    let f ← firingM bits
    let k ← curK
    let c ← getC
    let t := c.atag ad.toNat
    need (t == 0x14 || t == 0x15) cFMTCHK (accTval ad.toNat t)
    let (cl, ce) ← cellM
    need (grp == 0 || ((← get).cluster cl).claimed ce f.id) cILLOP bits
    let dst ← src ra
    let w ← src rb
    let dfmt := fieldNat w 0 8
    let side := if grp = 1 then 2 else 1
    let size := matBits dfmt / 8
    let pitch := fieldNat w 16 20
    need (fieldNat w 36 28 == 0 && !w.getLsbD 15 && [0x11, 0x13, 0x14, 0x15].contains dfmt && pitch % 16 == 0 &&
      decide (side * 128 * size ≤ pitch)) cILLOP w
    alignM dst 16
    need (drainOk t dfmt (w.getLsbD 8)) cFMTCHK (accTval ad.toNat t)
    matrixIdleM
    tileM (vaOf dst) pitch (side * 128) (side * 128 * size) true
    let x := (← get).cluster cl
    let sp := fieldNat w 9 6
    let parts := if grp = 1 then [0, 1, 2, 3] else [ce]
    if w.getLsbD 8 then
      if parts.any fun c => panelState ((x.cell c).panel sp).1 == 1 then throw .stall
      need (parts.all fun c => panelState ((x.cell c).panel sp).1 == 2 && panelFmt ((x.cell c).panel sp).1 == 0x12) cILLOP w
    let bad (c : Nat) : Bool := (x.cell c).accBad.contains ad.toNat
    let one (s : State) (c : Nat) : State :=
      let scale (j : Nat) : Option Num := if w.getLsbD 8 then some (x.scaleOf c sp j) else none
      let row0 := if grp = 1 then c / 2 * 128 else 0
      let col0 := if grp = 1 then c % 2 * 128 else 0
      (spanOf id 0 128).foldl (fun (s : State) (i : Nat) =>
        s.putTile k (vaOf dst + (row0 + i) * pitch + col0 * size) (bad c) (drainRow (x.cell c) ad.toNat t dfmt scale i) (8 * size)) s
    modify fun s => parts.foldl one s
    mtxM
    match parts.find? bad with
    | some c => modC fun x => { x with mchk := some (BitVec.ofNat 64 (3 + ad.toNat * 2 ^ 8 + c * 2 ^ 14)) }
    | none => pure ()) s

/-- Elements of a tile's rows, as numbers. -/
def fillTable (rows : List (List Byte)) (size : Nat) : Tbl Word :=
  let m := rows.zipIdx.foldl (fun (m : Memory) (e : List Byte × Nat) => m.setBytes (e.2 * 128 * size) e.1) Memory.empty
  accTable fun n => leNat (m.read (n * size) size)

/-- MFILL (R292). -/
def execMfill (rb ra : BitVec 5) (ad stl : BitVec 2) (s : State) : Outcome State Fault Refusal :=
  issue 4 stl (do
    let bits := instrBits (.mfill rb ra ad stl)
    kindM isIssuer bits
    readyM [ra, rb] [] [] []
    let _ ← firingM bits
    let k ← curK
    let (cl, ce) ← cellM
    let src_ ← src ra
    let w ← src rb
    let fmt := fieldNat w 0 8
    let size := matBits fmt / 8
    let pitch := fieldNat w 16 20
    need (fieldNat w 36 28 == 0 && fieldNat w 8 8 == 0 && (fmt == 0x14 || fmt == 0x15) && pitch % 16 == 0 &&
      decide (128 * size ≤ pitch)) cILLOP w
    alignM src_ 16
    wideM (fmt == 0x15) ad.toNat
    matrixIdleM
    tileM (vaOf src_) pitch 128 (128 * size) false
    match (← get).stageRows k (vaOf src_) pitch (128 * size) 0 128 with
    | .error (code, off) =>
      trap (if code = 4 then cPOISON else cAFAULT) (BitVec.ofNat 64 ((vaOf src_ + off) / size * size % vaSpace))
    | .ok rows =>
      modify fun s => s.modCell cl ce fun x =>
        { x with accs := tset x.accs ad.toNat (fillTable rows size), accBad := numDel x.accBad ad.toNat }
      modC fun c => c.setAtag ad.toNat fmt
      mtxM) s

/-! ## Staging, panels and semaphores -/

/-- ASTAGE (R280). -/
def execAstage (rb ra rd : BitVec 5) (stl : BitVec 2) (s : State) : Outcome State Fault Refusal :=
  issue 4 stl (do
    let bits := instrBits (.astage rb ra rd stl)
    kindM isStager bits
    readyM [ra, rb, rd] [] [] []
    let _ ← firingM bits
    let a ← src ra
    let w ← src rb
    let o ← src rd
    let kc := fieldNat w 24 8
    let t := fieldNat w 16 8
    let pitch := fieldNat w 32 20
    need (fieldNat w 52 12 == 0 && fieldNat w 9 7 == 0 && decide (1 ≤ kc ∧ kc ≤ 128) && [0x10, 0x11, 0x13, 0x14, 0x15].contains t &&
      pitch % 16 == 0 && decide (kc * 16 * matBits t ≤ pitch) && decide (fieldNat w 0 9 + kc * matBits t ≤ 512)) cILLOP w
    alignM o 32
    alignM a 16
    enqueueStaging 0 [a, w, o]) s

/-- The stager may name a cell: its own, or one that its firing has claimed (R278, R288). -/
def nameCellM (ce' : Nat) (tval : Word) (f : Firing) : M Unit := do
  let (cl, ce) ← cellM
  let x := (← get).cell cl ce'
  need (ce' == ce || x.claim == some f.id) cILLOP tval

/-- PLOAD (R281). -/
def execPload (rb ra rd : BitVec 5) (stl : BitVec 2) (s : State) : Outcome State Fault Refusal :=
  issue 4 stl (do
    let bits := instrBits (.pload rb ra rd stl)
    kindM isStager bits
    readyM [ra, rb, rd] [] [] []
    let f ← firingM bits
    let a ← src ra
    let w ← src rb
    let o ← src rd
    let kb := fieldNat w 16 12
    need (fieldNat w 36 28 == 0 && decide (1 ≤ kb ∧ kb ≤ 2048) && [0x10, 0x12, 0x13, 0x14, 0x15].contains (fieldNat w 28 8)) cILLOP w
    alignM o 32
    alignM a 16
    nameCellM (fieldNat w 6 2) (BitVec.ofNat 64 (fieldNat w 0 8)) f
    enqueueStaging 1 [a, w, o]) s

/-- PEVICT (R282). -/
def execPevict (ra : BitVec 5) (stl : BitVec 2) (s : State) : Outcome State Fault Refusal :=
  issue 4 stl (do
    let bits := instrBits (.pevict ra stl)
    kindM isStager bits
    readyM [ra] [] [] []
    let f ← firingM bits
    let w ← src ra
    need (fieldNat w 8 56 == 0) cILLOP w
    let ce := fieldNat w 6 2
    let n := fieldNat w 0 6
    nameCellM ce w f
    let (cl, _) ← cellM
    if ((← get).cluster cl).panelBusy ce n then throw .stall
    modify fun s => s.modCell cl ce fun x => x.setPanelState n 0
    mtxM) s

/-- PSTAT and PSTAT.src (R250, R282). -/
def execPstat (srcf : BitVec 1) (ra rd : BitVec 5) (stl : BitVec 2) (s : State) : Outcome State Fault Refusal :=
  issue 4 stl (do
    kindM (fun k => !isGeneral k) (instrBits (.pstat srcf ra rd stl))
    readyM [ra] [] [rd] []
    let w ← src ra
    need (fieldNat w 8 56 == 0) cILLOP w
    let (cl, _) ← cellM
    let e := ((← get).cell cl (fieldNat w 6 2)).panel (fieldNat w 0 6)
    put rd (if srcf = 1 then e.2 else e.1) 0
    mtxM) s

/-- The wait of a semaphore operation for its core's earlier commands (R283, R285): the matrix queue unless a product is parked, or
the staging queue. -/
def State.semWaits (s : State) (k : Nat) : Bool :=
  let x := s.cell (clusterOf k) (cellOf k)
  if isStager k then !x.staging.isEmpty else x.parked.isNone && !x.matrix.isEmpty

/-- HSPOST and HSWAIT (R285): `ready` says whether the count lets it go on, `f` changes it. -/
def semM (hs : BitVec 3) (ready : Nat → Bool) (f : Nat → Nat) (bits : Word) : M Unit := do
  let s0 ← get
  kindM (fun k => !isGeneral k) bits
  let (cl, ce) ← cellM
  let s ← get
  let n := tget 0 (s.cell cl ce).sems hs.toNat
  if s.semWaits s.cur || !ready n then waitHere s0 4
  orderM (uSEM ce hs.toNat)
  modify fun s => s.modCell cl ce fun x => { x with sems := tset x.sems hs.toNat (f n) }
  mtxM

/-- HSPOST (R285). -/
def execHspost (hs : BitVec 3) (stl : BitVec 2) (s : State) : Outcome State Fault Refusal :=
  issue 4 stl (semM hs (fun n => decide (n < 15)) (· + 1) (instrBits (.hspost hs stl))) s

/-- HSWAIT (R285). -/
def execHswait (hs : BitVec 3) (stl : BitVec 2) (s : State) : Outcome State Fault Refusal :=
  issue 4 stl (semM hs (fun n => decide (0 < n)) (· - 1) (instrBits (.hswait hs stl))) s

end Sys2Proof.Machine
end

