-- ==== Sys2Proof/Machine/Sieve.lean ====
section
/-! DEFINITION. Matching, sweeps and refills of the sieves, offers, and dispatch (spec/06_placement_and_matching.md R98 to R118;
spec/05 R94, R96; spec/07 R129, R130; spec/20 R397, R403). -/

namespace Sys2Proof.Machine
open Host

/-! ## Visible tiles and groups (R56, R102, R108) -/

/-- The kind of a tile is PSKIP as its region's table stands, and the tile has POISON (R22). A tile whose kind's entry cannot be read, or
has gone, is not one: it may match (DESIGN CHOICE, log entry 112). -/
def State.skipped (s : State) (g : Region) (t : Tile) : Bool :=
  descPoison t.d && match s.kindEntry g.space g.eff.kinds (descKind t.d) with
    | (_, .ok (some e)) => entPskip e
    | _ => false

/-- Tiles that matching may use, resident ones or with the overflow list, oldest first (R102, R110); `off` ignores the function's slice and
the cycle in which a tile came (R391). -/
def State.visible (s : State) (g : Region) (copy l : Nat) (over_ off : Bool) : List Tile :=
  if g.state ≠ .active ∨ g.held ∨ (!off && !s.onSlice g.space) then [] else
  sortBy (fun a b => decide (a.age < b.age)) ((s.tilesAt g.id copy l).filter fun t =>
    !t.held && !t.pending && (over_ || !t.overflow) && (off || decide (t.from_ ≤ s.clock)) && !s.skipped g t)

/-- The first candidate group of a rule in the order of R108, after the tiles already chosen. -/
def firstGroup (r : List Word) (ts chosen : List Tile) : Nat → Option (List Tile)
  | 0 => if [0, 1, 2, 3].all fun i => guardHolds (ruleGuard r i) (chosen.map (·.d)) then some chosen else none
  | n + 1 => (ts.filter fun t => descKind t.d == ruleKind r chosen.length && (!ruleDistinct r || !(chosen.any fun c => c.id == t.id))).findSome?
      fun t => firstGroup r ts (chosen ++ [t]) n

/-- Rules of a class in ascending index. -/
def Region.classRules (g : Region) (c : Nat) : List Nat :=
  (spanOf (fun i => i) 0 g.eff.rules.length).filter fun i => rulePrio (g.rule i) == c

/-- Key of a rule pointer (R107). -/
def ptrKey (copy l c : Nat) : Nat := (copy * 4096 + l) * 8 + c

/-- The first group of the rules of class `c` from the pointer on (R107): rule, tiles, and the pointer past it. -/
def Region.matchClass (g : Region) (copy l c : Nat) (ts : List Tile) : Option (Nat × List Tile × Nat) :=
  let rs := g.classRules c
  let m := rs.length
  let p := tget 0 g.ptrs (ptrKey copy l c)
  (spanOf (fun i => i) 0 m).findSome? fun i =>
    let j := (p + i) % m
    let r := rs.getD j 0
    (firstGroup (g.rule r) ts [] (ruleArity (g.rule r))).map fun grp => (r, grp, (j + 1) % m)

/-- The group that a match of a pair finds, highest class first. -/
def Region.matchAll (g : Region) (copy l : Nat) (ts : List Tile) : Option (Nat × List Tile × Nat) :=
  [7, 6, 5, 4, 3, 2, 1, 0].findSome? fun c => g.matchClass copy l c ts

/-! ## Limits and reservations (R109, R112, R117) -/

/-- The physical slice of an offer. -/
def State.offerSlice (s : State) (o : Offer) : Nat :=
  match s.region? o.region with | some g => s.sliceOf g o.copy o.lslice | none => 0

/-- The limits of a sieve's offers leave room for `n` more groups of a region (R112). A gang that is still forming is not offered yet. -/
def State.offerRoom (s : State) (g : Region) (sl n : Nat) : Bool :=
  let here := s.offers.filter fun o => !o.forming && s.offerSlice o == sl
  decide (groupCount here + n ≤ 32) && decide (groupCount (here.filter fun o => o.region == g.id) + n ≤ 8)

/-- The limits of a sieve's offers are full for a region (R112). -/
def State.offersFull (s : State) (g : Region) (sl : Nat) : Bool := !s.offerRoom g sl 1

/-- Firings of a copy that have been dispatched (R400: NDISP is that of copy 0). -/
def Region.dispatches (g : Region) (copy : Nat) : Nat := if copy = 1 then g.ndisp1 else g.cnt.ndisp

/-- BFIRE holds back a reservation (R112). -/
def State.fireFull (s : State) (g : Region) (copy : Nat) : Bool :=
  g.eff.bfire != 0 && decide (g.eff.bfire ≤ g.dispatches copy + groupCount (s.offers.filter fun o => o.region == g.id && o.copy == copy))

/-- The dispatches of a copy have reached BFIRE (R67). -/
def Region.fireSpent (g : Region) (copy : Nat) : Bool := g.eff.bfire != 0 && decide (g.eff.bfire ≤ g.dispatches copy)

/-- Groups that a gang of a rule is to hold (R117). -/
def Region.gangWant (g : Region) (r : Nat) : Nat :=
  if g.eff.bcore = 0 then ruleGwid (g.rule r) else min (ruleGwid (g.rule r)) g.eff.bcore

/-- Tiles reserved as the next group of a logical slice: the group (R109, R390). -/
def State.holdGroup (s : State) (g : Region) (copy l : Nat) (ts : List Tile) : State × Grp :=
  let ids := ts.map fun (t : Tile) => t.id
  let key := copy * 4096 + l
  let n := match s.region? g.id with | some x => tget 0 x.fseqs key | none => 0
  let hold (t : Tile) : Tile := if ids.contains t.id then { t with held := true } else t
  (State.modRegion { s with tiles := s.tiles.map hold, nextGroup := s.nextGroup + 1 } g.id fun x => { x with fseqs := tset x.fseqs key (n + 1) },
   { tiles := ids, fseq := n, at_ := s.clock, order := s.nextGroup })

/-- The rule pointer of a pair moved past a rule. -/
def State.movePtr (s : State) (r copy l c p : Nat) : State :=
  s.modRegion r fun x => { x with ptrs := tset x.ptrs (ptrKey copy l c) p }

/-- A group reserved: a gang begins to form, or the group is offered and the pointer moves past its rule (R107, R109, R117). -/
def State.reserve (s : State) (g : Region) (copy l : Nat) (m : Nat × List Tile × Nat) : State :=
  let r := g.rule m.1
  let q := s.holdGroup g copy l m.2.1
  let forming := ruleClass r == 3 && decide (1 < g.gangWant m.1)
  let o : Offer := { id := s.nextOffer, region := g.id, copy := copy, lslice := l, rule := m.1, groups := [q.2], forming := forming,
                     ended := false, cluster := none }
  let s := { q.1 with offers := q.1.offers ++ [o], nextOffer := s.nextOffer + 1 }
  if forming then s else s.movePtr g.id copy l (rulePrio r) m.2.2

/-- The gang that is forming for a pair. -/
def State.formingAt (s : State) (r copy l : Nat) : Option Offer :=
  s.offers.find? fun o => o.forming && o.region == r && o.copy == copy && o.lslice == l

/-- A gang is offered, and the pointer moves past its rule (R117). Among the offers of its slice it keeps the place of the reservation of its
first group, where R112 does not say which place a gang takes (DESIGN CHOICE, log entry 123). -/
def State.offerGang (s : State) (g : Region) (o : Offer) : State :=
  let c := rulePrio (g.rule o.rule)
  let rs := g.classRules c
  let j := (rs.zipIdx.find? fun e => e.1 == o.rule).map (·.2)
  let done (x : Offer) : Offer := if x.id = o.id then { x with forming := false } else x
  let s := { s with offers := s.offers.map done }
  s.movePtr g.id o.copy o.lslice c ((j.getD 0 + 1) % max 1 rs.length)

/-- The next group of a forming gang among some tiles (R117); none once it holds all that it may. One that BFIRE lets grow no further (R112)
is offered with the groups it has (DEDUCED, log entry 53). -/
def State.nextOfGang (s : State) (g : Region) (o : Offer) (ts : List Tile) : Option (List Tile) :=
  let r := g.rule o.rule
  if o.ended || g.gangWant o.rule ≤ o.groups.length || s.fireFull g o.copy then none else firstGroup r ts [] (ruleArity r)

/-- A gang for which a match finds no further group takes none from then on (R117). -/
def State.endGang (s : State) (o : Offer) : State :=
  let end_ (x : Offer) : Offer := if x.id = o.id then { x with ended := true } else x
  { s with offers := s.offers.map end_ }

/-- A forming gang takes another group among some tiles, or is offered (R117); none while the limits of R112 hold it back: a group is
reserved only where they are not full, and the gang is offered as one unit only where they leave room for all of it. One that has ended
waits for that room with the groups it has. -/
def State.growGang (s : State) (g : Region) (sl : Nat) (o : Offer) (ts : List Tile) : Option State :=
  match s.nextOfGang g o ts with
  | none =>
    if s.offerRoom g sl o.groups.length then some (s.offerGang g o)
    else if o.ended then none else some (s.endGang o)
  | some grp =>
    if s.offersFull g sl then none else
    let q := s.holdGroup g o.copy o.lslice grp
    let o := { o with groups := o.groups ++ [q.2] }
    let put (x : Offer) : Offer := if x.id = o.id then o else x
    let s := { q.1 with offers := q.1.offers.map put }
    some (if g.gangWant o.rule ≤ o.groups.length && s.offerRoom g sl o.groups.length then s.offerGang g o else s)

/-! ## Matching (R107, R403) -/

/-- A pair of region copy and logical slice as one number, in the order of R107. -/
def pairKey (r copy l : Nat) : Nat := r * 8192 + copy * 4096 + l

/-- The pairs that a sieve serves, ascending. -/
def State.pairsAt (s : State) (sl : Nat) : List Nat :=
  (s.tiles.filter fun t => s.tileSlice t == sl).foldl (fun ks t => numPut ks (pairKey t.region t.copy t.lslice)) []

/-- What a match of a pair does; none when the sieve has nothing to do for it. -/
def State.servePair (s : State) (sl key : Nat) : Option State :=
  let copy := key / 4096 % 2
  let l := key % 4096
  match s.region? (key / 8192) with
  | none => none
  | some g =>
    if (g.eff.stepped && (s.tilesAt g.id copy l).any (·.overflow)) || s.noticeWaits g.id then none else
    let ts := s.visible g copy l false false
    match s.formingAt g.id copy l with
    | some o => s.growGang g sl o ts
    | none =>
      match g.matchAll copy l ts with
      | none => none
      | some m =>
        if g.fireSpent copy then some (s.spendBudget g.id 1)
        else if s.offersFull g sl || s.fireFull g copy then none
        else some (s.reserve g copy l m)

/-- The keys in the order of a rotating pointer. -/
def rotated (ks : List Nat) (p : Nat) : List Nat := (ks.filter fun k => decide (p ≤ k)) ++ ks.filter fun k => decide (k < p)

/-- A pair of a region and a logical slice has an enabled group (R102, R107). -/
def State.pairEnabled (s : State) (key : Nat) : Bool :=
  match s.region? (key / 8192) with
  | none => false
  | some g =>
    let copy := key / 4096 % 2
    let l := key % 4096
    (g.matchAll copy l (s.visible g copy l false false)).isSome

/-- What the service of a pair makes of a state `u`. Where the pair has an enabled group, that is the match of this cycle, and the pointer
moves past the pair (R107, R430); a gang that only ends, or is offered, takes no match. -/
def State.served (s u : State) (sl key : Nat) : State :=
  if s.pairEnabled key then { u with matchPtr := tset u.matchPtr sl (key + 1), matchAt := tset u.matchAt sl (s.clock + 1) } else u

/-- SIEVE_MATCH (R107): at most one match starts in a control cycle (R110). -/
def execSieveMatch (slice : Nat) (s : State) : Outcome State Fault Refusal :=
  if s.clock < tget 0 s.matchAt slice then .next s else
  match (rotated (s.pairsAt slice) (tget 0 s.matchPtr slice)).findSome? fun k => (s.servePair slice k).map fun u => (u, k) with
  | none => .next s
  | some (u, k) => .next (s.served u slice k)

/-- The entries of a sieve that are free. -/
def State.freeEntries (s : State) (sl : Nat) : Nat :=
  sieveSize - (s.tiles.filter fun t => !t.overflow && s.tileSlice t == sl).length

/-- Tiles moved to or from their overflow list. -/
def State.setOverflow (s : State) (ids : List Nat) (b : Bool) : State :=
  let move (t : Tile) : Tile := if ids.contains t.id then { t with overflow := b } else t
  { s with tiles := s.tiles.map move }

/-- Room made for a group's overflow tiles (R105); none when the logical slice has too few tiles to move: then nothing happens, and the list
is not marked swept (DESIGN CHOICE, log entry 111: R105 states no such case). -/
def State.roomFor (s : State) (g : Region) (copy l : Nat) (grp : List Tile) : Option State :=
  let ids := grp.map fun (t : Tile) => t.id
  let up := (grp.filter (·.overflow)).foldl (fun ks t => numPut ks t.id) []
  let sl := s.sliceOf g copy l
  let n := up.length - s.freeEntries sl
  let down := (sortBy (fun a b => decide (b.age < a.age))
    ((s.tilesAt g.id copy l).filter fun t => !t.overflow && !t.held && !ids.contains t.id)).take n
  if down.length < n then none
  else some (((s.setOverflow (down.map fun (t : Tile) => t.id) true).setOverflow up false).modRegion g.id fun x => x.unsweep copy l)

/-- Some group of a logical slice is reserved: in a gang that is forming, offered, or in a firing (R105); `gang` leaves the first out. -/
def State.reservedAt (s : State) (r copy l : Nat) (gang : Bool) : Bool :=
  (s.offers.any fun o => !(gang && o.forming) && o.region == r && o.copy == copy && o.lslice == l) ||
  s.firings.any fun f => !f.retired && f.region == r && f.copy == copy && f.lslice == l

/-- A group that a sweep has found brought into its sieve and taken, where its region has not exhausted BMEM with the tiles that made room
(R67, R105). -/
def State.sweepWith (s : State) (g : Region) (copy l : Nat) (grp : List Tile) (take : State → Region → State) : State :=
  match s.roomFor g copy l grp with
  | none => s
  | some u =>
    let u := u.memBudget g.id
    match u.region? g.id with
    | some x => if x.state = .active then take u x else u
    | none => u

/-- OVERFLOW_SWEEP (R105, R403): `lslice` is the copy × 4096 + the logical slice. In a stepped region the sweep also finds the further
groups of a gang (DEDUCED: R403 matches there in no other way). A group that the sweep finds once the dispatches have reached BFIRE exhausts
it, although a group with overflow tiles is not enabled under R102 (DESIGN CHOICE, log entry 52). -/
def execOverflowSweep (region lslice : Nat) (s : State) : Outcome State Fault Refusal :=
  let copy := lslice / 4096 % 2
  let l := lslice % 4096
  match s.region? region with
  | none => .next s
  | some g =>
    let here := s.tilesAt region copy l
    let sl := s.sliceOf g copy l
    let busy := g.state != .active || g.held || !s.onSlice g.space || s.noticeWaits region || !here.any (·.overflow) ||
      g.swept.contains (copy * 4096 + l) || s.reservedAt region copy l g.eff.stepped ||
      (!g.eff.stepped && (g.matchAll copy l (s.visible g copy l false true)).isSome)
    if busy then .next s else
    let ts := s.visible g copy l true false
    match s.formingAt region copy l with
    | some o =>
      .next (match s.nextOfGang g o ts with
        | none => (s.growGang g sl o ts).getD s
        | some grp =>
          if s.offersFull g sl then s
          else s.sweepWith g copy l grp fun u x => (u.growGang x sl o (u.visible x copy l true false)).getD u)
    | none =>
      match g.matchAll copy l ts with
      | none =>
        if here.any fun t => decide (s.clock < t.from_) then .next s
        else .next (s.modRegion region fun x => { x with swept := numPut x.swept (copy * 4096 + l) })
      | some m =>
        if g.fireSpent copy then .next (s.spendBudget region 1)
        else if s.offersFull g sl || s.fireFull g copy then .next s
        else .next (s.sweepWith g copy l m.2.1 fun u x => u.reserve x copy l m)

/-- A free entry of a sieve is refilled with the oldest tile of the next overflow list (R104), after the removals and insertions of its
control cycle (R110). -/
def State.refill (s : State) (sl : Nat) : State :=
  let over_ := s.tiles.filter fun t => t.overflow && s.tileSlice t == sl
  let ks := over_.foldl (fun ks t => numPut ks (pairKey t.region t.copy t.lslice)) []
  if s.freeEntries sl = 0 then s else
  match (rotated ks (tget 0 s.refillPtr sl)).head? with
  | none => s
  | some k =>
    match (sortBy (fun a b => decide (a.age < b.age)) (over_.filter fun t => pairKey t.region t.copy t.lslice == k)).head? with
    | none => s
    | some t =>
      let seen (x : Tile) : Tile := if x.id = t.id then { x with overflow := false, from_ := s.clock + 1 } else x
      State.modRegion { s.noteInsert [3] with tiles := s.tiles.map seen, refillPtr := tset s.refillPtr sl (k + 1) } t.region fun x =>
        (x.markDirty sl).unsweep t.copy t.lslice

/-! ## Offers and clusters (R113, R114, R96) -/

/-- Distance of two numbers. -/
def numDist (a b : Nat) : Nat := max a b - min a b

/-- Viaduct hops between bays (R7). -/
def bayHops (a b : Nat) : Nat := numDist (a / 4) (b / 4) + numDist (a % 4) (b % 4)

/-- The key of R113 from a slice to a cluster. Its last part, the cluster number, is the module-wide one, bay × 32 + n: R113 does not say
whether it means that or the number within the bay (DESIGN CHOICE, log entry 122). -/
def clusterKey (sl cl : Nat) : List Nat :=
  let a := sl % 128 / 8
  let b := cl % 32 / 2
  [bayHops (sl / 128) (cl / 32), numDist (a % 4) (b % 4) + numDist (a / 4) (b / 4), cl]

/-- A cluster that AFF allows (R10). -/
def affAllows (aff cl : Nat) : Bool := match aff with | 0 => true | 1 => wideCluster cl | _ => !wideCluster cl

/-- The clusters that an offer may go to, nearest first (R113, R400). -/
def State.clustersFor (s : State) (g : Region) (o : Offer) : List Nat :=
  let sl := s.offerSlice o
  let all := spanOf id (s.bay0 * 32) (s.bays * 32)
  sortBy (fun a b => lexLt (clusterKey sl a) (clusterKey sl b)) (all.filter fun cl =>
    affAllows (ruleAff (g.rule o.rule)) cl && (!g.eff.paired || cl / 32 % 2 == o.copy))

/-- A cluster has a free unit for an offer, beyond those of offers that it has accepted. -/
def State.unitFree (s : State) (cl : Nat) (o : Offer) : Bool := decide (o.groups.length ≤ s.spare cl (s.offerMatrix o))

/-- Cores that an offer counts for (R114). -/
def State.offerCores (s : State) (o : Offer) : Nat := o.groups.length * if s.offerMatrix o then 2 else 1

/-- Cores of a region's copy that run (R114). -/
def State.runningCores (s : State) (r copy : Nat) : Nat :=
  let fs := s.firings.filter fun f => f.region == r && f.copy == copy && !f.retired && !f.kept
  (fs.map fun (f : Firing) => f.cores.length - f.committed.length).foldl (· + ·) 0

/-- A dispatch of an offer beside `n` cores about to run would pass BCORE (R114). -/
def State.corePassed (s : State) (g : Region) (o : Offer) (n : Nat) : Bool :=
  g.eff.bcore != 0 && decide (g.eff.bcore < s.runningCores g.id o.copy + n + s.offerCores o)

/-- BCORE holds an offer back, beside the offers of its region that clusters have accepted (R114). -/
def State.coreFull (s : State) (g : Region) (o : Offer) : Bool :=
  let os := s.offers.filter fun x => x.region == g.id && x.copy == o.copy && x.cluster.isSome
  s.corePassed g o ((os.map s.offerCores).foldl (· + ·) 0)

/-- A kept firing of the function on its slice waits to resume in a cluster (R384). -/
def State.keptIn (s : State) (cl : Nat) : Bool :=
  s.firings.any fun f => f.kept && f.cores.any (fun k => clusterOf k == cl) &&
    match s.region? f.region with | some g => s.onSlice g.space | none => false

/-- What the availability map shows of a cluster: the units of the kind to spare now, or before a change of the last 16 control cycles, one
of them by a free choice (R113). It shows no unit of a cluster in which a kept firing waits to resume, so that groups pass that cluster:
R384 holds back the dispatch alone, and says nothing of the map (DESIGN CHOICE, log entry 124). -/
def State.mapShows (s : State) (n cl : Nat) (o : Offer) : Bool :=
  let matrix := s.offerMatrix o
  let was := ((s.cluster cl).was.filter fun e => decide (s.clock < e.1 + 16)).map fun e => if matrix then e.2.2 else e.2.1
  let shown := s.spare cl matrix :: was
  let units := if was.isEmpty then s.spare cl matrix else shown.getD (Config.freeChoice n / 64 ^ cl % shown.length) 0
  decide (o.groups.length ≤ units) && !s.keptIn cl

/-- The cluster that an offer goes to (R113). -/
def State.targetOf (s : State) (n : Nat) (o : Offer) : Option Nat :=
  match s.region? o.region with
  | none => none
  | some g =>
    if o.forming || o.cluster.isSome || s.coreFull g o || !s.onSlice g.space || g.state != .active || g.held || s.noticeWaits g.id then none
    else (s.clustersFor g o).find? fun cl => s.mapShows n cl o

/-- Offers before one of the same slice that could go first (R112: reservation order). -/
def State.offerBehind (s : State) (n : Nat) (o : Offer) : Bool :=
  ((s.offers.takeWhile fun x => x.id != o.id).filter fun x => s.offerSlice x == s.offerSlice o).any fun x => (s.targetOf n x).isSome

/-- Function, process and priority of an offer's region. -/
def State.offerOf (s : State) (o : Offer) : Nat × Nat × Nat :=
  match s.region? o.region with | some g => (g.func, g.proc, g.eff.prio) | none => (0, 0, 0)

/-- The best of the offers of one process for a cluster: highest PRIO, then nearest slice, then earliest (R96). -/
def State.bestOffer (s : State) (cl : Nat) (os : List Offer) : Option Nat :=
  let key (o : Offer) : List Nat := (7 - (s.offerOf o).2.2) :: clusterKey (s.offerSlice o) cl
  ((sortBy (fun a b => lexLt (key a) (key b)) os).head?).map fun (o : Offer) => o.id

/-- A dispatch of a process charged (R94); none when it is not its turn among the processes with rivals for the cluster. A process whose
offered groups go elsewhere has something ready too. A gang is dispatched as one unit and costs 1, although NDISP counts each of its groups
(DESIGN CHOICE, log entry 114). -/
def State.chargeDispatch (s : State) (f p : Nat) (rivals : List Offer) : Option State :=
  let procs := (s.func f).procs
  let procs := if (tfind procs p).isSome then procs else procs ++ [(p, Proc.init)]
  let ready (n : Nat) : Bool := s.offers.any fun o => !o.forming && o.cluster.isNone && (s.offerOf o).1 == f && (s.offerOf o).2.1 == n
  let now (n : Nat) : Bool := rivals.any fun o => (s.offerOf o).2.1 == n
  match deficits (procs.map fun e => (e.1, e.2.dispatchDeficit, e.2.weight)) ready now p with
  | none => none
  | some t => some (s.modFunc f fun x => { x with procs := procs.map fun e => (e.1, { e.2 with dispatchDeficit := tget 0 t e.1 }) })

/-- GROUP_ARRIVAL (R96, R113): an offered group reaches the cluster that it goes to, which accepts it or returns it to the head of its
slice's offer. -/
def execGroupArrival (group cluster : Nat) (s : State) : Outcome State Fault Refusal :=
  match s.offers.find? fun o => o.id == group with
  | none => .next s
  | some o =>
    let n := s.fresh
    if s.targetOf n o ≠ some cluster ∨ s.offerBehind n o then .next s else
    let fp := s.offerOf o
    let rivals := s.offers.filter fun x => (s.targetOf n x) == some cluster && !s.offerBehind n x
    let mine := rivals.filter fun x => (s.offerOf x).2.1 == fp.2.1
    if s.bestOffer cluster mine ≠ some group then .next s else
    match s.chargeDispatch fp.1 fp.2.1 rivals with
    | none => .next s
    | some u =>
      let u := u.tick
      if s.unitFree cluster o && !s.keptIn cluster then
        let take (x : Offer) : Offer := if x.id = group then { x with cluster := some cluster } else x
        let u := u.noteUnit cluster
        .next { u with offers := u.offers.map take }
      else .next { s.tick with offers := o :: s.offers.filter (fun (x : Offer) => x.id != group) }

/-! ## Dispatch (R115, R129, R130) -/

/-- A core as dispatch sets it up (R129, R130): context block H, the firing block, the undo header with the firing's number in the dispatch
counter (R221, R224), and the initial state. -/
def Core.dispatched (c : Core) (run : CoreRun) (trap frmi : Word) (pc : BitVec 53) (slots : List (List Word)) (word stamp : Word) : Core :=
  let zero : Core := { Core.init with arr := c.arr, cr := { Ctl.reset with wp := 0x500, frm := frmi } }
  let m := (zero.saveBlock 0x200 (trap.setWidth 53) 0 0 0).arr
  let m := (spanOf id 1 31).foldl (fun (m : Memory) (n : Nat) => m.setWord (0x400 + 8 * n) 0) m
  let m := (spanOf id 0 4).foldl (fun (m : Memory) (i : Nat) =>
    (spanOf id 0 4).foldl (fun (m : Memory) (j : Nat) => m.setWord (0x600 + 32 * i + 8 * j) ((slots.getD i []).getD j 0)) m) m
  let m := ((m.setWord 0x680 word).setWord 0x1800 0).setWord 0x1808 stamp
  let new : Core := { Core.init with
    arr := m, spN := c.spN, pc := pc, cr := { Ctl.reset with frm := frmi }, vregs := c.vregs, masks := c.masks, l1 := c.l1, tlb := c.tlb,
    cycle := c.cycle, run := run }
  { new.openRegion pc 0 with passed := false }

/-- The scratchpad of a core at a dispatch of a function (R233). -/
def State.freshPad (s : State) (k f : Nat) : State :=
  let cl := clusterOf k
  let s := if tfind (s.cluster cl).lastFunc k = some f then s else s.setPad k 0
  s.modCluster cl fun x => { x with lastFunc := tset x.lastFunc k f }

/-- One core of a firing set up; the start is an acquire at the region's scope, after which the firing sees every store that the step before
has made, those to UO pages too (R115, R349). -/
def State.startCore (s : State) (k : Nat) (g : Region) (f : Nat) (pc : Nat) (slots : List (List Word)) (word stamp : Word) : State :=
  let s := s.freshPad k g.func
  let s := s.modCore k fun c => c.dispatched (.firing f) g.eff.trap g.eff.frmi (BitVec.ofNat 53 pc) slots word stamp
  s.acquireAt k s.regionScope true

/-- The firing word (R130). -/
def firingWord (rule l gsize member : Nat) : Word := BitVec.ofNat 64 (rule * 2 ^ 32 + l * 2 ^ 20 + gsize * 2 ^ 16 + member * 2 ^ 12)

/-- A group becomes a firing on its cores: stager and issuer of a cell, or one general core (R114, R115, R221). -/
def State.startGroup (s : State) (g : Region) (o : Offer) (grp : Grp) (member : Nat) (ks : List Nat) : State :=
  let r := g.rule o.rule
  let slots := grp.tiles.map fun t => match s.tiles.find? fun x => x.id == t with | some x => x.d | none => []
  let w := firingWord o.rule o.lslice o.groups.length member
  let f : Firing := { id := s.nextFiring, region := g.id, copy := o.copy, rule := o.rule, lslice := o.lslice, tiles := grp.tiles,
                      fseq := grp.fseq, at_ := grp.at_, order := grp.order, member := member, gsize := o.groups.length, gang := o.id,
                      stamp := s.stamp, cores := ks, committed := [], products := [], retired := false, notified := false, doomed := false, kept := false, cells := [] }
  let s := { s with firings := s.firings ++ [f], nextFiring := s.nextFiring + 1, stamp := s.stamp + 1 }
  let s := ks.zipIdx.foldl (fun (s : State) (e : Nat × Nat) =>
    s.startCore e.1 g f.id (if e.2 = 1 then ruleEntry2 r else ruleEntry r) slots w (BitVec.ofNat 64 f.stamp)) s
  let s := if o.copy = 1 then s.modRegion g.id fun x => { x with ndisp1 := x.ndisp1 + 1 } else s
  (s.count g.id o.copy fun c => { c with ndisp := c.ndisp + 1 }).modRegion g.id fun x => x.markDirty (s.sliceOf g o.copy o.lslice)

/-- A cell as the dispatch of a MATRIX firing sets it (R274). -/
def Cell.dispatched (c : Cell) : Cell :=
  { c with utags := [], accs := [], accBad := [], sems := [], staging := [], matrix := [], parked := none, reloading := none }

/-- DISPATCH (R114, R115, R129): an accepted offer receives its units, lowest-numbered first. -/
def execDispatch (group : Nat) (s : State) : Outcome State Fault Refusal :=
  match s.offers.find? fun o => o.id == group with
  | none => .next s
  | some o =>
    match o.cluster, s.region? o.region with
    | some cl, some g =>
      if s.keptIn cl || g.state != .active || g.held || s.noticeWaits g.id || s.corePassed g o 0 then .next s else
      let left (s : State) : State := { s with offers := s.offers.filter fun x => x.id != group }
      if s.offerMatrix o then
        match s.freeCells cl, o.groups with
        | ce :: _, grp :: _ =>
          .next (((left s).modCell cl ce Cell.dispatched).startGroup g o grp 0 [cl * 16 + 8 + ce, cl * 16 + 12 + ce])
        | _, _ => .next s
      else
        let ks := s.freeCores cl
        if ks.length < o.groups.length then .next s
        else .next (o.groups.zipIdx.foldl (fun (s : State) (e : Grp × Nat) => s.startGroup g o e.1 e.2 [ks.getD e.2 0]) (left s))
    | _, _ => .next s

/-- DISPATCH_LOST (R397): a dispatch lost before its firing block was written is offered again from its record. -/
def execDispatchLost (group : Nat) (s : State) : Outcome State Fault Refusal :=
  let again (x : Offer) : Offer := if x.id = group then { x with cluster := none } else x
  let s := match (s.offers.find? fun o => o.id == group).bind (·.cluster) with | some cl => s.noteUnit cl | none => s
  .next { s with offers := s.offers.map again }

end Sys2Proof.Machine
end

