-- ==== Sys2Proof/Machine/Sys.lean ====
section
/-! DEFINITION. The SYS major but RSPAWN, C.WAIT, and the traps that no instruction raises (spec/19_traps_and_preemption.md
R368 to R379; spec/08 R137, R154). -/

namespace Sys2Proof.Machine
open Host

/-- TRAP n (R374). -/
def execTrap (nHi nMid nLo : BitVec 5) (stl : BitVec 2) (s : State) : Outcome State Fault Refusal :=
  issue 4 stl (trap cSYS (BitVec.ofNat 64 (nHi.toNat * 1024 + nMid.toNat * 32 + nLo.toNat))) s

/-- ERET, ERET.fault and ERET.end outside the handler context trap ILLOP; none of them makes a region boundary (R375, R380). A block
holds no pending predicate write, so what returns to one waits for them. -/
def inHandlerM (bits : Word) : M Core := do
  let c ← getC
  need c.inHandler cILLOP bits
  if c.vpend.any Loc.isPred then
    let n ← freshM
    modC fun c => c.settleIf (Config.waitCycles n) Loc.isPred
  else modC fun c => c.settleIf 0 Loc.isPred
  getC

/-- ERET (R375). -/
def execEret (stl : BitVec 2) (s : State) : Outcome State Fault Refusal :=
  issue 4 stl (do
    let c ← inHandlerM (instrBits (.eret stl))
    need (blockOffOk c.eretBlock) cILLOP (BitVec.ofNat 64 c.eretBlock)
    match c.blockBad c.eretBlock with
    | some off => trap cILLOP (BitVec.ofNat 64 (c.eretBlock + off))
    | none =>
      let k ← curK
      modC fun c => c.eret k) s

/-- ERET.fault (R371): the region faults with reason 32 and the code in cr.cause; in a compatibility thread the thread ends
with end word 3 (R385). -/
def execEretFault (stl : BitVec 2) (s : State) : Outcome State Fault Refusal :=
  issue 4 stl (do
    let c ← inHandlerM (instrBits (.eretFault stl))
    let s ← get
    throw (.fin (s.escalate s.cur (c.cr.cause.toNat % 256)))) s

/-- ERET.end (R375): a compatibility thread ends with end word 1; in the handler of a firing it traps ILLOP. -/
def execEretEnd (stl : BitVec 2) (s : State) : Outcome State Fault Refusal :=
  issue 4 stl (do
    let c ← inHandlerM (instrBits (.eretEnd stl))
    need c.isThread cILLOP (instrBits (.eretEnd stl))
    let s ← get
    throw (.fin (s.endThread s.cur 1))) s

/-- cr.ids of a core (R126). -/
def idsWord (k : Nat) : Word :=
  BitVec.ofNat 64 ((if Config.stepB0 then 0xB0 else 0xA2) * 2 ^ 56 + 8 * 2 ^ 40 + clusterOf k % 256 * 2 ^ 16 +
    (if isGeneral k then 0 else if isStager k then 1 else 2) * 64 + idsUnit k)

/-- The control register of a number (R373). -/
def Core.crRead (c : Core) (k n : Nat) : Word :=
  match n with
  | 0 => c.cr.wp | 1 => c.cr.ctx | 2 => c.cr.epc | 3 => c.cr.cause | 4 => c.cr.tval | 5 => c.cr.fflags
  | 6 => c.cr.frm | 7 => c.cr.sbchk | 8 => c.cr.idemchk | 9 => c.cr.compat | _ => idsWord k

/-- A CRW of a value is allowed (R46, R47, R125, R369, R383). -/
def crwOk (c : Ctl) (n : Nat) (v : Word) : Bool :=
  match n with
  | 0 => wpOk v | 2 => epcOk v | 3 => causeOk v | 4 => true | 5 => fflagsOk v
  | 6 => frmOk v | 7 => bit0Ok v | 8 => bit0Ok v | 9 => compatOk c.compat v | _ => false

/-- Control registers with register `n` written. -/
def Ctl.write (c : Ctl) (n : Nat) (v : Word) : Ctl :=
  match n with
  | 0 => { c with wp := v } | 2 => { c with epc := v } | 3 => { c with cause := v } | 4 => { c with tval := v }
  | 5 => { c with fflags := v } | 6 => { c with frm := v } | 7 => { c with sbchk := v } | 8 => { c with idemchk := v }
  | 9 => { c with compat := v } | _ => c

/-- CRR (R376). -/
def execCrr (cr rd : BitVec 5) (stl : BitVec 2) (s : State) : Outcome State Fault Refusal :=
  issue 4 stl (do
    readyM [] [] [rd] []
    let c ← getC
    put rd (c.crRead (← curK) cr.toNat) 0) s

/-- CRW (R376). -/
def execCrw (cr ra : BitVec 5) (stl : BitVec 2) (s : State) : Outcome State Fault Refusal :=
  issue 4 stl (do
    readyM [ra] [] [] []
    let v ← src ra
    let c ← getC
    need (crwOk c.cr cr.toNat v) cILLOP v
    modC fun c => { c with cr := c.cr.write cr.toNat v }) s

/-- IDS (R376). -/
def execIds (rd : BitVec 5) (stl : BitVec 2) (s : State) : Outcome State Fault Refusal :=
  issue 4 stl (do
    readyM [] [] [rd] []
    put rd (idsWord (← curK)) 0) s

/-- The posted lines of a mask (R377): lines n with m[n] = 1 and COUNT above 0. -/
def Core.posted (c : Core) (m : Nat) : Nat :=
  (spanOf id 0 8).foldl (fun a n => if m / 2 ^ n % 2 = 1 ∧ 0 < (tget EvLine.zero c.evs n).count then a + 2 ^ n else a) 0

/-- The wait of R377. A wait closes the open region at the instruction's PC and lasts until a line is posted, a pre-emption
request arrives or its time is over. -/
def waitiM (len : Nat) (ra rd : BitVec 5) : M Unit := do
  let s0 ← get
  readyM [ra] [] [rd] []
  let m := (← src ra).toNat % 256
  let c ← getC
  if c.posted m = 0 && !c.preempt && !c.waitOver then
    waitHere (s0.modCore s0.cur fun c => { c with waitFrom := some (c.waitFrom.getD s0.clock) }) len
  let late := c.waitOver && c.posted m == 0 && !c.preempt
  putWait len rd (BitVec.ofNat 64 (c.posted m + if late then 256 else 0))

/-- WAITI (R377). -/
def execWaiti (ra rd : BitVec 5) (stl : BitVec 2) (s : State) : Outcome State Fault Refusal := issue 4 stl (waitiM 4 ra rd) s

/-- C.WAIT (R178, R377): WAITI w0, w0. -/
def execCWait (s : State) : Outcome State Fault Refusal := issue 2 0 (waitiM 2 0 0) s

/-- CTXSW (R128, R379). The context that it enters has a new open region, and what the device kept of an older one there is gone. -/
def execCtxsw (ra : BitVec 5) (stl : BitVec 2) (s : State) : Outcome State Fault Refusal :=
  issue 4 stl (do
    settleM
    readyM [ra] [] [] []
    let o ← src ra
    let c ← getC
    need (!c.inHandler && !c.undo && blockOffOk o.toNat) cILLOP o
    let c1 := c.saveBlock (c.cr.ctx.toNat % 0x8000) c.pc c.pc (BitVec.allOnes 32 &&& ~~~1) c.pcnt
    match c1.blockBad o.toNat with
    | some off => trap cILLOP (o + BitVec.ofNat 64 off)
    | none =>
      let k ← curK
      modC fun _ =>
        let h := c1.loadBlock k o.toNat
        { h.1 with cr := { h.1.cr with ctx := o }, pc := h.2, outers := tdel h.1.outers o.toNat }.boundary h.2) s

/-! ## Traps that no instruction raises -/

/-- DECODE_FAULT (R154): bits that are no instruction trap ILLOP at order 2. -/
def execDecodeFault (bits : BitVec 32) (s : State) : Outcome State Fault Refusal :=
  .next (s.takeTrap s.cur cILLOP (bits.setWidth 64))

/-- The address space of core `k` is not enabled (R243). -/
def State.spaceOff (s : State) (k : Nat) : Bool :=
  !((s.func (s.spaceOf k / 256)).proc (s.spaceOf k % 256)).root.getLsbD 0

/-- FETCH_FAULT (R137): the fetch of a halfword or literal took TFAULT, AFAULT or POISON at an address; no other cause is one of a fetch.
TFAULT takes the path of R386. -/
def execFetchFault (cause : BitVec 8) (addr : Word) (s : State) : Outcome State Fault Refusal :=
  let k := s.cur
  if cause.toNat = cTFAULT then .next (s.tfault k addr.toNat addr false (s.spaceOff k))
  else if cause.toNat = cAFAULT ∨ cause.toNat = cPOISON then .next (s.takeTrap k cause.toNat addr)
  else .next s

/-- The instruction waits for the .n atomics of its core to be performed (R325). -/
def waitsForAtomics : Instr → Bool
  | .fence .. | .tfence .. | .barv .. | .mbarv .. | .commit .. | .cCmt => true
  | .st _ _ _ _ rl .. => rl == 1
  | _ => false

/-- The deferred POISON of core `k` is due at the instruction at its PC: it comes before everything else that the core owes (R372). -/
def State.poisonDue (s : State) (k : Nat) : Bool :=
  (s.core k).poisonAt.isSome && match s.fetch k with | .instr _ i => waitsForAtomics i | _ => false

/-- A core takes what it owes (R372): it is neither in its handler context nor in an undo routine, and stands at an instruction boundary,
where neither an access awaits its reply (R386, R387) nor an issued COMMIT its end (R213). -/
def Core.mayOwe (c : Core) : Bool := !c.inHandler && !c.undo && !c.committing && c.waitRecord.isNone && !c.deliver

/-- BUDGET (R372): a core whose firing owes it takes the trap at an instruction boundary, outside the handler context and
undo routines, after a deferred POISON that is due there. A core that is stopped or saved has no boundary. -/
def execBudget (core : Nat) (s : State) : Outcome State Fault Refusal :=
  let c := s.core core
  match c.budget, c.run with
  | some w, .firing _ =>
    if !c.mayOwe || c.stopped || isSaved core || s.trapWaits core cBUDGET || s.poisonDue core then .next s
    else .next ((s.modCore core fun c => { c with budget := none }).takeTrap core cBUDGET (BitVec.ofNat 64 w))
  | _, _ => .next s

end Sys2Proof.Machine
end

