-- ==== Sys2Proof/Machine/Sched.lean ====
section
/-! DEFINITION. Products on their way, the stability test, step boundaries, completion, time slices, pre-emption and resumption
(spec/20_retirement.md R388 to R401, R453; spec/19_traps_and_preemption.md R377, R382 to R385; spec/05_launch.md R92, R93;
spec/04 R67 to R72; spec/12 R237, R252; spec/14 R298; spec/15 R317, R318; spec/02 R32). -/

namespace Sys2Proof.Machine
open Host

/-! ## Products (R388 to R390) -/

/-- One product inserted at its home slice, pending in a stepped region (R390). -/
def State.insertProduct (s : State) (f : Firing) (p : Product) : State :=
  match s.region? f.region with
  | none => s
  | some g => s.insertTile f.region p.lslice [f.copy] p.d g.eff.stepped (1, f.lslice, f.fseq, p.index)

/-- The place of a firing's products in the order of R389: the slice of its group, then the reservations there. -/
def State.productTurn (s : State) (g : Region) (f : Firing) : List Nat := [1, s.sliceOf g f.copy f.lslice, f.order]

/-- PRODUCT_INSERT (R388, R389): the products of a COMMIT that go to the slice of product `index`, in emit order; its earlier products
for that slice have been inserted. A match sees them 16 cycles after that of their group at the earliest (R430). BMEM is judged at each
insertion, BTILE after the last (R67). -/
def execProductInsert (firing index : Nat) (s : State) : Outcome State Fault Refusal :=
  match s.firing? firing with
  | none => .next s
  | some f =>
    match f.products.find? (fun p => p.index == index && !p.inserted), s.region? f.region with
    | some p, some g =>
      let there (q : Product) : Bool := !q.inserted && s.sliceOf g f.copy q.lslice == s.sliceOf g f.copy p.lslice
      let mine := f.products.filter there
      let key := s.productTurn g f
      if mine.any (fun q => decide (q.index < index)) || decide (s.clock + 1 < f.at_ + 16) || !s.insertTurn key then .next s else
      let s := mine.foldl (fun s q => (s.insertProduct f q).memBudget f.region) (s.noteInsert key)
      let mark (q : Product) : Product := if mine.any (fun x => x.index == q.index) then { q with inserted := true } else q
      let s := s.modFiring f.id fun x => { x with products := x.products.map mark }
      .next (if f.products.all (fun q => q.inserted || mine.any (fun x => x.index == q.index)) then s.tileBudgets f.region else s)
    | _, _ => .next s

/-- PRODUCT_ACK (R388): the acknowledgement of a product reaches the slice of its group. -/
def execProductAck (firing index : Nat) (s : State) : Outcome State Fault Refusal :=
  let s := s.modFiring firing fun x => { x with products := x.products.filter (fun p => !(p.index == index && p.inserted)) }
  .next (s.retire firing)

/-! ## The stability test (R391 to R393) -/

/-- A child of a region is ACTIVE or DRAINING (R69). -/
def State.hasChild (s : State) (r : Nat) : Bool := s.regions.any fun c => c.parent == some r

/-- A slice is idle for a region (R391). -/
def State.sliceIdle (s : State) (g : Region) (sl : Nat) : Bool :=
  let ks := (s.pairsAt sl).filter fun k => k / 8192 == g.id
  let enabled (k : Nat) : Bool :=
    let copy := k / 4096 % 2
    let l := k % 4096
    (g.matchAll copy l (s.visible g copy l false true)).isSome
  let unswept (k : Nat) : Bool :=
    (s.tilesAt g.id (k / 4096 % 2) (k % 4096)).any (·.overflow) && !g.swept.contains (k % 8192)
  !g.held && !(ks.any enabled) && !(s.offers.any fun o => o.region == g.id && s.offerSlice o == sl) && !(ks.any unswept) &&
    !(s.firings.any fun f => f.region == g.id && s.sliceOf g f.copy f.lslice == sl) && !s.hasChild g.id

/-- Home slices of the partition. -/
def State.sliceCount (s : State) : Nat := s.bays * 128

/-- STABILITY_WAVE (R393): a slice samples its idle and dirty bits for every ACTIVE region; the first sample of a wave comes at the
earliest when its 4,096 cycles have begun. -/
def execStabilityWave (slice : Nat) (s : State) : Outcome State Fault Refusal :=
  let inside := decide (s.bay0 * 128 ≤ slice ∧ slice < s.bay0 * 128 + s.sliceCount)
  if !inside || s.waveDone.contains slice || (s.waveDone.isEmpty && decide (s.clock < s.waveAt + 4096)) then .next s else
  let sample (g : Region) : Region :=
    if g.state ≠ .active then g else
    let w := g.wave.getD ([], true, false)
    { g with wave := some (slice :: w.1, w.2.1 && s.sliceIdle g slice, w.2.2 || g.dirty.contains slice),
             dirty := g.dirty.filter (· != slice) }
  .next { s with regions := s.regions.map sample, waveDone := slice :: s.waveDone,
                 waveAt := if s.waveDone.isEmpty then s.clock / 4096 * 4096 else s.waveAt }

/-! ## The end of a step (R390, R394, R398) -/

/-- Keys of pending tiles in the order of R390. -/
def keyLt (a b : Nat × Nat × Nat × Nat) : Bool := lexLt [a.1, a.2.1, a.2.2.1, a.2.2.2] [b.1, b.2.1, b.2.2.1, b.2.2.2]

/-- A pending tile stamped with the next age of its logical slice. -/
def State.stampTile (s : State) (t : Tile) : State :=
  let a := s.nextAge t.region t.copy t.lslice
  let stamp (x : Tile) : Tile := if x.id = t.id then { x with d := descStamp x.d false a.2, from_ := s.clock + 1 } else x
  { a.1 with tiles := a.1.tiles.map stamp }

/-- Every line of a region's SHD pages, and of the frames that stand for them, as the home slices have it: replicas written back, owned
lines returned. -/
def State.settleShd (s : State) (g : Region) : State :=
  let mine (ls : List Line) : List Nat := (lineNums ls).filter fun n => g.isShd (n / 64) || g.frames.any (·.home == n / 64)
  let s := s.cores.foldl (fun (s : State) (e : Nat × Core) => (mine e.2.l1).foldl (fun s n => s.writeBackL1 e.1 n false) s) s
  let s := s.clusters.foldl (fun (s : State) (e : Nat × Cluster) => (mine e.2.cache).foldl (fun s n => s.writeBackCluster e.1 n false) s) s
  s.clusters.foldl (fun (s : State) (e : Nat × Cluster) =>
    (mine (e.2.owned.map fun (o : OwnedLine) => o.line)).foldl (fun s n => s.returnOwned e.1 n) s) s

/-- The snapshot of a boundary (R398), which replaces the one before; the open frames end, and a paired copy's frames are kept as they
stand. The home slices have the SHD pages as the boundary leaves them, so that a frame taken later holds those bytes (DESIGN CHOICE, log
entry 54). None when the snapshot area has no room. -/
def State.takeSnapshot (s : State) (r : Nat) : Option State :=
  match s.region? r with
  | none => some s
  | some g =>
    let ts := s.tiles.filter fun t => t.region == r
    let others := s.regions.map fun (x : Region) => if x.id = r then 0 else match x.snap with | some sn => sn.tiles.length | none => 0
    if Config.snapshotBytes < 32 * (ts.length + others.foldl (· + ·) 0) then none else
    let ps := s.shdPages g.space
    let s := s.settleShd { g with shd := ps }
    let keep (f : Frame) : Frame := { f with mem := s.pageBytes f.home, old := true }
    some (s.modRegion r fun x =>
      { x with snap := some { tiles := ts, ages := x.ages, ptrs := x.ptrs, counters := x.cnt }, repeats := 0, shd := ps,
               frames := if g.eff.paired then x.frames.map keep else [] })

/-- The step of a region ends (R394): pending tiles are stamped and become visible, the step number and NSTEP grow, every dirty bit is
set, and with ROLLBACK the snapshot holds what then stands. -/
def State.endStep (s : State) (r : Nat) : State :=
  match s.region? r with
  | none => s
  | some g =>
    let pend := sortBy (fun a b => keyLt a.key b.key) (s.tiles.filter fun t => t.region == r && t.pending)
    let u := pend.foldl State.stampTile s
    let u := u.modRegion r fun x =>
      { x with step := x.step + 1, cnt := { x.cnt with nstep := x.cnt.nstep + 1 }, fseqs := [], swept := [],
               dirty := spanOf (fun i => i) (s.bay0 * 128) s.sliceCount }
    if !g.eff.rollback then u.putStatus r else
    match u.takeSnapshot r with
    | none => s.faultRegion r (detailWord 40 0 0 0)
    | some u => u.putStatus r

/-- What the report of a wave means for a region (R393, R394). A region that waits for the notice ring (R443), or whose child has come since
the last sample (R69), does not pass. -/
def State.judge (s : State) (r : Nat) : State :=
  match s.region? r with
  | none => s
  | some g =>
    let w := g.wave.getD ([], false, true)
    let idle := decide (w.1.length = s.sliceCount) && w.2.1
    let pass := idle && !w.2.2 && g.lastIdle == some true && g.state == .active && !s.hasChild r && !s.noticeWaits r
    let s := s.modRegion r fun x => { x with wave := none, lastIdle := some idle }
    if !pass then s
    else if g.eff.stepped && s.tiles.any (fun t => t.region == r && t.pending) then s.endStep r
    else s.drain r

/-- WAVE_REPORT (R393, R394): the samples of every slice have reached the scheduler. -/
def execWaveReport (s : State) : Outcome State Fault Refusal :=
  if s.waveDone.length < s.sliceCount then .next s
  else .next ((s.regions.map fun (g : Region) => g.id).foldl State.judge { s with waveDone := [] })

/-- BTIME_EXPIRY (R67, R68): TRUN has passed BTIME. A wave that is under way decides first whether the region is stable. -/
def execBtimeExpiry (region : Nat) (s : State) : Outcome State Fault Refusal :=
  match s.region? region with
  | none => .next s
  | some g =>
    let ends := g.state == .active || !g.spent.isEmpty || g.faulted
    if g.eff.btime ≠ 0 ∧ g.eff.btime < g.cnt.trun ∧ ends ∧ g.cstat = 0 ∧ s.waveDone.isEmpty then .next (s.spendBudget region 4)
    else .next s

/-! ## Signatures of paired regions (R401) -/

/-- One byte of the reflected CRC-64 of ECMA-182. -/
def crcByte (c : BitVec 64) (b : Byte) : BitVec 64 :=
  iter 8 (fun c => if c.getLsbD 0 then (c >>> 1) ^^^ 0xC96C5795D7870F42 else c >>> 1) (c ^^^ b.setWidth 64)

/-- CRC-64 of bytes: initial value and final XOR all ones. -/
def crc64 (bs : List Byte) : BitVec 64 := ~~~(bs.foldl crcByte (BitVec.allOnes 64))

/-- Words of a descriptor with age 0. -/
def ageless (d : List Word) : List Nat := [(d.getD 0 0).toNat, (d.getD 1 0).toNat, (d.getD 2 0).toNat, (setField (d.getD 3 0) 32 32 0).toNat]

/-- Frames that a copy wrote, by ascending VA. -/
def Region.written (g : Region) (copy : Nat) : List Frame :=
  sortBy (fun a b => decide (a.vpn < b.vpn)) (g.frames.filter fun f => f.copy == copy && f.wrote)

/-- The signature of a copy. -/
def State.signature (s : State) (g : Region) (copy : Nat) : BitVec 64 :=
  let ts := sortBy (fun a b => lexLt (a.lslice :: ageless a.d) (b.lslice :: ageless b.d))
    (s.tiles.filter fun t => t.region == g.id && t.copy == copy)
  crc64 ((ts.flatMap fun (t : Tile) => (ageless t.d).flatMap (leBytes 8)) ++
    (g.written copy).flatMap fun (f : Frame) => (s.pageBytes f.home).read 0 0x2000)

/-- The frames of a paired region end: with `ok` those of copy 0 are written into their pages (R401). -/
def State.closePair (s : State) (g : Region) (ok : Bool) : State :=
  let put (s : State) (f : Frame) : State := s.restoreFrame { f with mem := s.pageBytes f.home, base := 0 }
  let s := if ok then (g.written 0).foldl put s else s
  let gone (s : State) (f : Frame) : State := s.restoreFrame { f with mem := .empty }
  (g.frames.foldl gone s).modRegion g.id fun x => { x with frames := [] }

/-! ## Completion (R395, R70 to R72, R445, R446) -/

/-- The lowest budget code exhausted, 0 for none. -/
def Region.lowest (g : Region) : Nat := if g.spent.isEmpty then 0 else g.spent.foldl min 4

/-- CSTAT of a region that completes (R395). -/
def Region.outcome (g : Region) : Nat := if g.killed then 4 else if g.faulted then 3 else if g.spent.isEmpty then 1 else 2

/-- BWHICH beside a CSTAT (R395). -/
def Region.which (g : Region) (cstat : Nat) : Nat := if cstat = 2 ∨ cstat = 3 then g.lowest else 0

/-- A region is over: STATE = DONE is written last. -/
def State.finishRegion (s : State) (r : Nat) : State :=
  match s.region? r with
  | none => s
  | some g =>
    let s := { s with regions := s.regions.filter (fun x => x.id != r),
                      lineage := match g.parent with | some p => tset s.lineage r p | none => s.lineage }
    s.finalStatus g.func g.proc g.rcb (g.statusWord (g.which g.cstat) g.cstat 3) g.cstat g.detail

/-- STATE = DONE is written, or waits with the region while its notices wait for room in their ring (R443). -/
def State.closeRegion (s : State) (r : Nat) : State :=
  if s.noticeWaits r then s.modRegion r fun x => { x with doneDue := true } else s.finishRegion r

/-- STATUS of a region that has ended but is not DONE yet, with what R63 gives its bits (R70, R71). -/
def State.endStatus (s : State) (g : Region) : State :=
  s.devStore8 g.func g.proc (g.rcb + 0x80) (g.statusWord (g.which g.cstat) g.cstat 2) (some g.id)

/-- Descendants of a region that share its FDOM (R72). -/
def State.faultKin (s : State) (r fdom : Nat) : List Nat :=
  ((s.descendants r).filter fun d => d.eff.fdom == fdom).map fun (d : Region) => d.id

/-- A region that completes with FAULT kills its descendants of the same FDOM, or with host-assisted escalation has them held until
NREL (R72, R445). -/
def State.escalateFault (s : State) (g : Region) : State :=
  let ds := s.faultKin g.id g.eff.fdom
  if s.duty.getLsbD 3 then
    let s := ds.foldl (fun (s : State) (d : Nat) => (s.modRegion d fun x => { x with held := true, escalated := true }).withdrawRegion d) s
    State.postNotice { s with escalations := s.escalations ++ [(g.id, g.space, g.rcb, g.eff.fdom)] } g.func (noticeOf g.rcb 2 3 g.detail) (some g.id)
  else ds.foldl State.killRegion s

/-- A tile of a PSKIP kind with POISON. -/
def State.poisonSkipped (s : State) (g : Region) (t : Tile) : Bool := s.skipped g t

/-- A DRAINING region with no firing in flight writes its counters, DETAIL and STATUS; its completion tile is then on its way, or STATE =
DONE is written (R395). The frames of a paired region are compared as the home slices have them once every replica is written back (R401).
A region that waited for the notice ring writes STATE = DONE alone (R443). -/
def State.completeRegion (s : State) (region : Nat) : State :=
  match s.region? region with
  | none => s
  | some g =>
    if s.noticeWaits region then s
    else if g.doneDue then s.finishRegion region
    else if g.state ≠ .draining ∨ g.cstat ≠ 0 ∨ s.firings.any (fun f => f.region == region) ∨ (g.outcome = 1 ∧ s.hasChild region) then s else
    let s := if g.eff.paired then s.settleShd g else s
    let differ := g.eff.paired && g.outcome == 1 && s.signature g 0 != s.signature g 1
    let s := if g.eff.paired then s.closePair g (g.outcome == 1 && !differ) else s
    let s := if differ then s.faultRegion region (detailWord 35 0 0 0) else s
    let live := s.present region
    let cst := if differ then 3 else g.outcome
    let s := s.modRegion region fun x =>
      { x with cstat := cst, orphan := x.orphan || x.killed,
               tileDue := x.parent.isSome && fieldNat x.cdesc 0 16 != 0 && !x.killed,
               cnt := { x.cnt with nlive := live.length, npois := (live.filter (s.poisonSkipped g)).length } }
    match s.region? region with
    | none => s
    | some g =>
      let s := (s.putCounters g.func g.proc g.rcb g.detail g.cnt (some region)).endStatus g
      let s := { s with tiles := s.tiles.filter fun t => t.region != region }
      let s := if cst = 3 then s.escalateFault g else s
      if g.tileDue then s else s.closeRegion region

/-- REGION_COMPLETE (R395); it waits while a notice that no region waits with finds no room (R443). -/
def execRegionComplete (region : Nat) (s : State) : Outcome State Fault Refusal := .next (s.orWait (s.completeRegion region))

/-- COMPLETION_TILE (R70, R71): the tile, of a region that has not been killed since (R72, R399), reaches the parent's home slice, at its turn
in the control cycle (R389), or is dropped, and ORPHAN is written into STATUS; then STATE = DONE is written. -/
def execCompletionTile (region : Nat) (s : State) : Outcome State Fault Refusal :=
  match s.region? region with
  | none => .next s
  | some g =>
    if !g.tileDue || s.noticeWaits region then .next s else
    let d := if g.killed then (s, false) else s.deliverTile g.parent g.cdesc g.cstat (g.which g.cstat) g.rcb
    let g := { g with tileDue := false, orphan := g.orphan || !d.2 }
    let u := d.1.modRegion region fun x => { x with tileDue := false, orphan := g.orphan }
    .next (s.orWait ((if d.2 then u else u.endStatus g).closeRegion region))

/-! ## Stopping a core (R382, R385, R298) -/

/-- The core waits for the reply to a fault record that is still outstanding (R386). -/
def State.recordWaits (s : State) (k : Nat) : Bool :=
  match (s.core k).waitRecord with
  | none => false
  | some id => (s.func (s.spaceOf k / 256)).records.any (fun r => r.id == id)

/-- A core may be stopped as its open region stands: the region may be discarded, or is empty (R381). -/
def State.atBoundary (s : State) (k : Nat) : Bool :=
  let c := s.core k
  s.mayDiscard k || (c.empty && !c.noDiscard && !s.recordWaits k)

/-- A core stopped (R382): its open region is discarded where that is allowed, its context is written to its block, and its stores
follow it to the core on which it resumes (R353). -/
def State.stopCore (s : State) (k : Nat) : State :=
  let d := s.mayDiscard k
  let s := (s.unopen k).modCore k fun c =>
    let c := { (if d then c.discardRegion else { c with pend := [], vpend := [], ipc := c.pcnt }) with
      waitFrom := none, waitOver := false, qwait := none, ahead := [] }
    c.saveBlock (c.cr.ctx.toNat % 0x8000) c.pc c.ient c.imask c.ipc
  s.acquireAt k 1 true

/-- Every panel entry ABSENT (R252). -/
def Cell.absent (c : Cell) : Cell := c.panels.foldl (fun c e => c.setPanelState e.1 0) c

/-- The cells whose state is saved with a MATRIX firing: all four under a claim, otherwise its own (R298). -/
def State.firingCells (s : State) (f : Firing) : List Nat :=
  let k := f.cores.headD 0
  if (s.cluster (clusterOf k)).cells.any (fun e => e.2.claim == some f.id) then [0, 1, 2, 3] else [cellOf k]

/-- A firing kept with its cores, and with its cells (R298, R382). -/
def State.saveFiring (s : State) (f : Firing) : State :=
  let cl := clusterOf (f.cores.headD 0)
  let ces := if s.classOf f = 1 then s.firingCells f else []
  let s := s.keepFiring f
  let s := s.modFiring f.id fun x => { x with cells := ces.map fun ce => (ce, (s.cell cl ce).absent) }
  ces.foldl (fun (s : State) (ce : Nat) =>
    s.modCell cl ce fun c => { c with staging := [], matrix := [], parked := none, reloading := none, claim := none }) s

/-- A stopped firing is released, or kept when it has passed a boundary other than IDEM (R382 item 4). A
MATRIX firing that has performed an MTX instruction is kept too, since none is performed twice (R298; DEDUCED, log entry 132). -/
def State.endStop (s : State) (f : Firing) : State :=
  let s := s.count f.region f.copy fun c => { c with npre := c.npre + 1 }
  if f.cores.any (fun k => (s.core k).passed || (s.core k).mtx) then s.saveFiring f else s.dropFiring f

/-- The queues of a MATRIX firing's cells let it be saved (R298). -/
def State.cellsQuiet (s : State) (f : Firing) : Bool :=
  (s.firingCells f).all fun ce =>
    let c := s.cell (clusterOf (f.cores.headD 0)) ce
    c.staging.isEmpty && c.reloading.isNone && (c.matrix.isEmpty || c.parked.isSome)

/-- A MATRIX firing whose cores have all stopped, or wait after COMMIT, is saved once its cells are quiet. -/
def State.endMatrixStop (s : State) (f : Firing) : State :=
  if f.cores.all (fun k => (s.core k).stopped || f.committed.contains k) && s.cellsQuiet f then s.endStop f else s

/-- The key under which a stopped thread of core `k` is saved. -/
def threadKey (n k : Nat) : Nat := (n * 16 + 15) * 0x10000 + k % 0x10000

/-- A compatibility thread stopped: the save area is written (R385). -/
def State.stopThread (s : State) (k : Nat) : State :=
  let s := (s.unopen k).modCore k fun c =>
    let c := { c with arr := c.arr.zero 0x800 0x800, pend := [], vpend := [] }
    let c := c.saveBlock 0x800 c.pc 0 0 0
    { c with arr := c.arr.setWord 0xA00 (if c.inHandler then 3 else 1) }
  let n := s.fresh
  ((s.acquireAt k 1 true).tick).parkCore k (threadKey n k)

/-- A QSEND packet is open, and its first word has been delivered (R270, R271). -/
def Core.sending (c : Core) : Bool := match c.packet with | some (_, n) => decide (0 < n) | none => false

/-- Something holds a core's stop back: a TFAULT that is owed, an open packet, its handler, an undo routine or an open section, or a
region that may not be discarded and is not empty (R381, R382). Such a core runs on, and where the boundary that it comes to is its COMMIT's
it commits after the slice's end (DEDUCED, log entry 118: R382 against R93). -/
def State.stopHeld (s : State) (k : Nat) : Bool :=
  let c := s.core k
  c.deliver || c.sending || match s.firingOf k with
    | none => s.recordWaits k
    | some f => c.inHandler || c.undo || (s.classOf f == 2 && c.opened) || (c.noDiscard && !c.empty) ||
      (if s.classOf f = 2 ∧ 0 < c.ucnt then s.recordWaits k else !s.atBoundary k)

/-- A core that is asked to stop and that nothing holds runs no further instruction (R93, R382, R385). -/
def State.mustStop (s : State) (k : Nat) : Bool := (s.core k).preempt && !s.stopHeld k

/-- What core `k` does next is to fetch and run an instruction: it runs, it owes nothing at the boundary, and it is not to stop there. -/
def State.runsOn (s : State) (k : Nat) : Bool :=
  let c := s.core k
  let working := match c.run with | .firing _ => true | .thread _ _ _ _ => true | _ => false
  let ends := match s.firingOf k with
    | some f => (!c.undo && !c.committing && f.doomed) || (c.mayAbort && f.notified)
    | none => false
  working && !isSaved k && !c.stopped && !s.recordWaits k && !c.deliver && !(c.undo && c.pc == undoReturn) && !ends && c.mchk.isNone &&
    !s.mustStop k && !(c.mayOwe && !s.poisonDue k && (c.budget.isSome || c.resumeNote))

/-- PREEMPT_STOP (R382, R385, R298): a core with a pre-emption request stops if it can. -/
def execPreemptStop (core : Nat) (s : State) : Outcome State Fault Refusal :=
  let c := s.core core
  if !c.preempt || isSaved core then .next s else
  match c.run with
  | .thread _ _ _ _ =>
    if s.stopHeld core || s.sfuBusy core then .next s
    else .next (s.stopThread core)
  | .firing _ =>
    match s.firingOf core with
    | none => .next s
    | some f =>
      if c.stopped then .next (s.endMatrixStop f)
      else if s.stopHeld core then .next s
      else if s.classOf f = 2 ∧ 0 < c.ucnt then
        .next (((s.modCore core fun c => { c with preempt := false }).count f.region f.copy fun n => { n with npre := n.npre + 1 }).abortFiring core f)
      else if s.sfuBusy core then .next s
      else if s.classOf f = 1 then .next (((s.stopCore core).modCore core fun c => { c with stopped := true }).endMatrixStop f)
      else .next ((s.stopCore core).endStop f)
  | _ => .next s

/-! ## Resuming (R384, R120, R193, R298) -/

/-- The lane claim of a saved core made again on core `k`: the grant and its first lane; none when it would be below 8 (R193), or comes behind
the claim of a core of a later place in its arithmetic cycle (R201). -/
def State.reclaim (s : State) (j k : Nat) : Option (State × Nat × Nat) :=
  let c := s.core j
  if c.grant = 0 then some (s, 0, 0) else
  let g := s.claimLanes k (Nat.log2 (c.req / 4))
  if g.1 < 8 || !s.inTurnOf k uLANES then none else some (s.serveOf k uLANES, g)

/-- A saved core put onto core `k`, with its context as it was saved: caches, translations and time are those of `k` (R384). -/
def State.placeCore (s : State) (j k fn : Nat) (g : Nat × Nat) : State :=
  let c := s.core j
  let s := (s.noteUnit (clusterOf k)).setPad k c.spN
  let p := s.core k
  let cut (e : Nat × List Word) : Nat × List Word := (e.1, e.2.take g.1)
  let low (e : Nat × BitVec 4096) : Nat × BitVec 4096 := (e.1, BitVec.ofNat 4096 (e.2.toNat % 2 ^ (16 * g.1)))
  let new : Core := { c with l1 := p.l1, tlb := p.tlb, cycle := p.cycle, grant := g.1, lane := g.2, vregs := c.vregs.map cut,
                             masks := c.masks.map low }
  let s := ({ s with cores := tdel s.cores j }.setCore k new).renameCommands j k
  (s.modCluster (clusterOf k) fun x => { x with lastFunc := tset x.lastFunc k fn }).acquireAt k 1 true

/-- The context block at cr.ctx is loaded, and the core fetches from IENT (R384); the resume note is owed where RESNOTE asks for it. -/
def Core.reloaded (c : Core) (k : Nat) : Core :=
  let b := (c.loadBlock k (c.cr.ctx.toNat % 0x8000)).1
  { b with pc := b.ient, entry := b.entryNow, noDiscard := false, empty := true, resumeNote := b.cr.compat.getLsbD 1 }

/-- A core of a kept firing resumes. One that waits after COMMIT, or whose firing carries a machine check to other cores (R396), is as
it was. -/
def State.resumeCore (s : State) (asIs : Bool) (j k fn : Nat) (g : Nat × Nat) : State :=
  let s := s.placeCore j k fn g
  s.modCore k fun c =>
    match c.run with
    | .firing _ => if asIs then c else c.reloaded k
    | _ => c

/-- A firing that a checker moves carries its machine check with it (R396). -/
def State.carriesCheck (s : State) (f : Firing) : Bool := f.cores.any fun k => (s.core k).mchk.isSome

/-- Free cells for a resumption: as for a dispatch, but for the dispatch hold-off (R288, R298). -/
def State.restCells (s : State) (cl : Nat) : List Nat :=
  [0, 1, 2, 3].filter fun ce =>
    let c := s.cell cl ce
    s.coreFree (cl * 16 + 8 + ce) && s.coreFree (cl * 16 + 12 + ce) && c.staging.isEmpty && c.matrix.isEmpty && c.claim.isNone

/-- The cores that kept firings of one gang, or one firing, would resume on: lists by firing, none when units are short (R384). -/
def State.resumePlan (s : State) (cl : Nat) (fs : List Firing) : Option (List (List Nat)) :=
  match fs with
  | [] => none
  | f :: _ =>
    if s.classOf f = 1 then
      let own := cellOf (f.cores.headD 0)
      let ok := s.restCells cl
      let ce := if 1 < f.cells.length then (if [0, 1, 2, 3].all ok.contains then some own else none) else ok.head?
      ce.map fun c => [[cl * 16 + 8 + c, cl * 16 + 12 + c]]
    else
      let ks := s.freeCores cl
      if ks.length < fs.length then none else some ((ks.take fs.length).map fun k => [k])

/-- A kept firing resumed on cores; none when a lane claim cannot be made again. -/
def State.resumeOn (s : State) (f : Firing) (ks : List Nat) : Option State :=
  let fn := match s.region? f.region with | some g => g.func | none => 0
  let cl := clusterOf (ks.headD 0)
  let asIs := s.carriesCheck f
  let put (o : Option State) (e : Nat × Nat) : Option State := o.bind fun s =>
    (s.reclaim e.1 e.2).map fun r => r.1.resumeCore asIs e.1 e.2 fn r.2
  let own := cellOf (ks.headD 0)
  let old := cellOf (f.cores.headD 0)
  let place (s : State) (e : Nat × Cell) : State :=
    let ce := if 1 < f.cells.length then e.1 else own
    let move (n : Nat) : Nat := if n / 64 = old then ce * 64 + n % 64 else n
    s.modCell cl ce fun c => { e.2 with holdoff := c.holdoff, reloading := e.2.reloading.map move }
  let pairs := f.cores.zip ks
  (pairs.foldl put (some (f.cells.foldl place s))).map fun s =>
    let new (k : Nat) : Nat := (tfind pairs k).getD k
    s.modFiring f.id fun x => { x with kept := false, cells := [], cores := ks, committed := x.committed.map new }

/-- FIRING_RESUME (R384): a kept firing, with the rest of its gang, resumes in its cluster once every command that names its
scratchpad has completed. One that has been notified to abort does so instead (R223), unless its undo stack is to run first. -/
def execFiringResume (firing : Nat) (s : State) : Outcome State Fault Refusal :=
  match s.firing? firing with
  | none => .next s
  | some f =>
    if f.kept && (f.notified || f.doomed) && !s.undoPending f then .next (s.endKept f) else
    let fs := sortBy (fun a b => decide (a.member < b.member))
      (if s.carriesCheck f then [f] else s.firings.filter fun x => x.region == f.region && x.gang == f.gang && !x.retired)
    let cl := clusterOf (f.cores.headD 0)
    let on := match s.region? f.region with | some g => s.onSlice g.space | none => false
    let named := fs.any fun x => x.cores.any fun j => (s.rangesAt cl).any fun e => namesSpan e.2 j padWindow 0x40000
    if !f.kept || !on || named || fs.any (fun x => !x.kept) then .next s else
    match s.resumePlan cl fs with
    | none => .next s
    | some plan =>
      match (fs.zip plan).foldl (fun (o : Option State) (e : Firing × List Nat) => o.bind fun s => s.resumeOn e.1 e.2) (some s) with
      | none => .next s
      | some u => .next u

/-! ## Time slices (R92, R93, R237, R252, R318) -/

/-- Some group of a region is enabled, resident or not, but for its function's slice. -/
def State.workWaits (s : State) (g : Region) : Bool :=
  g.copies.any fun c => (s.tiles.filter fun t => t.region == g.id && t.copy == c).any fun t =>
    (g.matchAll c t.lslice (s.visible g c t.lslice true true)).isSome

/-- A queue of a function could start a packet, or runs a command stream. -/
def State.queueWork (s : State) (f : Nat) : Bool :=
  (s.func f).procs.any fun p => p.2.queues.any fun q =>
    State.queueReady { s with slice := some f } f p.1 q.2 || (s.streamOf f p.1 q.1).isSome

/-- A function has ready work (R92). -/
def State.readyWork (s : State) (f : Nat) : Bool :=
  s.cores.any (fun e => e.2.busy && s.spaceOf e.1 / 256 == f) || s.offers.any (fun o => (s.offerOf o).1 == f) ||
  s.regions.any (fun g => g.func == f && !g.held && s.workWaits g) || s.queueWork f || !(s.func f).starts.isEmpty ||
  s.clusters.any (fun e => e.2.commands.any fun c => c.who.space / 256 == f) ||
  (s.func f).saved.any fun x => !(x.copyQ ++ x.indQ ++ x.mergeQ).isEmpty

/-- The function on its slice gives the partition up: its time has passed, or its work has run out (R92). -/
def State.sliceOver (s : State) (f : Nat) : Bool :=
  decide (s.sliceStart + 1700 * (s.func f).slen ≤ s.clock) || !s.readyWork f

/-- The slice ends: offers are withdrawn, and every core that runs is asked to stop (R93, R116); its stop begins (R384). -/
def State.beginSliceEnd (s : State) (f : Nat) : State :=
  let s := ((s.regions.filter fun g => g.func == f).map fun (g : Region) => g.id).foldl State.withdrawRegion s
  let ask (e : Nat × Core) : Nat × Core := if !isSaved e.1 && e.2.busy then (e.1, { e.2 with preempt := true, packetStop := some s.clock }) else e
  { s with slice := none, ending := true, lastSlice := f, cores := s.cores.map ask }

/-- Every core has stopped, and the commands that had started have completed (R93, R318). -/
def State.allStopped (s : State) : Bool :=
  !(s.cores.any fun e => !isSaved e.1 && e.2.busy) &&
  !(s.clusters.any fun e => e.2.commands.any (·.begun) || e.2.cells.any fun c => c.2.staging.any fun q => q.op == 1 && q.done == 1)

/-- The resident entries of an open merge context spilled, and its sequence numbers saved in it (R318). -/
def State.spillNow (s : State) (cl : Nat) : State :=
  match (s.cluster cl).merge with
  | none => s
  | some m =>
    if m.state ≠ 1 then s else
    let s := if m.entries.isEmpty then s else ((spillCtx cl m m.who).run.run s).2
    s.modCluster cl fun x => x.putSeq m

/-- A cluster saved for a function, its owned lines returned, and left with every bank in cache-way mode and its panels ABSENT (R237, R252,
R321). -/
def State.saveCluster (s : State) (f cl : Nat) : State :=
  let s := s.spillNow cl
  let s := ((s.cluster cl).owned.map fun (o : OwnedLine) => o.line.num).foldl (fun s n => s.returnOwned cl n) s
  let s := (lineNums (s.cluster cl).cache).foldl (fun s n => s.writeBackCluster cl n false) s
  let x := s.cluster cl
  let sv : SavedCluster := { cluster := cl, modes := x.modes, bankMem := x.bankMem, fifos := x.fifos, merge := x.merge, copyQ := x.copyQ,
                             indQ := x.indQ, mergeQ := x.mergeQ }
  let s := s.modFunc f fun y => { y with saved := y.saved ++ [sv] }
  s.modCluster cl fun x => { x with modes := [], bankMem := .empty, fifos := [], merge := none, copyQ := [], indQ := [], mergeQ := [],
                                    store := .empty, cells := x.cells.map fun e => (e.1, e.2.absent) }

/-- SLICE_END (R92, R93): the function's slice ends; once its cores have stopped, what it leaves in the clusters is saved. -/
def execSliceEnd (s : State) : Outcome State Fault Refusal :=
  let s := match s.slice with
    | some f => if s.sliceOver f then s.beginSliceEnd f else s
    | none => s
  if s.ending && s.allStopped then
    .next ((s.clusters.map fun (e : Nat × Cluster) => e.1).foldl (fun s cl => s.saveCluster s.lastSlice cl) { s with ending := false })
  else .next s

/-- A saved cluster restored (R237); a bank that leaves cache-way mode is emptied first (R236). -/
def State.restoreCluster (s : State) (sv : SavedCluster) : State :=
  let s := (sv.modes.filter fun e => e.2 != .cacheWay).foldl (fun (s : State) (e : Nat × BankMode) => s.emptyWay sv.cluster e.1) s
  s.modCluster sv.cluster fun x =>
    { x with modes := sv.modes, bankMem := sv.bankMem, fifos := sv.fifos, merge := sv.merge, copyQ := sv.copyQ, indQ := sv.indQ,
             mergeQ := sv.mergeQ }

/-- A function may hold the partition: the PF, or an enabled VF, with ready work. -/
def State.mayHold (s : State) (f : Nat) : Bool := decide (f < 64) && (f == 0 || (s.func f).enabled) && s.readyWork f

/-- SLICE_START (R92, R237): the next function in number order that has ready work takes the partition. -/
def execSliceStart (func : Nat) (s : State) : Outcome State Fault Refusal :=
  let after (n : Nat) : Nat := (n + 63 - s.lastSlice) % 64
  let first := (spanOf id 0 64).all fun n => !s.mayHold n || decide (after func ≤ after n)
  if s.slice.isSome || s.ending || s.life != .run || !s.mayHold func || !first then .next s else
  let s := (s.func func).saved.foldl State.restoreCluster s
  .next { (s.modFunc func fun y => { y with saved := [] }) with slice := some func, sliceStart := s.clock }

/-- WAITI_TIMEOUT (R377). -/
def execWaitiTimeout (core : Nat) (s : State) : Outcome State Fault Refusal :=
  match (s.core core).waitFrom with
  | none => .next s
  | some t => if s.clock < t + 4096 then .next s else .next (s.modCore core fun c => { c with waitOver := true })

/-! ## Destroyed descriptors (R32, R73) -/

/-- A tile is destroyed (R32, R73): its region repeats the step, up to twice (R399), or faults and goes on without the tile. -/
def State.destroyTile (s : State) (t : Tile) : State :=
  match s.region? t.region with
  | none => s
  | some g =>
    let gone (u : State) : State := { u with tiles := u.tiles.filter fun x => x.id != t.id }
    if g.rolls then (if g.repeats < 2 then s.repeatStep g.id else gone (s.repeatStep g.id))
    else gone (s.faultRegion g.id (detailWord 33 0 0 (s.tileSlice t)))

/-- DESCRIPTOR_ECC_ERROR (R32): `lslice` is the copy × 4096 + the logical slice; of pending tiles, which all have one age, a free choice
takes one. -/
def execDescriptorEccError (region lslice age : Nat) (s : State) : Outcome State Fault Refusal :=
  match (s.tilesAt region (lslice / 4096 % 2) (lslice % 4096)).filter (fun t => t.age == age) with
  | [] => .next s
  | [t] => .next (s.destroyTile t)
  | t :: ts => .next (s.tick.destroyTile ((t :: ts).getD (Config.freeChoice s.fresh % (ts.length + 1)) t))

/-- A granule of a line poisoned. -/
def Line.spoil (l : Line) (g : Nat) : Line := if l.num = g / 16 then { l with poison := setField l.poison (g % 16) 1 1 } else l

/-- A granule of a core's array poisoned; in the slot area of a firing block it is a descriptor that is destroyed (R32, R130). -/
def State.spoilArr (s : State) (k g : Nat) : State :=
  let u := s.modCore k fun c => { c with arr := c.arr.setBad g true }
  if g < 0x600 / 8 ∨ 0x680 / 8 ≤ g then u else
  match (s.firingOf k).bind fun f => f.tiles[(8 * g - 0x600) / 32]? with
  | none => u
  | some id => match s.tiles.find? fun t => t.id == id with | some t => u.destroyTile t | none => u

/-- UNCORRECTABLE_ERROR (R254): one copy of a granule is poisoned. The copies: 0 HBM, 1 home slice, 2 cluster memory cache of a
cluster, 3 first-level cache of a core, 4 owned copy of a cluster (granule = PA / 8); 5 array of a core, 6 banks of a cluster,
7 column store of a cluster (granule = offset / 8). A copy that is not there stays as it is. -/
def execUncorrectableError (copy : BitVec 3) (holder granule : Nat) (s : State) : Outcome State Fault Refusal :=
  .next (match copy.toNat with
    | 0 => { s with hbm := s.hbm.setBad granule true }
    | 1 => { s with homes := s.homes.map (·.spoil granule) }
    | 2 => s.modCluster holder fun x => { x with cache := x.cache.map (·.spoil granule) }
    | 3 => s.modCore holder fun c => { c with l1 := c.l1.map (·.spoil granule) }
    | 4 => s.modCluster holder fun x => { x with owned := x.owned.map fun o => { o with line := o.line.spoil granule } }
    | 5 => s.spoilArr holder granule
    | 6 => s.modCluster holder fun x => { x with bankMem := x.bankMem.setBad granule true }
    | _ => s.modCluster holder fun x => { x with store := x.store.setBad granule true })

end Sys2Proof.Machine
end

