-- ==== Sys2Proof/Machine/Host.lean ====
section
/-! DEFINITION. The host's registers, the device's life cycle and attestation (spec/27_host_and_boot.md R442 to R451; spec/05_launch.md
R77, R80, R92; spec/06 R98 to R100; spec/19 R385, R387; spec/20 R402). -/

namespace Sys2Proof.Machine
open Host

/-- The function answers on the host link: the PF in RUN, and a VF that is enabled (R442, R450). -/
def State.answers (s : State) (f : Nat) : Bool := s.life == .run && (f == 0 || (decide (f < 64) && (s.func f).enabled))

/-- A register write of a function: one that sets a bit outside `fields` is ignored (R443). -/
def State.hostWriteReg (s : State) (f : Nat) (val fields : Word) (run : State → State) : Outcome State Fault Refusal :=
  .next (if s.answers f && val &&& ~~~fields == 0 then run s else s)

/-- A page-aligned physical address and one low bit or field: [45:13] and the low `n` bits. -/
def paFields (n : Nat) : Word := BitVec.ofNat 64 (2 ^ 46 - 2 ^ 13 + (2 ^ n - 1))

/-- A virtual address field, [52:0]. -/
def vaFields : Word := 0x1FFFFFFFFFFFFF

/-! ## Processes and queues (R77, R80, R443) -/

/-- The process that PSEL names has a region ACTIVE or DRAINING. -/
def State.selBusy (s : State) (f : Nat) : Bool := s.regions.any fun g => g.func == f && g.proc == (s.func f).psel

/-- ROOT (R443). -/
def execRoot (func : Nat) (val : Word) (s : State) : Outcome State Fault Refusal :=
  s.hostWriteReg func val (paFields 1) fun s =>
    if s.selBusy func then s else s.modProc func (s.func func).psel fun p => { p with root := val }

/-- A queue descriptor has its fields in their ranges (R77). -/
def descriptorOk (va : Nat) (w : List Word) : Bool :=
  let f (i lo n : Nat) : Nat := fieldNat (w.getD i 0) lo n
  va % 64 == 0 && f 0 53 11 == 0 && f 0 0 12 == 0 && f 1 11 53 == 0 && f 1 5 3 == 0 && decide (4 ≤ f 1 0 5 ∧ f 1 0 5 ≤ 16) &&
  f 2 53 11 == 0 && f 2 0 3 == 0 && f 3 53 11 == 0 && f 3 0 3 == 0 && (w.drop 5).all (· == 0)

/-- A descriptor registered in a slot of a process (R77), or refused; the reads that were made stay made. -/
def State.registerQueue (s : State) (f p slot va : Nat) : State × Bool :=
  match s.devWords (f * 256 + p) va 8 with
  | (s, .error _) => (s, false)
  | (s, .ok w) =>
    if !descriptorOk va w then (s, false) else
    match s.devWords (f * 256 + p) (fieldNat (w.getD 2 0) 0 53) 1 with
    | (s, .error _) => (s, false)
    | (s, .ok r) =>
      let n := (r.getD 0 0).toNat
      let q : Queue := { desc := va, ring := fieldNat (w.getD 0 0) 0 53, log2n := fieldNat (w.getD 1 0) 0 5,
                         qprio := fieldNat (w.getD 1 0) 8 3, ridxVa := fieldNat (w.getD 2 0) 0 53, widxVa := fieldNat (w.getD 3 0) 0 53,
                         ridx := n, widx := n, qstate := 1, qerr := 0, qat := 0, off := false, packets := [], startAt := 0 }
      ((s.modProc f p fun x => { x with queues := tset x.queues slot q }).putQueueState f p slot 1 0 0, true)

/-- A slot accepts a registration: DISABLED, or in ERROR with no packet in progress (R80, R443). -/
def State.slotFree (s : State) (f p slot : Nat) : Bool :=
  match s.queue? f p slot with
  | none => true
  | some q => q.qstate == 0 || (q.qstate == 2 && q.inProgress.isEmpty)

/-- QVA (R77, R443). -/
def execQva (func : Nat) (val : Word) (s : State) : Outcome State Fault Refusal :=
  s.hostWriteReg func val 0x7FFFFFFFFFFFFFF fun s =>
    let p := (s.func func).psel
    let slot := fieldNat val 53 6
    let answer (s : State) (n : Nat) : State := s.modFunc func fun x => { x with qslotResult := n }
    if !s.slotFree func p slot then answer s 2 else
    let u := s.registerQueue func p slot (fieldNat val 0 53)
    answer u.1 (if u.2 then 0 else 1)

/-- QOFF (R443). -/
def execQoff (func : Nat) (val : Word) (s : State) : Outcome State Fault Refusal :=
  s.hostWriteReg func val 0x3F fun s =>
    let p := (s.func func).psel
    (s.modQueue func p val.toNat fun q => { q with off := true }).settleOff func p val.toNat

/-! ## Fault records and notices (R386, R387, R443, R446) -/

/-- FTAIL (R443): held records are posted, oldest first, while the ring has room. -/
def execFtail (func : Nat) (val : Word) (s : State) : Outcome State Fault Refusal :=
  s.hostWriteReg func val 0xFFFFFFFF fun s =>
    let s := s.modFunc func fun x => { x with ftail := val.toNat }
    ((s.func func).records.map fun (r : FaultRec) => r.id).foldl (fun s id => s.postRecord func id) s

/-- NTAIL (R443): held notices are posted, oldest first, while the ring has room. -/
def execNtail (func : Nat) (val : Word) (s : State) : Outcome State Fault Refusal :=
  s.hostWriteReg func val 0xFFFFFFFF fun s =>
    let held := (s.func func).noticesHeld
    let s := s.modFunc func fun x => { x with ntail := val.toNat, noticesHeld := [] }
    held.foldl (fun s n => s.postNotice func (n.1, n.2.1) n.2.2) s

/-- A fault record answered: it is outstanding no longer. -/
def State.closeRecord (s : State) (f id : Nat) : State := s.modFunc f fun x => { x with records := x.records.filter (fun r => r.id != id) }

/-- The outstanding record of a number. -/
def State.record? (s : State) (f id : Nat) : Option FaultRec := (s.func f).records.find? fun r => r.id == id

/-- RETRY (R387): the page's TLB entries of the partition go, and every joined access tries again. -/
def execRetry (func : Nat) (id : BitVec 32) (s : State) : Outcome State Fault Refusal :=
  match s.record? func id.toNat with
  | none => .next s
  | some r => .next (if s.answers func then (s.tlbInvalidate 0 3 r.space (some r.vpn)).closeRecord func id.toNat else s)

/-- A core takes the TFAULT of its joined access, or owes it while its SFU requests are outstanding (R189, R387). -/
def State.deliverFault (s : State) (k : Nat) : State :=
  if s.trapWaits k cTFAULT then s.modCore k fun c => { c with waitRecord := none, deliver := true }
  else s.takeTrap k cTFAULT (s.core k).waitVa

/-- DELIVER (R387): each joined access raises TFAULT into its handler. -/
def execDeliver (func : Nat) (id : BitVec 32) (s : State) : Outcome State Fault Refusal :=
  match s.record? func id.toNat with
  | none => .next s
  | some r =>
    let give (s : State) (k : Nat) : State := if (s.core k).waitRecord = some id.toNat then s.deliverFault k else s
    .next (if s.answers func then (r.cores.foldl give s).closeRecord func id.toNat else s)

/-- NREL (R445, R446): the escalations of the region at an RCB VA, in the process that PSEL names, are released: the kill of R72 follows,
of every descendant that there is now. -/
def execNrel (func : Nat) (val : Word) (s : State) : Outcome State Fault Refusal :=
  s.hostWriteReg func val vaFields fun s =>
    let mine (e : Nat × Nat × Nat × Nat) : Bool := e.2.1 == func * 256 + (s.func func).psel && e.2.2.1 == val.toNat
    let es := s.escalations.filter mine
    es.foldl (fun (s : State) (e : Nat × Nat × Nat × Nat) => (s.faultKin e.1 e.2.2.2).foldl State.killRegion s)
      { s with escalations := s.escalations.filter fun e => !mine e }

/-! ## Compatibility threads (R385, R447) -/

/-- CSTART (R447): the start record is read; one that is not aligned, or cannot be read, starts nothing. -/
def execCstart (func : Nat) (val : Word) (s : State) : Outcome State Fault Refusal :=
  s.hostWriteReg func val vaFields fun s =>
    let p := (s.func func).psel
    if val.toNat % 32 ≠ 0 then s else
    match s.devWords (func * 256 + p) val.toNat 4 with
    | (s, .error _) => s
    | (s, .ok w) => s.modFunc func fun x => { x with starts := x.starts ++ [(p, w)] }

/-- The core that a start record names. -/
def startCoreOf (w : List Word) : Nat := fieldNat (w.getD 2 0) 0 8 * 16 + fieldNat (w.getD 2 0) 8 3

/-- A context image put into a block, with EN set (R383, R447). -/
def Core.putImage (c : Core) (o : Nat) (bs : List Byte) : Core :=
  let m := c.arr.write o bs
  { c with arr := m.setWord (o + 0xE8) (m.word (o + 0xE8) ||| 1) }

/-- The images of a start record read (R447): the context image, and the handler image where there is one. -/
def State.readImages (s : State) (space : Nat) (w : List Word) : State × Option (List Byte × List Byte) :=
  match s.devRead space (fieldNat (w.getD 0 0) 0 53) 512 with
  | (s, .error _) => (s, none)
  | (s, .ok a) =>
    let h := fieldNat (w.getD 3 0) 0 53
    if h = 0 then (s, some (a, List.replicate 512 0))
    else match s.devRead space h 512 with
      | (s, .error _) => (s, none)
      | (s, .ok b) => (s, some (a, b))

/-- The core that starts a thread before its images are loaded. -/
def Core.threadStart (c : Core) (f p endWord : Nat) (handler : Bool) : Core :=
  { Core.init with arr := c.arr, spN := c.spN, l1 := c.l1, tlb := c.tlb, cycle := c.cycle, run := .thread f p endWord handler,
                   cr := { Ctl.reset with compat := 1 } }

/-- A cluster lies in the partition's bays (R91). -/
def State.ownsCluster (s : State) (cl : Nat) : Bool := decide (s.bay0 * 32 ≤ cl) && decide (cl < (s.bay0 + s.bays) * 32)

/-- COMPAT_THREAD_LOAD (R447): a start record of the function on its slice is loaded onto its core, which is one of the partition's (R91)
and idle. A thread whose image cannot be read or loaded ends at once with end word 3. -/
def execCompatThreadLoad (core : Nat) (s : State) : Outcome State Fault Refusal :=
  match s.slice with
  | none => .next s
  | some f =>
    match (s.func f).starts.find? fun e => startCoreOf e.2 == core with
    | none => .next s
    | some (p, w) =>
      if isSaved core || !isGeneral core || !s.ownsCluster (clusterOf core) || !s.coreFree core then .next s else
      let s := s.modFunc f fun x => { x with starts := x.starts.erase (p, w) }
      let s := s.freshPad core f
      let start (s : State) : State := (s.modCore core fun c =>
        c.threadStart f p (fieldNat (w.getD 1 0) 0 53) (fieldNat (w.getD 3 0) 0 53 != 0)).noteUnit (clusterOf core)
      match s.readImages (f * 256 + p) w with
      | (s, none) => .next ((start s).endThread core 3)
      | (s, some (a, h)) =>
        let s := (start s).modCore core fun c => (c.putImage 0 a).putImage 0x200 h
        if ((s.core core).blockBad 0).isSome then .next (s.endThread core 3)
        else .next (s.modCore core fun c => { (c.loadBlock core 0).1 with pc := (c.loadBlock core 0).2 })

/-- COMPAT_THREAD_RESUME (R385): a stopped thread of the function on its slice resumes on its core: the image is loaded, and VALID is
cleared. -/
def execCompatThreadResume (core : Nat) (s : State) : Outcome State Fault Refusal :=
  let mine (e : Nat × Core) : Bool := isSaved e.1 && e.1 % 0x10000 == core && e.2.isThread && s.onSlice (s.spaceOf e.1)
  match s.cores.find? mine with
  | none => .next s
  | some (j, _) =>
    let named := (s.rangesAt (clusterOf core)).any fun e => namesSpan e.2 j padWindow 0x40000
    if named || isSaved core || !s.coreFree core then .next s else
    match s.reclaim j core with
    | none => .next s
    | some r =>
      .next ((r.1.placeCore j core (s.spaceOf j / 256) r.2).modCore core fun c =>
        let b := c.loadBlock core 0x800
        { b.1 with pc := b.2, arr := b.1.arr.setWord 0xA00 (c.arr.word 0xA00 &&& ~~~1) })

/-! ## Function reset (R336, R448) -/

/-- A committed firing of a function that is reset: its products are inserted, and it leaves flight. -/
def State.flushFiring (s : State) (f : Firing) : State :=
  let s := (f.products.filter fun p => !p.inserted).foldl (fun s p => s.insertProduct f p) s
  { s with firings := s.firings.filter fun x => x.id != f.id }

/-- A region completed with CSTAT KILLED and ORPHAN by a function reset. -/
def State.killNow (s : State) (r : Nat) : State :=
  let s := s.modRegion r fun x => { x with killed := true, orphan := true, cstat := 4, tileDue := false }
  match s.region? r with
  | none => s
  | some g =>
    let s := if g.eff.paired then s.closePair g false else s
    let live := s.present r
    let s := s.putCounters g.func g.proc g.rcb g.detail
      { g.cnt with nlive := live.length, npois := (live.filter (s.poisonSkipped g)).length } none
    let s := s.endStatus g
    { s with tiles := s.tiles.filter fun t => t.region != r }.finishRegion r

/-- A function without queues, records and rings (R448 item 5). -/
def Func.cleared (x : Func) : Func :=
  { x with fhead := 0, ftail := 0, nhead := 0, ntail := 0, noticesHeld := [], records := [], starts := [] }

/-- The queues of a function set DISABLED. -/
def State.disableQueues (s : State) (f : Nat) : State :=
  (s.func f).procs.foldl (fun (s : State) (p : Nat × Proc) =>
    p.2.queues.foldl (fun (s : State) (q : Nat × Queue) =>
      (s.modQueue f p.1 q.1 fun x => { x with packets := [], off := false }).putQueueState f p.1 q.1 0 0 0) s) s

/-- FRESET (R448); it may find a core of the function in the midst of a VATOM (R336). -/
def execFreset (func : Nat) (val : Word) (s : State) : Outcome State Fault Refusal :=
  s.hostWriteReg func val 1 fun s =>
    if val = 0 then s else
    let running := (s.cores.filter fun e => s.runsOn e.1 && s.spaceOf e.1 / 256 == func).map (·.1)
    let s := running.foldl State.cutVatom s
    let rs := (s.regions.filter fun g => g.func == func).map fun (g : Region) => g.id
    let s := rs.foldl State.withdrawRegion s
    let s := s.clusters.foldl (fun (s : State) (e : Nat × Cluster) => e.2.owned.foldl (fun s o => s.returnOwned e.1 o.line.num) s) s
    let fs := s.firings.filter fun f => rs.contains f.region
    let s := (fs.filter (·.retired)).foldl State.flushFiring s
    let s := (fs.filter fun f => !f.retired).foldl State.dropFiring s
    let ts := (s.cores.filter fun e => e.2.isThread && s.spaceOf e.1 / 256 == func).map (·.1)
    let s := ts.foldl (fun s k => s.endThread k 4) s
    let s := rs.foldl State.killNow s
    let s := s.disableQueues func
    let s := { s with flags := s.flags.filter fun e => e.1 % 64 != func, escalations := s.escalations.filter fun e => e.2.1 / 256 != func }
    s.modFunc func Func.cleared

/-! ## The PF page (R444, R92, R98 to R100) -/

/-- SLEN (R92, R444). -/
def execSlen (val : Word) (s : State) : Outcome State Fault Refusal :=
  s.hostWriteReg 0 val 0x3FFF0000003F fun s =>
    let n := fieldNat val 32 14
    if 50 ≤ n ∧ n ≤ 10000 then s.modFunc (fieldNat val 0 6) fun x => { x with slen := n } else s

/-- The entries of a slice map as its image holds them, none when one cannot be read. The reads are served at the home slices of its lines
(R320, R321). -/
def State.mapImage (s : State) (pa : Nat) : State × Option (List Nat) :=
  if !s.physOk pa then (s, none) else
  let p := physPlace pa
  let u := match p with
    | .dev a => (linesOf a 0x2000).foldl (fun s l => s.homeServe otherParty l .default) s
    | _ => s
  if (spanOf (fun i => s.seenBad 0 .so (p.add (8 * i))) 0 1024).any id then (u, none)
  else (u, some (spanOf (fun i => leNat (spanOf (fun j => s.homeByte (p.add (2 * i + j))) 0 2)) 0 4096))

/-- An entry names a home slice of the partition (R98, R100). -/
def State.entryOk (s : State) (e : Nat) : Bool := decide (e < 1024) && decide (s.bay0 ≤ e / 128) && decide (e / 128 < s.bay0 + s.bays)

/-- MAP (R100, R444): a read then returns DONE, and REFUSED beside it. -/
def execMap (val : Word) (s : State) : Outcome State Fault Refusal :=
  s.hostWriteReg 0 val (paFields 4) fun s =>
    let n := fieldNat val 0 4
    let used := s.regions.any fun g => g.eff.smap == n
    match s.mapImage (fieldNat val 13 33 * 2 ^ 13) with
    | (s, none) => { s with mapResult := 3 }
    | (s, some es) =>
      if n = 0 ∨ used ∨ !(es.all s.entryOk) then { s with mapResult := 3 }
      else { s with mapResult := 1, maps := (s.maps.filter fun e => e.1 / 4096 != n) ++ es.zipIdx.map fun e => (n * 4096 + e.2, e.1) }

/-- NVEC (R444): the count is kept for the VF's next enable. -/
def execNvec (val : Word) (s : State) : Outcome State Fault Refusal :=
  s.hostWriteReg 0 val 0xFFF003F fun s =>
    let n := fieldNat val 16 12
    if 64 ≤ n ∧ n ≤ 2048 ∧ fieldNat val 0 6 ≠ 0 then s.modFunc (fieldNat val 0 6) fun x => { x with nvecNext := n } else s

/-- VF_ENABLE (R442, R444). -/
def execVfEnable (func : Nat) (s : State) : Outcome State Fault Refusal :=
  .next (if s.life == .run && decide (1 ≤ func ∧ func ≤ 63) then s.modFunc func fun x => { x with enabled := true, nvec := x.nvecNext } else s)

/-- REGISTER_WRITE (R443, R444): the registers that hold what was written: PSEL, WEIGHT, FBASE, FVEC and NBASE at their offsets in the
control page, and at 0x1000 + its offset DUTY of the PF page. Other offsets are read-only, or are rows of their own. -/
def execRegisterWrite (func off : Nat) (val : Word) (s : State) : Outcome State Fault Refusal :=
  let set_ (fields : Word) (g : Func → Func) : Outcome State Fault Refusal := s.hostWriteReg func val fields fun s => s.modFunc func g
  match off with
  | 0x000 => set_ 0xFF fun x => { x with psel := val.toNat }
  | 0x010 => s.hostWriteReg func val 0xFF fun s =>
      if val = 0 then s else s.modProc func (s.func func).psel fun p => { p with weight := val.toNat }
  | 0x028 => set_ (paFields 4) fun x => if 4 ≤ fieldNat val 0 4 ∧ fieldNat val 0 4 ≤ 12 then { x with fbase := val } else x
  | 0x048 => set_ 0x7FF fun x => { x with fvec := val.toNat }
  | 0x050 => set_ (paFields 4) fun x => { x with nbase := val }
  | 0x1008 => if func = 0 then s.hostWriteReg 0 val 0xF fun s => { s with duty := val.setWidth 4 } else .next s
  | _ => .next s

/-- What a read of a register returns (R443, R444): offsets as for a write; write-only registers without a stated value read 0, and so does
everything of a function that does not answer (R442, R450; DESIGN CHOICE, log entry 133). -/
def State.hostRead (s : State) (f off : Nat) : Word :=
  if !s.answers f then 0 else
  let x := s.func f
  let p := x.proc x.psel
  let mib (n : Nat) : Nat := n / 2 ^ 20 % 2 ^ 16
  match off with
  | 0x000 => BitVec.ofNat 64 x.psel
  | 0x008 => p.root
  | 0x010 => BitVec.ofNat 64 p.weight
  | 0x018 => BitVec.ofNat 64 x.qslotResult
  | 0x028 => x.fbase
  | 0x030 => BitVec.ofNat 64 x.fhead
  | 0x038 => BitVec.ofNat 64 x.ftail
  | 0x048 => BitVec.ofNat 64 x.fvec
  | 0x050 => x.nbase
  | 0x058 => BitVec.ofNat 64 x.nhead
  | 0x060 => BitVec.ofNat 64 x.ntail
  | 0x078 => BitVec.ofNat 64 x.mclog
  | 0x1008 => if f = 0 then s.duty.setWidth 64 else 0
  | 0x1010 => if f = 0 then BitVec.ofNat 64 s.mapResult else 0
  | 0x1020 => if f = 0 then BitVec.ofNat 64 (mib Config.overflowBytes + mib Config.saveBytes * 2 ^ 16 + mib Config.snapshotBytes * 2 ^ 32) else 0
  | _ => 0

/-! ## Boot and life cycle (R402, R449 to R451) -/

/-- The control cores that the monitor withholds for the firmware, once partitions are set (R449). -/
def withheldIn (life : Life) : List Nat :=
  match life with
  | .boot => []
  | .failed => []
  | .config => Config.withheld.filter fun k => decide (k < 4096) && !isGeneral k
  | .run => Config.withheld.filter fun k => decide (k < 4096) && !isGeneral k

/-- The device after a wipe (R402) in a life-cycle state; the host's memory, the interrupts it has received, and what moves next stay,
and so do fenced cores unless `reset` (R396, R450). Withheld cores are out of service. -/
def State.wiped (s : State) (life : Life) (image : Option Bool) (bay0 bays : Nat) (reset : Bool) : State :=
  let fenced := if reset then [] else (s.cores.filter fun e => e.2.run == .out).map fun e => e.1
  let out := (fenced ++ withheldIn life).map fun k => (k, { Core.init with run := .out })
  { State.reset with agenda := s.agenda, cur := s.cur, clock := s.clock, fresh := s.fresh, cores := out, host := s.host, irqs := s.irqs,
                     attestations := s.attestations, life := life, image := image, bay0 := bay0, bays := bays }

/-- POWER_ON (R449): the monitor accepts the image of the first slot, or of the second, or the device enters FAILED. -/
def execPowerOn (image1 image2 : Bool) (s : State) : Outcome State Fault Refusal :=
  if s.life ≠ .boot ∨ s.image.isSome then .next s
  else if image1 then .next { s with image := some false }
  else if image2 then .next { s with image := some true }
  else .next (s.wiped .failed none s.bay0 s.bays false)

/-- An aligned group of bays that a partition may be (R91). -/
def groupOk (b0 nb : Nat) : Bool := [1, 2, 4, 8].contains nb && b0 % nb == 0 && decide (b0 + nb ≤ 8)

/-- LIFECYCLE_CHANGE (R450): 1 CONFIG, from BOOT once an image is accepted or from RUN; 2 RUN, from CONFIG; 3 FAILED, from BOOT. The
partition is the group of bays that the change names (R91). -/
def execLifecycleChange (dest : BitVec 2) (b0 nb : Nat) (s : State) : Outcome State Fault Refusal :=
  match dest.toNat with
  | 1 => if groupOk b0 nb && ((s.life == .boot && s.image.isSome) || s.life == .run) then .next (s.wiped .config s.image b0 nb false) else .next s
  | 2 => if groupOk b0 nb && s.life == .config then .next (s.wiped .run s.image b0 nb false) else .next s
  | 3 => if s.life == .boot then .next (s.wiped .failed s.image s.bay0 s.bays false) else .next s
  | _ => .next s

/-- RESET (R396, R402, R450). -/
def execReset (s : State) : Outcome State Fault Refusal := .next (s.wiped .boot none State.reset.bay0 State.reset.bays true)

/-- Number of a life-cycle state. -/
def Life.code : Life → Nat
  | .boot => 0
  | .config => 1
  | .run => 2
  | .failed => 3

/-- ATTESTATION (R451). -/
def execAttestation (nonce : BitVec 512) (s : State) : Outcome State Fault Refusal :=
  let ds := [Config.romDigest, Config.monitorDigest] ++ s.image.toList.map Config.imageDigest
  let a : Attestation := { digests := ds, life := s.life, nonce := nonce, sign := Config.signature ds s.life.code nonce }
  .next { s with attestations := a :: s.attestations }

end Sys2Proof.Machine
end

