-- ==== Sys2Proof/Machine/Dispatch.lean ====
section
/-! DEFINITION. Dispatch: one arm per row of spec/opcode_table.json. -/

namespace Sys2Proof.Machine
open Host

def exec (i : Instr) (s : State) : Host.Outcome State Fault Refusal :=
  match i with
  | .add k w rb ra rd stl => Sys2Proof.Machine.execAdd k w rb ra rd stl s
  | .addL w ra rd stl lit => Sys2Proof.Machine.execAddL w ra rd stl lit s
  | .sub k w rb ra rd stl => Sys2Proof.Machine.execSub k w rb ra rd stl s
  | .subL w ra rd stl lit => Sys2Proof.Machine.execSubL w ra rd stl lit s
  | .and k w rb ra rd stl => Sys2Proof.Machine.execAnd k w rb ra rd stl s
  | .andL w ra rd stl lit => Sys2Proof.Machine.execAndL w ra rd stl lit s
  | .or k w rb ra rd stl => Sys2Proof.Machine.execOr k w rb ra rd stl s
  | .orL w ra rd stl lit => Sys2Proof.Machine.execOrL w ra rd stl lit s
  | .xor k w rb ra rd stl => Sys2Proof.Machine.execXor k w rb ra rd stl s
  | .xorL w ra rd stl lit => Sys2Proof.Machine.execXorL w ra rd stl lit s
  | .andn k w rb ra rd stl => Sys2Proof.Machine.execAndn k w rb ra rd stl s
  | .andnL w ra rd stl lit => Sys2Proof.Machine.execAndnL w ra rd stl lit s
  | .sll k w rb ra rd stl => Sys2Proof.Machine.execSll k w rb ra rd stl s
  | .sllL w ra rd stl lit => Sys2Proof.Machine.execSllL w ra rd stl lit s
  | .srl k w rb ra rd stl => Sys2Proof.Machine.execSrl k w rb ra rd stl s
  | .srlL w ra rd stl lit => Sys2Proof.Machine.execSrlL w ra rd stl lit s
  | .sra k w rb ra rd stl => Sys2Proof.Machine.execSra k w rb ra rd stl s
  | .sraL w ra rd stl lit => Sys2Proof.Machine.execSraL w ra rd stl lit s
  | .ror k w rb ra rd stl => Sys2Proof.Machine.execRor k w rb ra rd stl s
  | .rorL w ra rd stl lit => Sys2Proof.Machine.execRorL w ra rd stl lit s
  | .mul k w rb ra rd stl => Sys2Proof.Machine.execMul k w rb ra rd stl s
  | .mulL w ra rd stl lit => Sys2Proof.Machine.execMulL w ra rd stl lit s
  | .mulh k w rb ra rd stl => Sys2Proof.Machine.execMulh k w rb ra rd stl s
  | .mulhL w ra rd stl lit => Sys2Proof.Machine.execMulhL w ra rd stl lit s
  | .mulhu k w rb ra rd stl => Sys2Proof.Machine.execMulhu k w rb ra rd stl s
  | .mulhuL w ra rd stl lit => Sys2Proof.Machine.execMulhuL w ra rd stl lit s
  | .div k w rb ra rd stl => Sys2Proof.Machine.execDiv k w rb ra rd stl s
  | .divL w ra rd stl lit => Sys2Proof.Machine.execDivL w ra rd stl lit s
  | .divu k w rb ra rd stl => Sys2Proof.Machine.execDivu k w rb ra rd stl s
  | .divuL w ra rd stl lit => Sys2Proof.Machine.execDivuL w ra rd stl lit s
  | .rem k w rb ra rd stl => Sys2Proof.Machine.execRem k w rb ra rd stl s
  | .remL w ra rd stl lit => Sys2Proof.Machine.execRemL w ra rd stl lit s
  | .remu k w rb ra rd stl => Sys2Proof.Machine.execRemu k w rb ra rd stl s
  | .remuL w ra rd stl lit => Sys2Proof.Machine.execRemuL w ra rd stl lit s
  | .min k w rb ra rd stl => Sys2Proof.Machine.execMin k w rb ra rd stl s
  | .minL w ra rd stl lit => Sys2Proof.Machine.execMinL w ra rd stl lit s
  | .max k w rb ra rd stl => Sys2Proof.Machine.execMax k w rb ra rd stl s
  | .maxL w ra rd stl lit => Sys2Proof.Machine.execMaxL w ra rd stl lit s
  | .minu k w rb ra rd stl => Sys2Proof.Machine.execMinu k w rb ra rd stl s
  | .minuL w ra rd stl lit => Sys2Proof.Machine.execMinuL w ra rd stl lit s
  | .maxu k w rb ra rd stl => Sys2Proof.Machine.execMaxu k w rb ra rd stl s
  | .maxuL w ra rd stl lit => Sys2Proof.Machine.execMaxuL w ra rd stl lit s
  | .clz w ra rd stl => Sys2Proof.Machine.execClz w ra rd stl s
  | .ctz w ra rd stl => Sys2Proof.Machine.execCtz w ra rd stl s
  | .popc w ra rd stl => Sys2Proof.Machine.execPopc w ra rd stl s
  | .sel ps rb ra rd stl => Sys2Proof.Machine.execSel ps rb ra rd stl s
  | .selL ps ra rd stl lit => Sys2Proof.Machine.execSelL ps ra rd stl lit s
  | .cmp k w rb ra cc pd stl => Sys2Proof.Machine.execCmp k w rb ra cc pd stl s
  | .cmpL w ra cc pd stl lit => Sys2Proof.Machine.execCmpL w ra cc pd stl lit s
  | .plog ttLo pb ttHi pa pd stl => Sys2Proof.Machine.execPlog ttLo pb ttHi pa pd stl s
  | .addi imm ra rd stl => Sys2Proof.Machine.execAddi imm ra rd stl s
  | .andi imm ra rd stl => Sys2Proof.Machine.execAndi imm ra rd stl s
  | .ori imm ra rd stl => Sys2Proof.Machine.execOri imm ra rd stl s
  | .xori imm ra rd stl => Sys2Proof.Machine.execXori imm ra rd stl s
  | .slli sh ra rd stl => Sys2Proof.Machine.execSlli sh ra rd stl s
  | .srli sh ra rd stl => Sys2Proof.Machine.execSrli sh ra rd stl s
  | .srai sh ra rd stl => Sys2Proof.Machine.execSrai sh ra rd stl s
  | .cmpi imm ra cc pd stl => Sys2Proof.Machine.execCmpi imm ra cc pd stl s
  | .lui imm rd => Sys2Proof.Machine.execLui imm rd s
  | .fli imm rd => Sys2Proof.Machine.execFli imm rd s
  | .faddi imm rd => Sys2Proof.Machine.execFaddi imm rd s
  | .fmuli imm rd => Sys2Proof.Machine.execFmuli imm rd s
  | .beq off rb ra stl => Sys2Proof.Machine.execBeq off rb ra stl s
  | .bne off rb ra stl => Sys2Proof.Machine.execBne off rb ra stl s
  | .blt off rb ra stl => Sys2Proof.Machine.execBlt off rb ra stl s
  | .bge off rb ra stl => Sys2Proof.Machine.execBge off rb ra stl s
  | .bltu off rb ra stl => Sys2Proof.Machine.execBltu off rb ra stl s
  | .bgeu off rb ra stl => Sys2Proof.Machine.execBgeu off rb ra stl s
  | .bpt off pa stl => Sys2Proof.Machine.execBpt off pa stl s
  | .bpf off pa stl => Sys2Proof.Machine.execBpf off pa stl s
  | .jal off rd stl => Sys2Proof.Machine.execJal off rd stl s
  | .jalr off ra rd stl => Sys2Proof.Machine.execJalr off ra rd stl s
  | .loop off rd stl => Sys2Proof.Machine.execLoop off rd stl s
  | .ld off aq hint sz ra rd stl => Sys2Proof.Machine.execLd off aq hint sz ra rd stl s
  | .st off rl hint sz ra rd stl => Sys2Proof.Machine.execSt off rl hint sz ra rd stl s
  | .pref off hint ra stl => Sys2Proof.Machine.execPref off hint ra stl s
  | .disc off ra stl => Sys2Proof.Machine.execDisc off ra stl s
  | .fadd k w rb ra rd stl => Sys2Proof.Machine.execFadd k w rb ra rd stl s
  | .faddL w ra rd stl lit => Sys2Proof.Machine.execFaddL w ra rd stl lit s
  | .fsub k w rb ra rd stl => Sys2Proof.Machine.execFsub k w rb ra rd stl s
  | .fsubL w ra rd stl lit => Sys2Proof.Machine.execFsubL w ra rd stl lit s
  | .fmul k w rb ra rd stl => Sys2Proof.Machine.execFmul k w rb ra rd stl s
  | .fmulL w ra rd stl lit => Sys2Proof.Machine.execFmulL w ra rd stl lit s
  | .fdiv k w rb ra rd stl => Sys2Proof.Machine.execFdiv k w rb ra rd stl s
  | .fdivL w ra rd stl lit => Sys2Proof.Machine.execFdivL w ra rd stl lit s
  | .fsqrt w ra rd stl => Sys2Proof.Machine.execFsqrt w ra rd stl s
  | .fma k w rb ra rd stl => Sys2Proof.Machine.execFma k w rb ra rd stl s
  | .fmaL w ra rd stl lit => Sys2Proof.Machine.execFmaL w ra rd stl lit s
  | .fmad k w rb ra rd stl => Sys2Proof.Machine.execFmad k w rb ra rd stl s
  | .fmadL w ra rd stl lit => Sys2Proof.Machine.execFmadL w ra rd stl lit s
  | .fnma k w rb ra rd stl => Sys2Proof.Machine.execFnma k w rb ra rd stl s
  | .fnmaL w ra rd stl lit => Sys2Proof.Machine.execFnmaL w ra rd stl lit s
  | .fmin k w rb ra rd stl => Sys2Proof.Machine.execFmin k w rb ra rd stl s
  | .fminL w ra rd stl lit => Sys2Proof.Machine.execFminL w ra rd stl lit s
  | .fmax k w rb ra rd stl => Sys2Proof.Machine.execFmax k w rb ra rd stl s
  | .fmaxL w ra rd stl lit => Sys2Proof.Machine.execFmaxL w ra rd stl lit s
  | .fsgn var w rb ra rd stl => Sys2Proof.Machine.execFsgn var w rb ra rd stl s
  | .fcmp k w rb ra cc pd stl => Sys2Proof.Machine.execFcmp k w rb ra cc pd stl s
  | .fcmpL w ra cc pd stl lit => Sys2Proof.Machine.execFcmpL w ra cc pd stl lit s
  | .fclass w ra rd stl => Sys2Proof.Machine.execFclass w ra rd stl s
  | .fcvt src dst ra rd stl => Sys2Proof.Machine.execFcvt src dst ra rd stl s
  | .fex2 ra rd stl => Sys2Proof.Machine.execFex2 ra rd stl s
  | .flg2 ra rd stl => Sys2Proof.Machine.execFlg2 ra rd stl s
  | .frcp ra rd stl => Sys2Proof.Machine.execFrcp ra rd stl s
  | .frsq ra rd stl => Sys2Proof.Machine.execFrsq ra rd stl s
  | .fsinp ra rd stl => Sys2Proof.Machine.execFsinp ra rd stl s
  | .fcosp ra rd stl => Sys2Proof.Machine.execFcosp ra rd stl s
  | .vadd sg mk rb ra rd stl => Sys2Proof.Machine.execVadd sg mk rb ra rd stl s
  | .vsub sg mk rb ra rd stl => Sys2Proof.Machine.execVsub sg mk rb ra rd stl s
  | .vmul sg mk rb ra rd stl => Sys2Proof.Machine.execVmul sg mk rb ra rd stl s
  | .vfma sg mk rb ra rd stl => Sys2Proof.Machine.execVfma sg mk rb ra rd stl s
  | .vdiv sg mk rb ra rd stl => Sys2Proof.Machine.execVdiv sg mk rb ra rd stl s
  | .vsqrt mk ra rd stl => Sys2Proof.Machine.execVsqrt mk ra rd stl s
  | .vmin sg mk rb ra rd stl => Sys2Proof.Machine.execVmin sg mk rb ra rd stl s
  | .vmax sg mk rb ra rd stl => Sys2Proof.Machine.execVmax sg mk rb ra rd stl s
  | .vabs mk ra rd stl => Sys2Proof.Machine.execVabs mk ra rd stl s
  | .vneg mk ra rd stl => Sys2Proof.Machine.execVneg mk ra rd stl s
  | .vand sg mk rb ra rd stl => Sys2Proof.Machine.execVand sg mk rb ra rd stl s
  | .vor sg mk rb ra rd stl => Sys2Proof.Machine.execVor sg mk rb ra rd stl s
  | .vxor sg mk rb ra rd stl => Sys2Proof.Machine.execVxor sg mk rb ra rd stl s
  | .vshl sg mk rb ra rd stl => Sys2Proof.Machine.execVshl sg mk rb ra rd stl s
  | .vshr sg mk rb ra rd stl => Sys2Proof.Machine.execVshr sg mk rb ra rd stl s
  | .vsra sg mk rb ra rd stl => Sys2Proof.Machine.execVsra sg mk rb ra rd stl s
  | .vcmp sg mk rb ra cc md stl => Sys2Proof.Machine.execVcmp sg mk rb ra cc md stl s
  | .vsel sg mk rb ra rd stl => Sys2Proof.Machine.execVsel sg mk rb ra rd stl s
  | .vcvt mk ft ra rd stl => Sys2Proof.Machine.execVcvt mk ft ra rd stl s
  | .vsfu mk fn ra rd stl => Sys2Proof.Machine.execVsfu mk fn ra rd stl s
  | .vclaim lg rd stl => Sys2Proof.Machine.execVclaim lg rd stl s
  | .vrel stl => Sys2Proof.Machine.execVrel stl s
  | .vlen rd stl => Sys2Proof.Machine.execVlen rd stl s
  | .vld mk ft ra rd stl => Sys2Proof.Machine.execVld mk ft ra rd stl s
  | .vlds mk rb ra rd stl => Sys2Proof.Machine.execVlds mk rb ra rd stl s
  | .vldx mk rb ra rd stl => Sys2Proof.Machine.execVldx mk rb ra rd stl s
  | .vst mk ra rd stl => Sys2Proof.Machine.execVst mk ra rd stl s
  | .vsts mk rb ra rd stl => Sys2Proof.Machine.execVsts mk rb ra rd stl s
  | .vstx mk rb ra rd stl => Sys2Proof.Machine.execVstx mk rb ra rd stl s
  | .vbc mk ft ra rd stl => Sys2Proof.Machine.execVbc mk ft ra rd stl s
  | .vperm mk rb ra rd stl => Sys2Proof.Machine.execVperm mk rb ra rd stl s
  | .vslide mk rb ra rd stl => Sys2Proof.Machine.execVslide mk rb ra rd stl s
  | .vred mk op ra rd stl => Sys2Proof.Machine.execVred mk op ra rd stl s
  | .vscan mk op ra rd stl => Sys2Proof.Machine.execVscan mk op ra rd stl s
  | .vmop mb ttLo ma ttHi md stl => Sys2Proof.Machine.execVmop mb ttLo ma ttHi md stl s
  | .vtag ft rd stl => Sys2Proof.Machine.execVtag ft rd stl s
  | .vxtr rb ra rd stl => Sys2Proof.Machine.execVxtr rb ra rd stl s
  | .mzero dbl ad stl => Sys2Proof.Machine.execMzero dbl ad stl s
  | .mzeroG dbl pd ad stl => Sys2Proof.Machine.execMzeroG dbl pd ad stl s
  | .mma rb ra ad stl => Sys2Proof.Machine.execMma rb ra ad stl s
  | .mmaResume rb ra ad stl => Sys2Proof.Machine.execMmaResume rb ra ad stl s
  | .mmag rb ra ad stl => Sys2Proof.Machine.execMmag rb ra ad stl s
  | .mmagResume rb ra ad stl => Sys2Proof.Machine.execMmagResume rb ra ad stl s
  | .mdrain grp rb ra ad stl => Sys2Proof.Machine.execMdrain grp rb ra ad stl s
  | .mfill rb ra ad stl => Sys2Proof.Machine.execMfill rb ra ad stl s
  | .astage rb ra rd stl => Sys2Proof.Machine.execAstage rb ra rd stl s
  | .pload rb ra rd stl => Sys2Proof.Machine.execPload rb ra rd stl s
  | .pevict ra stl => Sys2Proof.Machine.execPevict ra stl s
  | .pstat src ra rd stl => Sys2Proof.Machine.execPstat src ra rd stl s
  | .hspost hs stl => Sys2Proof.Machine.execHspost hs stl s
  | .hswait hs stl => Sys2Proof.Machine.execHswait hs stl s
  | .copy rb ra stl => Sys2Proof.Machine.execCopy rb ra stl s
  | .gath rb ra stl => Sys2Proof.Machine.execGath rb ra stl s
  | .gathCb rb ra stl => Sys2Proof.Machine.execGathCb rb ra stl s
  | .scat rb ra stl => Sys2Proof.Machine.execScat rb ra stl s
  | .mgopen rb ra stl => Sys2Proof.Machine.execMgopen rb ra stl s
  | .mgfeed rb ra stl => Sys2Proof.Machine.execMgfeed rb ra stl s
  | .mgclose ra stl => Sys2Proof.Machine.execMgclose ra stl s
  | .qfence qs stl => Sys2Proof.Machine.execQfence qs stl s
  | .evwait nb ev rd stl => Sys2Proof.Machine.execEvwait nb ev rd stl s
  | .sbind dir sz gen ra rd stl => Sys2Proof.Machine.execSbind dir sz gen ra rd stl s
  | .sunbind gen stl => Sys2Proof.Machine.execSunbind gen stl s
  | .bankset mode ra pd stl => Sys2Proof.Machine.execBankset mode ra pd stl s
  | .spset ra pd stl => Sys2Proof.Machine.execSpset ra pd stl s
  | .aadd noRet ty rb ra rd stl => Sys2Proof.Machine.execAadd noRet ty rb ra rd stl s
  | .aand noRet ty rb ra rd stl => Sys2Proof.Machine.execAand noRet ty rb ra rd stl s
  | .aor noRet ty rb ra rd stl => Sys2Proof.Machine.execAor noRet ty rb ra rd stl s
  | .axor noRet ty rb ra rd stl => Sys2Proof.Machine.execAxor noRet ty rb ra rd stl s
  | .amin noRet ty rb ra rd stl => Sys2Proof.Machine.execAmin noRet ty rb ra rd stl s
  | .amax noRet ty rb ra rd stl => Sys2Proof.Machine.execAmax noRet ty rb ra rd stl s
  | .aswap noRet ty rb ra rd stl => Sys2Proof.Machine.execAswap noRet ty rb ra rd stl s
  | .acas noRet ty rb ra rd stl => Sys2Proof.Machine.execAcas noRet ty rb ra rd stl s
  | .acasq noRet rb ra rd stl => Sys2Proof.Machine.execAcasq noRet rb ra rd stl s
  | .afadd noRet ty rb ra rd stl => Sys2Proof.Machine.execAfadd noRet ty rb ra rd stl s
  | .afmin noRet ty rb ra rd stl => Sys2Proof.Machine.execAfmin noRet ty rb ra rd stl s
  | .afmax noRet ty rb ra rd stl => Sys2Proof.Machine.execAfmax noRet ty rb ra rd stl s
  | .atopk noRet rb ra rd stl => Sys2Proof.Machine.execAtopk noRet rb ra rd stl s
  | .vatom noRet op rb ra rd stl => Sys2Proof.Machine.execVatom noRet op rb ra rd stl s
  | .aflag ra rd stl => Sys2Proof.Machine.execAflag ra rd stl s
  | .fence scope stl => Sys2Proof.Machine.execFence scope stl s
  | .tfence page scope ra stl => Sys2Proof.Machine.execTfence page scope ra stl s
  | .bmask ra stl => Sys2Proof.Machine.execBmask ra stl s
  | .barv ch stl => Sys2Proof.Machine.execBarv ch stl s
  | .bwait ch stl => Sys2Proof.Machine.execBwait ch stl s
  | .btest ch pd stl => Sys2Proof.Machine.execBtest ch pd stl s
  | .mbinit rb ra stl => Sys2Proof.Machine.execMbinit rb ra stl s
  | .mbarv scope ra rd stl => Sys2Proof.Machine.execMbarv scope ra rd stl s
  | .mbwait scope rb ra rd stl => Sys2Proof.Machine.execMbwait scope rb ra rd stl s
  | .mbtest scope ra rd stl => Sys2Proof.Machine.execMbtest scope ra rd stl s
  | .swinit rb ra stl => Sys2Proof.Machine.execSwinit rb ra stl s
  | .swwait scope rb ra rd stl => Sys2Proof.Machine.execSwwait scope rb ra rd stl s
  | .swtest scope ra rd stl => Sys2Proof.Machine.execSwtest scope ra rd stl s
  | .qpush nb qn ra pd stl => Sys2Proof.Machine.execQpush nb qn ra pd stl s
  | .qpop nb qn pd rd stl => Sys2Proof.Machine.execQpop nb qn pd rd stl s
  | .qsend last rb ra stl => Sys2Proof.Machine.execQsend last rb ra stl s
  | .indesc sel word slot rd stl => Sys2Proof.Machine.execIndesc sel word slot rd stl s
  | .emit ra stl => Sys2Proof.Machine.execEmit ra stl s
  | .emitv rb ra stl => Sys2Proof.Machine.execEmitv rb ra stl s
  | .commit stl => Sys2Proof.Machine.execCommit stl s
  | .abort stl => Sys2Proof.Machine.execAbort stl s
  | .bop kHi rb ra kLo stl => Sys2Proof.Machine.execBop kHi rb ra kLo stl s
  | .bopEnd stl => Sys2Proof.Machine.execBopEnd stl s
  | .idem ra stl => Sys2Proof.Machine.execIdem ra stl s
  | .kld kn rd stl => Sys2Proof.Machine.execKld kn rd stl s
  | .kldX ra rd stl => Sys2Proof.Machine.execKldX ra rd stl s
  | .trap nHi nMid nLo stl => Sys2Proof.Machine.execTrap nHi nMid nLo stl s
  | .eret stl => Sys2Proof.Machine.execEret stl s
  | .eretFault stl => Sys2Proof.Machine.execEretFault stl s
  | .eretEnd stl => Sys2Proof.Machine.execEretEnd stl s
  | .crr cr rd stl => Sys2Proof.Machine.execCrr cr rd stl s
  | .crw cr ra stl => Sys2Proof.Machine.execCrw cr ra stl s
  | .ids rd stl => Sys2Proof.Machine.execIds rd stl s
  | .waiti ra rd stl => Sys2Proof.Machine.execWaiti ra rd stl s
  | .rspawn ra rd stl => Sys2Proof.Machine.execRspawn ra rd stl s
  | .ctxsw ra stl => Sys2Proof.Machine.execCtxsw ra stl s
  | .cIll n => Sys2Proof.Machine.execCIll n s
  | .cMov rs rd => Sys2Proof.Machine.execCMov rs rd s
  | .cAddi imm rd => Sys2Proof.Machine.execCAddi imm rd s
  | .cAdd rs rd => Sys2Proof.Machine.execCAdd rs rd s
  | .cSub rs rd => Sys2Proof.Machine.execCSub rs rd s
  | .cLdd uoff rd => Sys2Proof.Machine.execCLdd uoff rd s
  | .cStd uoff rs => Sys2Proof.Machine.execCStd uoff rs s
  | .cBeqz off rs => Sys2Proof.Machine.execCBeqz off rs s
  | .cBnez off rs => Sys2Proof.Machine.execCBnez off rs s
  | .cJ off => Sys2Proof.Machine.execCJ off s
  | .cRet => Sys2Proof.Machine.execCRet s
  | .cWait => Sys2Proof.Machine.execCWait s
  | .cNop => Sys2Proof.Machine.execCNop s
  | .cCmt => Sys2Proof.Machine.execCCmt s
  | .notify func proc slot => Sys2Proof.Machine.execNotify func proc slot s
  | .nop func proc slot => Sys2Proof.Machine.execNop func proc slot s
  | .start func proc slot => Sys2Proof.Machine.execStart func proc slot s
  | .seed func proc slot => Sys2Proof.Machine.execSeed func proc slot s
  | .await func proc slot => Sys2Proof.Machine.execAwait func proc slot s
  | .awaitCompletion func proc slot => Sys2Proof.Machine.execAwaitCompletion func proc slot s
  | .signal func proc slot => Sys2Proof.Machine.execSignal func proc slot s
  | .copyPacket func proc slot => Sys2Proof.Machine.execCopyPacket func proc slot s
  | .cpjump func proc slot => Sys2Proof.Machine.execCpjump func proc slot s
  | .cmdLoop func proc slot => Sys2Proof.Machine.execCmdLoop func proc slot s
  | .cmdIf func proc slot => Sys2Proof.Machine.execCmdIf func proc slot s
  | .cmdStart func proc slot => Sys2Proof.Machine.execCmdStart func proc slot s
  | .cmdSeed func proc slot => Sys2Proof.Machine.execCmdSeed func proc slot s
  | .cmdWait func proc slot => Sys2Proof.Machine.execCmdWait func proc slot s
  | .cmdSignal func proc slot => Sys2Proof.Machine.execCmdSignal func proc slot s
  | .cmdRet func proc slot => Sys2Proof.Machine.execCmdRet func proc slot s
  | .root func val => Sys2Proof.Machine.execRoot func val s
  | .qva func val => Sys2Proof.Machine.execQva func val s
  | .qoff func val => Sys2Proof.Machine.execQoff func val s
  | .ftail func val => Sys2Proof.Machine.execFtail func val s
  | .ntail func val => Sys2Proof.Machine.execNtail func val s
  | .retry func id => Sys2Proof.Machine.execRetry func id s
  | .deliver func id => Sys2Proof.Machine.execDeliver func id s
  | .nrel func val => Sys2Proof.Machine.execNrel func val s
  | .cstart func val => Sys2Proof.Machine.execCstart func val s
  | .compatThreadLoad core => Sys2Proof.Machine.execCompatThreadLoad core s
  | .freset func val => Sys2Proof.Machine.execFreset func val s
  | .slen val => Sys2Proof.Machine.execSlen val s
  | .map val => Sys2Proof.Machine.execMap val s
  | .nvec val => Sys2Proof.Machine.execNvec val s
  | .registerWrite func off val => Sys2Proof.Machine.execRegisterWrite func off val s
  | .powerOn image1 image2 => Sys2Proof.Machine.execPowerOn image1 image2 s
  | .lifecycleChange dest b0 nb => Sys2Proof.Machine.execLifecycleChange dest b0 nb s
  | .attestation nonce => Sys2Proof.Machine.execAttestation nonce s
  | .sieveMatch slice => Sys2Proof.Machine.execSieveMatch slice s
  | .overflowSweep region lslice => Sys2Proof.Machine.execOverflowSweep region lslice s
  | .groupArrival group cluster => Sys2Proof.Machine.execGroupArrival group cluster s
  | .dispatch group => Sys2Proof.Machine.execDispatch group s
  | .productInsert firing index => Sys2Proof.Machine.execProductInsert firing index s
  | .productAck firing index => Sys2Proof.Machine.execProductAck firing index s
  | .stabilityWave slice => Sys2Proof.Machine.execStabilityWave slice s
  | .waveReport => Sys2Proof.Machine.execWaveReport s
  | .regionComplete region => Sys2Proof.Machine.execRegionComplete region s
  | .completionTile region => Sys2Proof.Machine.execCompletionTile region s
  | .sliceEnd => Sys2Proof.Machine.execSliceEnd s
  | .sliceStart func => Sys2Proof.Machine.execSliceStart func s
  | .preemptStop core => Sys2Proof.Machine.execPreemptStop core s
  | .firingResume firing => Sys2Proof.Machine.execFiringResume firing s
  | .btimeExpiry region => Sys2Proof.Machine.execBtimeExpiry region s
  | .budget core => Sys2Proof.Machine.execBudget core s
  | .conflictAbort firing => Sys2Proof.Machine.execConflictAbort firing s
  | .sfuComplete cluster => Sys2Proof.Machine.execSfuComplete cluster s
  | .enginePerform cluster engine => Sys2Proof.Machine.execEnginePerform cluster engine s
  | .enginePiece cluster engine => Sys2Proof.Machine.execEnginePiece cluster engine s
  | .engineReport cluster engine => Sys2Proof.Machine.execEngineReport cluster engine s
  | .stagingPerform cluster cell => Sys2Proof.Machine.execStagingPerform cluster cell s
  | .matrixPerform cluster cell => Sys2Proof.Machine.execMatrixPerform cluster cell s
  | .panelReload cluster cell => Sys2Proof.Machine.execPanelReload cluster cell s
  | .phaseFlip channel span unit func => Sys2Proof.Machine.execPhaseFlip channel span unit func s
  | .bankModeChange cluster bank => Sys2Proof.Machine.execBankModeChange cluster bank s
  | .qsendBoundExpiry core => Sys2Proof.Machine.execQsendBoundExpiry core s
  | .waitiTimeout core => Sys2Proof.Machine.execWaitiTimeout core s
  | .claimHoldoffExpiry cluster cell => Sys2Proof.Machine.execClaimHoldoffExpiry cluster cell s
  | .descriptorEccError region lslice age => Sys2Proof.Machine.execDescriptorEccError region lslice age s
  | .engineInternalError cluster engine => Sys2Proof.Machine.execEngineInternalError cluster engine s
  | .dispatchLost group => Sys2Proof.Machine.execDispatchLost group s
  | .decodeFault bits => Sys2Proof.Machine.execDecodeFault bits s
  | .fetchFault cause addr => Sys2Proof.Machine.execFetchFault cause addr s
  | .uncorrectableError copy holder granule => Sys2Proof.Machine.execUncorrectableError copy holder granule s
  | .reset => Sys2Proof.Machine.execReset s
  | .vfEnable func => Sys2Proof.Machine.execVfEnable func s
  | .compatThreadResume core => Sys2Proof.Machine.execCompatThreadResume core s

end Sys2Proof.Machine
end

