-- ==== Sys2Proof/Machine/Turn.lean ====
section
/-! DEFINITION. One turn of the machine: a core fetches, decodes and runs one instruction (spec/08 R135 to R137; spec/19
R372; spec/11 R226); a replica is written back; the checker finds a mismatch (spec/20 R396). -/

namespace Sys2Proof.Machine
open Host

/-- An undo routine has returned (R226): the next entry runs, or the firing ends. -/
def State.undoReturned (s : State) (k : Nat) : State :=
  let c := s.core k
  let n := c.ucnt - 1
  let s := s.setCore k (c.setUndo false n)
  if n = 0 then s.undoEnded k else s.callUndo k

/-- The core fetches and runs one instruction. -/
def State.runOne (s : State) (k : Nat) : Outcome State Fault Refusal :=
  match s.fetch k with
  | .instr t i => exec i t
  | .bad t bits => execDecodeFault bits t
  | .fault t (.tfault off) va => .next (t.tfault k va (BitVec.ofNat 64 va) false off)
  | .fault t .afault va => execFetchFault 7 (BitVec.ofNat 64 va) t
  | .fault t .poison va => execFetchFault 8 (BitVec.ofNat 64 va) t

/-- A trap that a core owes is taken, or waits for the SFU with what is owed kept (R189, R370). -/
def State.payTrap (s : State) (k code : Nat) (tval : Word) (paid : Core → Core) : State :=
  if s.trapWaits k code then s else (s.modCore k paid).takeTrap k code tval

/-- The turn of the current core. What it owes comes first: a TFAULT that was delivered (R387), the return of an undo routine, an abort that
it has been asked for (R72, R223) and that no issued COMMIT outruns (R213), a machine check (R396); then it stops where a pre-emption may
stop it (R382), and in the order of R372 a deferred POISON that is due, BUDGET and the resume note follow. Otherwise it runs one
instruction. -/
def State.coreTurn (s : State) : Outcome State Fault Refusal :=
  let k := s.cur
  let c := s.core k
  match c.run with
  | .idle => .next s
  | .out => .next s
  | .committed _ => .next s
  | _ =>
    if isSaved k || c.stopped || s.recordWaits k then .next s
    else if c.deliver then .next (s.payTrap k cTFAULT c.waitVa fun c => { c with deliver := false })
    else if c.undo && c.pc == undoReturn then .next (s.undoReturned k)
    else if !c.undo && !c.committing && (match s.firingOf k with | some f => f.doomed | none => false) then
      (match s.firingOf k with | some f => .next (s.abortFiring k f) | none => .next s)
    else if c.mayAbort && (match s.firingOf k with | some f => f.notified | none => false) then
      (match s.firingOf k with | some f => .next (s.abortFiring k f) | none => .next s)
    else if c.mchk.isSome then .next (s.payTrap k cMCHK (c.mchk.getD 0) fun c => { c with mchk := none })
    else if s.mustStop k then .next s
    else if c.mayOwe && !s.poisonDue k && c.budget.isSome then execBudget k s
    else if c.mayOwe && !s.poisonDue k && c.resumeNote then .next (s.payTrap k cSYS 0x8000 fun c => { c with resumeNote := false })
    else s.runOne k

/-- The register that an instruction of the scalar majors, FPS or the vector majors writes, and whether it is a vector register: what the
checker recomputes (R396). Register 0 stands for a result that goes to no register: of a branch, a store, a predicate or a mask (DESIGN
CHOICE, log entry 117). None for an instruction that the checker does not recompute, or that computes nothing. -/
def checkedReg (i : Instr) : Option (Bool × Nat) :=
  match i with
  | .add _ _ _ _ rd _ | .addL _ _ rd _ _ | .sub _ _ _ _ rd _ | .subL _ _ rd _ _ | .and _ _ _ _ rd _ | .andL _ _ rd _ _
  | .or _ _ _ _ rd _ | .orL _ _ rd _ _ | .xor _ _ _ _ rd _ | .xorL _ _ rd _ _ | .andn _ _ _ _ rd _ | .andnL _ _ rd _ _
  | .sll _ _ _ _ rd _ | .sllL _ _ rd _ _ | .srl _ _ _ _ rd _ | .srlL _ _ rd _ _ | .sra _ _ _ _ rd _ | .sraL _ _ rd _ _
  | .ror _ _ _ _ rd _ | .rorL _ _ rd _ _ | .mul _ _ _ _ rd _ | .mulL _ _ rd _ _ | .mulh _ _ _ _ rd _ | .mulhL _ _ rd _ _
  | .mulhu _ _ _ _ rd _ | .mulhuL _ _ rd _ _ | .div _ _ _ _ rd _ | .divL _ _ rd _ _ | .divu _ _ _ _ rd _ | .divuL _ _ rd _ _
  | .rem _ _ _ _ rd _ | .remL _ _ rd _ _ | .remu _ _ _ _ rd _ | .remuL _ _ rd _ _ | .min _ _ _ _ rd _ | .minL _ _ rd _ _
  | .max _ _ _ _ rd _ | .maxL _ _ rd _ _ | .minu _ _ _ _ rd _ | .minuL _ _ rd _ _ | .maxu _ _ _ _ rd _ | .maxuL _ _ rd _ _
  | .clz _ _ rd _ | .ctz _ _ rd _ | .popc _ _ rd _ | .sel _ _ _ rd _ | .selL _ _ rd _ _ | .addi _ _ rd _ | .andi _ _ rd _
  | .ori _ _ rd _ | .xori _ _ rd _ | .slli _ _ rd _ | .srli _ _ rd _ | .srai _ _ rd _ | .lui _ rd | .fli _ rd | .faddi _ rd
  | .fmuli _ rd | .jal _ rd _ | .jalr _ _ rd _ | .loop _ rd _ | .fadd _ _ _ _ rd _ | .faddL _ _ rd _ _ | .fsub _ _ _ _ rd _
  | .fsubL _ _ rd _ _ | .fmul _ _ _ _ rd _ | .fmulL _ _ rd _ _ | .fdiv _ _ _ _ rd _ | .fdivL _ _ rd _ _ | .fsqrt _ _ rd _
  | .fma _ _ _ _ rd _ | .fmaL _ _ rd _ _ | .fmad _ _ _ _ rd _ | .fmadL _ _ rd _ _ | .fnma _ _ _ _ rd _ | .fnmaL _ _ rd _ _
  | .fmin _ _ _ _ rd _ | .fminL _ _ rd _ _ | .fmax _ _ _ _ rd _ | .fmaxL _ _ rd _ _ | .fsgn _ _ _ _ rd _ | .fclass _ _ rd _
  | .fcvt _ _ _ rd _ | .fex2 _ rd _ | .flg2 _ rd _ | .frcp _ rd _ | .frsq _ rd _ | .fsinp _ rd _ | .fcosp _ rd _ | .vclaim _ rd _
  | .vlen rd _ | .vxtr _ _ rd _ | .cMov _ rd | .cAddi _ rd | .cAdd _ rd | .cSub _ rd | .cLdd _ rd => some (false, rd.toNat)
  | .vadd _ _ _ _ rd _ | .vsub _ _ _ _ rd _ | .vmul _ _ _ _ rd _ | .vfma _ _ _ _ rd _ | .vdiv _ _ _ _ rd _ | .vsqrt _ _ rd _
  | .vmin _ _ _ _ rd _ | .vmax _ _ _ _ rd _ | .vabs _ _ rd _ | .vneg _ _ rd _ | .vand _ _ _ _ rd _ | .vor _ _ _ _ rd _
  | .vxor _ _ _ _ rd _ | .vshl _ _ _ _ rd _ | .vshr _ _ _ _ rd _ | .vsra _ _ _ _ rd _ | .vsel _ _ _ _ rd _ | .vcvt _ _ _ rd _
  | .vsfu _ _ _ rd _ | .vld _ _ _ rd _ | .vlds _ _ _ rd _ | .vldx _ _ _ rd _ | .vbc _ _ _ rd _ | .vperm _ _ _ rd _ | .vslide _ _ _ rd _
  | .vred _ _ _ rd _ | .vscan _ _ _ rd _ | .vtag _ rd _ => some (true, rd.toNat)
  | .cmp .. | .cmpL .. | .plog .. | .cmpi .. | .beq .. | .bne .. | .blt .. | .bge .. | .bltu .. | .bgeu .. | .bpt .. | .bpf ..
  | .fcmp .. | .fcmpL .. | .vcmp .. | .vst .. | .vsts .. | .vstx .. | .vmop .. | .cStd .. | .cBeqz .. | .cBnez .. | .cJ .. | .cRet => some (false, 0)
  | _ => none

/-- The cr.tval of a source 1 MCHK (R396). -/
def checkerTval (r : Bool × Nat) : Word := BitVec.ofNat 64 (1 + r.2 * 2 ^ 8 + if r.1 then 2 ^ 13 else 0)

/-- A checker mismatch on the next instruction of core `k` (R396): once, the retry agrees and the event is counted; twice, the core is fenced,
and its firing, with what it has stored (R353), is kept to take MCHK on another core, or is lost when its state cannot be read. Nothing
happens where the core is not about to run an instruction that the checker recomputes. -/
def State.checkerMismatch (s : State) (k : Nat) (twice readable : Bool) : State :=
  if !s.runsOn k then s else
  match s.fetch k with
  | .bad _ _ => s
  | .fault _ _ _ => s
  | .instr s i =>
  match checkedReg i with
  | none => s
  | some reg =>
  let f := s.spaceOf k / 256
  let s := s.modFunc f fun x => { x with mclog := min (x.mclog + 1) (2 ^ 32 - 1) }
  if !twice then s else
  let fence (s : State) : State := s.modCore k fun c => { c with run := .out }
  let s := s.modFunc f fun x => { x with mclog := min (x.mclog + 1) (2 ^ 32 - 1) }
  match s.firingOf k with
  | none => fence ((s.endThread k 3).idleCore k)
  | some g =>
    if readable then
      let s := g.cores.foldl (fun s j => s.acquireAt j 1 true) (s.modCore k fun c => { c with mchk := some (checkerTval reg) })
      fence (s.saveFiring g)
    else
      match s.region? g.region with
      | none => fence s
      | some r =>
        if r.rolls then fence (if r.repeats < 2 then s.repeatStep r.id else (s.repeatStep r.id).dropFiring g)
        else fence ((s.faultRegion r.id (detailWord 38 0 0 (clusterOf k * 16 + idsUnit k))).dropFiring g)

/-- Control cycles pass: TRUN of the regions of the function on its slice advances, 1,700 cycles to the microsecond (R67, R84). -/
def State.pass (s : State) (n : Nat) : State :=
  let run (g : Region) : Region :=
    if s.onSlice g.space && !g.held then
      { g with cnt := { g.cnt with trun := g.cnt.trun + (g.trunRem + n) / 1700 }, trunRem := (g.trunRem + n) % 1700 }
    else g
  { s with clock := s.clock + n, regions := s.regions.map run }

/-- No sieve has anything to match: every tile is held, pending or in its overflow list, and no gang is forming. -/
def State.stillSieves (s : State) : Bool := s.tiles.all (fun t => t.held || t.pending || t.overflow) && !s.offers.any (·.forming)

/-- The match that a sieve starts in this cycle because exactly one pair has an enabled group (R430), or because no pair has one and one
forming gang is to be offered (R117). -/
def State.ownMatch (s : State) (sl : Nat) : State :=
  let ks := s.pairsAt sl
  let on := ks.filter s.pairEnabled
  let due := if on.isEmpty then ks.filter fun k => (s.servePair sl k).isSome else on
  if s.clock < tget 0 s.matchAt sl then s else
  match due with
  | [k] => match s.servePair sl k with
    | none => s
    | some u => s.served u sl k
  | _ => s

/-- The slices that hold a tile. -/
def State.tiledSlices (s : State) : List Nat := s.tiles.foldl (fun ns t => numPut ns (s.tileSlice t)) []

/-- Control cycles pass one by one, and before each every sieve with one matching pair serves it (R430); at once while no sieve has
anything to match. -/
def State.elapse (s : State) : Nat → State
  | 0 => s
  | n + 1 =>
    if s.stillSieves then s.pass (n + 1)
    else State.elapse ((s.tiledSlices.foldl State.ownMatch s).pass 1) n

/-- A turn of the agenda. A device step that names no part of the machine changes nothing. -/
def State.turn (s : State) (t : Turn) : Outcome State Fault Refusal :=
  match t with
  | .core k => State.coreTurn { s with cur := k }
  | .ev i => match encode i with
    | some _ => .fault .agendaInstruction
    | none => if wf i then exec i s else .next s
  | .elapse n => .next (s.elapse n)
  | .hostWrite a b => .next { s with host := s.host.write a [b] }
  | .writeBackL1 k n d => .next (s.writeBackL1 k n d)
  | .writeBackCluster c n d => .next (s.writeBackCluster c n d)
  | .writeBackHome n => .next (s.writeBackHome n)
  | .dropTlb k v => .next (s.modCore k fun c => { c with tlb := c.tlb.filter (fun e => e.vpn != v) })
  | .dropClusterTlb c v => .next (s.modCluster c fun x => { x with tlb := x.tlb.filter (fun e => e.vpn != v) })
  | .returnOwned c n => .next (s.returnOwned c n)
  | .ahead k g => .next (s.readAhead k g)
  | .refill sl => .next (s.refill sl)
  | .sfuFail c => .next (s.sfuFails c)
  | .checker k twice readable => .next (s.checkerMismatch k twice readable)
  | .accError cl ce a i v => .next (s.modCell cl ce fun c =>
      { c with accs := tset c.accs a (tset (tget [] c.accs a) i v), accBad := numPut c.accBad a })

/-! ## Placing an instruction for the next step -/

/-- A rule record of a PLAIN rule of arity 1 whose body starts where `withFetchWord` puts its bytes. -/
def probeRule : List Word := [1, 1, 0, 0, 0x1FFFFFFF004000, 0, 0, 0]

/-- A free region of process 0 of the PF with that one rule. -/
def probeRegion (id : Nat) : Region :=
  { id := id, func := 0, proc := 0, rcb := 0, parent := none, pass := 0, cdesc := 0,
    eff := { rules := [probeRule], kinds := 0, comm := 0, commRows := [], commInv := [], kbank := [], trap := 0,
             stepped := false, rollback := false, paired := false, prio := 0, fdom := 0, smap := 0, bfire := 0, bcore := 0,
             btile := 0, bmem := 0, btime := 0, frmi := 0 },
    state := .active, cstat := 0, spent := [], faulted := false, detail := 0, killed := false, orphan := false, step := 0,
    held := false, escalated := false, cnt := .zero, ndisp1 := 0, trunRem := 0, ages := [], ptrs := [], fseqs := [], swept := [], dirty := [],
    lastIdle := none, wave := none, snap := none, shd := [], frames := [], repeats := 0, bornStep := 0, tileDue := false, doneDue := false }

/-- A firing of that region on core `k`. -/
def probeFiring (id region k : Nat) : Firing :=
  { id := id, region := region, copy := 0, rule := 0, lslice := 0, tiles := [], fseq := 0, at_ := 0, order := 0, member := 0, gsize := 1, gang := 0,
    stamp := 0, cores := [k], committed := [], products := [], retired := false, notified := false, doomed := false, kept := false, cells := [] }

/-- The current core runs a firing: the one it runs already, or one of a region put into the state for it. -/
def State.withRun (s : State) : State :=
  match s.firingOf s.cur with
  | some _ => s
  | none =>
    let s := { s with regions := probeRegion s.nextRegion :: s.regions, firings := probeFiring s.nextFiring s.nextRegion s.cur :: s.firings,
                      nextRegion := s.nextRegion + 1, nextFiring := s.nextFiring + 1, life := .run }
    s.modCore s.cur fun c => { c with run := .firing (s.nextFiring - 1) }

/-- Bytes put at 0x4000 of the current core's system area, with its PC there, nothing owed and no agenda. -/
def State.withCode (s : State) (bs : List Byte) : State :=
  let s := { s with agenda := [] }.withRun
  s.modCore s.cur fun c =>
    { c with arr := c.arr.write 0x4000 bs, pc := 0x1FFFFFFF004000, hide := [], undo := false, mchk := none, budget := none,
             resumeNote := false, waitRecord := none, deliver := false, stopped := false, preempt := false, committing := false,
             pend := [], vpend := [] }

end Sys2Proof.Machine
end

