-- ==== Sys2Proof/Machine/Step.lean ====
section
/-! DEFINITION. One step of the machine, and how a test places an instruction for the next step. -/

namespace Sys2Proof.Machine
open Host

/-- One step: the agenda's first turn, or with an empty agenda the current core's (log entry 1). -/
def step (s : State) : Outcome State Fault Refusal :=
  match s.agenda with
  | [] => s.coreTurn
  | t :: r => State.turn { s with agenda := r } t

/-- The instruction whose bits are `w` stored where the next step fetches: the current core's system area at 0x4000, eight
bytes long (the longest instruction), with the core running a firing. -/
def State.withFetchWord (s : State) (nbits w : Nat) : State := s.withCode (leBytes 8 (w % 2 ^ nbits))

end Sys2Proof.Machine
end

