-- ==== Sys2Proof/Safety.lean ====
section
/-! DEFINITION. What counts as a safe state and a safe step, and the words that statements about one step are made of. -/

namespace Sys2Proof

/-- Every memory of the state has its canonical form: HBM and the host's memory, the cores' arrays, the clusters' banks, column stores
and A buffers, and what is saved of them (R237, R298). -/
def Machine.State.memOk (s : Machine.State) : Bool :=
  s.hbm.wf && s.host.wf && s.cores.all (fun e => e.2.arr.wf) &&
  s.clusters.all (fun e => e.2.bankMem.wf && e.2.store.wf && e.2.cells.all (fun c => c.2.abuf.wf)) &&
  s.funcs.all (fun e => e.2.saved.all fun x => x.bankMem.wf) && s.firings.all (fun f => f.cells.all fun c => c.2.abuf.wf)

/-- A step of the machine does not stop. -/
def Machine.State.steps (s : Machine.State) : Prop := ∃ t, Machine.step s = .next t

namespace Machine

/-- Nothing that the current core issued is outstanding: no pending write (R131), no request or dropped result of the SFU
(R189). -/
structure Quiet (s : State) : Prop where
  pend : s.me.pend = []
  vpend : s.me.vpend = []
  lost : s.me.sfuLost = []
  sfu : ∀ r ∈ (s.cluster (clusterOf s.cur)).sfu, r.core ≠ s.cur

/-- No stream is bound to a register of the current core (R266). -/
def State.plain (s : State) (r : BitVec 5) : Prop := s.me.boundTo r.toNat = none

/-- The current core may write a register: no stream is bound to it, and the live-in check does not forbid it (R219). -/
def State.mayWrite (s : State) (r : BitVec 5) : Prop := s.plain r ∧ ¬ (s.me.idemOn = true ∧ s.me.imask.getLsbD r.toNat = true)

/-- The state at the issue of an instruction of `len` bytes: the current core's PC is at NPC, and its open region is not empty. -/
def State.at (s : State) (len : Nat) : State := s.modCore s.cur fun c => c.begin len

/-- The state in which an instruction has completed whose effect left `t`. -/
def State.past (t : State) (stl : BitVec 2) : State := t.modCore t.cur fun c => c.retired stl

/-- The state after an instruction of `len` bytes whose whole effect is `f` on the current core, the PC at NPC already. -/
def State.after (s : State) (len : Nat) (stl : BitVec 2) (f : Core → Core) : State :=
  s.setCore s.cur ((f (s.me.begin len)).retired stl)

/-- The second operand of an R-format instruction can be read: a constant, by a core that runs a firing of a region, or a
register that no stream is bound to (R151). -/
def State.hasB (s : State) (k : BitVec 1) (rb : BitVec 5) : Prop :=
  if k = 1 then (s.regionOf s.cur).isSome = true else s.plain rb

/-- That operand's value (R151). -/
def State.valB (s : State) (k : BitVec 1) (rb : BitVec 5) : Word :=
  if k = 1 then (match s.regionOf s.cur with | some g => g.eff.kbank.getD rb.toNat 0 | none => 0) else s.me.reg rb.toNat

/-- An instruction of `len` bytes has written `v` to register `rd` with latency `lat`, and done nothing else. -/
def State.wrote (s : State) (len : Nat) (stl : BitVec 2) (rd : BitVec 5) (v : Word) (lat : Nat) : State :=
  s.after len stl fun c => c.putReg rd.toNat v lat

/-- An instruction of `len` bytes has written predicate `pd`, and done nothing else. -/
def State.wroteP (s : State) (len : Nat) (stl : BitVec 2) (pd : BitVec 3) (b : Bool) : State :=
  s.after len stl fun c => c.putPred pd.toNat b 1

/-- An instruction has moved the current core's PC to `t`, the next fetch taking a time that R177 does not bind. -/
def State.jumped (s : State) (stl : BitVec 2) (t : BitVec 53) (f : Core → Core) : State :=
  s.tick.setCore s.cur (Core.retired { f s.me with pc := t, empty := false, cycle := (f s.me).cycle + Config.waitCycles s.fresh } stl)

end Machine
end Sys2Proof
end

