-- ==== Sys2Proof/Certificates/Slice0/Obligations.lean ====
section
/-! DEFINITION. The statements for the provers. Results are written in the terms of the spec (integers, widths, bit places), not
with the model's own result functions. -/

namespace Sys2Proof.Spec

/-! ## Values in the terms of the spec -/

/-- The width that W names (R158). -/
def width (w : BitVec 1) : Nat := if w = 1 then 32 else 64
/-- The low `n` bits read as unsigned. -/
def uns (n : Nat) (a : Word) : Nat := a.toNat % 2 ^ n
/-- The low `n` bits read as signed. -/
def sgn (n : Nat) (a : Word) : Int := if uns n a < 2 ^ (n - 1) then uns n a else (uns n a : Int) - 2 ^ n
/-- An integer modulo 2^n, sign-extended from bit n - 1 to 64 bits (R158). -/
def low (n : Nat) (v : Int) : Word := BitVec.ofInt 64 (if v % 2 ^ n < 2 ^ (n - 1) then v % 2 ^ n else v % 2 ^ n - 2 ^ n)
/-- Bit `i`. -/
def bit (a : Word) (i : Nat) : Bool := a.getLsbD i
/-- The signed value of an immediate field of `m` bits. -/
def imm {m : Nat} (x : BitVec m) : Int := x.toInt
/-- The number of zero bits above the highest set bit of the low `n` (R164). -/
def clz (n : Nat) (a : Word) : Nat := ((List.range n).find? fun i => a.getLsbD (n - 1 - i)).getD n
/-- The number of zero bits below the lowest set bit of the low `n` (R164). -/
def ctz (n : Nat) (a : Word) : Nat := ((List.range n).find? fun i => a.getLsbD i).getD n
/-- The number of set bits of the low `n` (R164). -/
def popc (n : Nat) (a : Word) : Nat := ((List.range n).filter fun i => a.getLsbD i).length
/-- A quotient rounded toward zero (R163): all ones by zero, and the one overflow wraps. -/
def quot (n : Nat) (a b : Int) : Word := if b = 0 then low n (-1) else low n (Int.sign a * Int.sign b * (a.natAbs / b.natAbs : Nat))
/-- The remainder, with the sign of the dividend (R163). -/
def rem (n : Nat) (a b : Int) : Word := if b = 0 then low n a else low n (Int.sign a * (a.natAbs % b.natAbs : Nat))
/-- A condition of CMP on two words at a width (R166). -/
def cond (cc : BitVec 2) (n : Nat) (a b : Word) : Bool :=
  if cc = 0 then decide (uns n a = uns n b) else if cc = 1 then decide (sgn n a < sgn n b)
  else if cc = 2 then decide (uns n a < uns n b) else decide (uns n (a &&& b) ≠ 0)

/-- The PC of a jump by a signed number of halfwords (R142, R149). -/
def by_ {m : Nat} (pc : BitVec 53) (off : BitVec m) : BitVec 53 := BitVec.ofInt 53 (pc.toNat + 2 * off.toInt)

end Sys2Proof.Spec

open Sys2Proof Sys2Proof.Machine Host

/-! ## Scalar instructions -/

/-- R161, R162, R158: the results of the integer operations with a register or constant operand. Everything else of the state is
as it was, but the PC, the cycle, and the pending write of a latency above 1. -/
def Obligations.AluRegisterForms : Prop :=
  ∀ (s : State) (k w : BitVec 1) (rb ra rd : BitVec 5) (stl : BitVec 2),
    Quiet s → s.plain ra → s.hasB k rb → s.mayWrite rd →
    let a := s.me.reg ra.toNat
    let b := s.valB k rb
    let n := Spec.width w
    let u := Spec.uns n a
    let sh := b.toNat % n
    let res (v : Int) (lat : Nat) : Outcome State Fault Refusal := .next (s.wrote 4 stl rd (Spec.low n v) lat)
    exec (.add k w rb ra rd stl) s = res (Spec.sgn n a + Spec.sgn n b) 1 ∧
    exec (.sub k w rb ra rd stl) s = res (Spec.sgn n a - Spec.sgn n b) 1 ∧
    exec (.and k w rb ra rd stl) s = res (a &&& b).toNat 1 ∧
    exec (.or k w rb ra rd stl) s = res (a ||| b).toNat 1 ∧
    exec (.xor k w rb ra rd stl) s = res (a ^^^ b).toNat 1 ∧
    exec (.andn k w rb ra rd stl) s = res (a &&& ~~~b).toNat 1 ∧
    exec (.sll k w rb ra rd stl) s = res (u * 2 ^ sh : Nat) 1 ∧
    exec (.srl k w rb ra rd stl) s = res (u / 2 ^ sh : Nat) 1 ∧
    exec (.sra k w rb ra rd stl) s = res (Spec.sgn n a / 2 ^ sh) 1 ∧
    exec (.ror k w rb ra rd stl) s = res (u / 2 ^ sh + u * 2 ^ (n - sh) : Nat) 1 ∧
    exec (.mul k w rb ra rd stl) s = res (Spec.sgn n a * Spec.sgn n b) 3 ∧
    exec (.mulh k w rb ra rd stl) s = res (Spec.sgn n a * Spec.sgn n b / 2 ^ n) 3 ∧
    exec (.mulhu k w rb ra rd stl) s = res (u * Spec.uns n b / 2 ^ n : Nat) 3 ∧
    exec (.min k w rb ra rd stl) s = res (min (Spec.sgn n a) (Spec.sgn n b)) 1 ∧
    exec (.max k w rb ra rd stl) s = res (max (Spec.sgn n a) (Spec.sgn n b)) 1 ∧
    exec (.minu k w rb ra rd stl) s = res (min u (Spec.uns n b) : Nat) 1 ∧
    exec (.maxu k w rb ra rd stl) s = res (max u (Spec.uns n b) : Nat) 1

/-- R151, R161, R162: the same operations with a literal word, sign-extended, as second operand; the next PC is 8 bytes on. -/
def Obligations.AluLiteralForms : Prop :=
  ∀ (s : State) (w : BitVec 1) (ra rd : BitVec 5) (stl : BitVec 2) (lit : BitVec 32),
    Quiet s → s.plain ra → s.mayWrite rd →
    let a := s.me.reg ra.toNat
    let b : Word := BitVec.ofInt 64 (Spec.imm lit)
    let n := Spec.width w
    let u := Spec.uns n a
    let sh := b.toNat % n
    let res (v : Int) (lat : Nat) : Outcome State Fault Refusal := .next (s.wrote 8 stl rd (Spec.low n v) lat)
    exec (.addL w ra rd stl lit) s = res (Spec.sgn n a + Spec.imm lit) 1 ∧
    exec (.subL w ra rd stl lit) s = res (Spec.sgn n a - Spec.imm lit) 1 ∧
    exec (.andL w ra rd stl lit) s = res (a &&& b).toNat 1 ∧
    exec (.orL w ra rd stl lit) s = res (a ||| b).toNat 1 ∧
    exec (.xorL w ra rd stl lit) s = res (a ^^^ b).toNat 1 ∧
    exec (.andnL w ra rd stl lit) s = res (a &&& ~~~b).toNat 1 ∧
    exec (.sllL w ra rd stl lit) s = res (u * 2 ^ sh : Nat) 1 ∧
    exec (.srlL w ra rd stl lit) s = res (u / 2 ^ sh : Nat) 1 ∧
    exec (.sraL w ra rd stl lit) s = res (Spec.sgn n a / 2 ^ sh) 1 ∧
    exec (.rorL w ra rd stl lit) s = res (u / 2 ^ sh + u * 2 ^ (n - sh) : Nat) 1 ∧
    exec (.mulL w ra rd stl lit) s = res (Spec.sgn n a * Spec.imm lit) 3 ∧
    exec (.mulhL w ra rd stl lit) s = res (Spec.sgn n a * Spec.imm lit / 2 ^ n) 3 ∧
    exec (.mulhuL w ra rd stl lit) s = res (u * Spec.uns n b / 2 ^ n : Nat) 3 ∧
    exec (.minL w ra rd stl lit) s = res (min (Spec.sgn n a) (Spec.imm lit)) 1 ∧
    exec (.maxL w ra rd stl lit) s = res (max (Spec.sgn n a) (Spec.imm lit)) 1 ∧
    exec (.minuL w ra rd stl lit) s = res (min u (Spec.uns n b) : Nat) 1 ∧
    exec (.maxuL w ra rd stl lit) s = res (max u (Spec.uns n b) : Nat) 1

/-- R163: quotients and remainders. A divisor of zero traps DIVZERO when DZTRAP is set, and gives all ones or the dividend when
it is not. -/
def Obligations.Divisions : Prop :=
  ∀ (s : State) (k w : BitVec 1) (rb ra rd : BitVec 5) (stl : BitVec 2) (lit : BitVec 32),
    Quiet s → s.plain ra → s.mayWrite rd →
    let a := s.me.reg ra.toNat
    let n := Spec.width w
    let dz (b : Word) : Bool := s.me.cr.frm.getLsbD 3 && decide (Spec.uns n b = 0)
    let out (len : Nat) (b : Word) (v : Word) : Outcome State Fault Refusal :=
      if dz b then .next (s.takeTrap s.cur 12 0) else .next (s.wrote len stl rd v 0);
    (s.hasB k rb →
      let b := s.valB k rb
      exec (.div k w rb ra rd stl) s = out 4 b (Spec.quot n (Spec.sgn n a) (Spec.sgn n b)) ∧
      exec (.divu k w rb ra rd stl) s = out 4 b (Spec.quot n (Spec.uns n a) (Spec.uns n b)) ∧
      exec (.rem k w rb ra rd stl) s = out 4 b (Spec.rem n (Spec.sgn n a) (Spec.sgn n b)) ∧
      exec (.remu k w rb ra rd stl) s = out 4 b (Spec.rem n (Spec.uns n a) (Spec.uns n b))) ∧
    (let b : Word := BitVec.ofInt 64 (Spec.imm lit);
      exec (.divL w ra rd stl lit) s = out 8 b (Spec.quot n (Spec.sgn n a) (Spec.sgn n b)) ∧
      exec (.divuL w ra rd stl lit) s = out 8 b (Spec.quot n (Spec.uns n a) (Spec.uns n b)) ∧
      exec (.remL w ra rd stl lit) s = out 8 b (Spec.rem n (Spec.sgn n a) (Spec.sgn n b)) ∧
      exec (.remuL w ra rd stl lit) s = out 8 b (Spec.rem n (Spec.uns n a) (Spec.uns n b)))

/-- R164, R165, R168, R169, R170, R178: counts, selection, immediates, upper immediates and the compact arithmetic. -/
def Obligations.ImmediatesAndMoves : Prop :=
  ∀ (s : State) (w : BitVec 1) (ps : BitVec 3) (rb ra rd : BitVec 5) (stl : BitVec 2) (lit : BitVec 32) (i12 : BitVec 12)
    (sh i6 : BitVec 6) (i20 : BitVec 20),
    Quiet s → s.mayWrite rd →
    let a := s.me.reg ra.toNat
    let n := Spec.width w
    let res (len : Nat) (q : BitVec 2) (v : Word) (lat : Nat) : Outcome State Fault Refusal := .next (s.wrote len q rd v lat);
    (s.plain ra →
      exec (.clz w ra rd stl) s = res 4 stl (BitVec.ofNat 64 (Spec.clz n a)) 1 ∧
      exec (.ctz w ra rd stl) s = res 4 stl (BitVec.ofNat 64 (Spec.ctz n a)) 1 ∧
      exec (.popc w ra rd stl) s = res 4 stl (BitVec.ofNat 64 (Spec.popc n a)) 1 ∧
      (s.plain rb → exec (.sel ps rb ra rd stl) s = res 4 stl (if s.me.pred ps.toNat then a else s.me.reg rb.toNat) 1) ∧
      exec (.selL ps ra rd stl lit) s = res 8 stl (if s.me.pred ps.toNat then a else BitVec.ofInt 64 (Spec.imm lit)) 1 ∧
      exec (.addi i12 ra rd stl) s = res 4 stl (Spec.low 64 (Spec.sgn 64 a + Spec.imm i12)) 1 ∧
      exec (.andi i12 ra rd stl) s = res 4 stl (a &&& BitVec.ofInt 64 (Spec.imm i12)) 1 ∧
      exec (.ori i12 ra rd stl) s = res 4 stl (a ||| BitVec.ofInt 64 (Spec.imm i12)) 1 ∧
      exec (.xori i12 ra rd stl) s = res 4 stl (a ^^^ BitVec.ofInt 64 (Spec.imm i12)) 1 ∧
      exec (.slli sh ra rd stl) s = res 4 stl (Spec.low 64 (a.toNat * 2 ^ sh.toNat : Nat)) 1 ∧
      exec (.srli sh ra rd stl) s = res 4 stl (Spec.low 64 (a.toNat / 2 ^ sh.toNat : Nat)) 1 ∧
      exec (.srai sh ra rd stl) s = res 4 stl (Spec.low 64 (Spec.sgn 64 a / 2 ^ sh.toNat)) 1 ∧
      exec (.cMov ra rd) s = res 2 0 a 1) ∧
    exec (.lui i20 rd) s = res 4 0 (Spec.low 32 (i20.toNat * 2 ^ 12 : Nat)) 0 ∧
    exec (.fli i20 rd) s = res 4 0 (BitVec.ofNat 64 (i20.toNat * 2 ^ 12)) 0 ∧
    (s.plain rb →
      let d := s.me.reg rd.toNat
      exec (.cAddi i6 rd) s = res 2 0 (Spec.low 64 (Spec.sgn 64 d + Spec.imm i6)) 1 ∧
      exec (.cAdd rb rd) s = res 2 0 (Spec.low 64 (Spec.sgn 64 d + Spec.sgn 64 (s.me.reg rb.toNat))) 1 ∧
      exec (.cSub rb rd) s = res 2 0 (Spec.low 64 (Spec.sgn 64 d - Spec.sgn 64 (s.me.reg rb.toNat))) 1)

/-- R166, R167: the predicates that comparisons and PLOG write; p0 takes no write. Only the predicate, the PC and the cycle
change. -/
def Obligations.Predicates : Prop :=
  ∀ (s : State) (k w : BitVec 1) (rb ra : BitVec 5) (cc : BitVec 2) (pa pb pd : BitVec 3) (stl tl th : BitVec 2)
    (lit : BitVec 32) (i12 : BitVec 12),
    Quiet s → s.plain ra →
    let a := s.me.reg ra.toNat
    let n := Spec.width w
    let res (len : Nat) (b : Bool) : Outcome State Fault Refusal := .next (s.wroteP len stl pd b);
    (s.hasB k rb → exec (.cmp k w rb ra cc pd stl) s = res 4 (Spec.cond cc n a (s.valB k rb))) ∧
    exec (.cmpL w ra cc pd stl lit) s = res 8 (Spec.cond cc n a (BitVec.ofInt 64 (Spec.imm lit))) ∧
    exec (.cmpi i12 ra cc pd stl) s = res 4 (Spec.cond cc 64 a (BitVec.ofInt 64 (Spec.imm i12))) ∧
    exec (.plog tl pb th pa pd stl) s =
      res 4 (Nat.testBit (th.toNat * 4 + tl.toNat) ((s.me.pred pa.toNat).toNat * 2 + (s.me.pred pb.toNat).toNat)) ∧
    (∀ b, pd ≠ 0 → (s.wroteP 4 stl pd b).me.pred pd.toNat = b) ∧
    (∀ b j, j < 8 → j ≠ pd.toNat ∨ j = 0 → (s.wroteP 4 stl pd b).me.pred j = s.me.pred j)

/-- R172, R173, R178, R142: a branch goes to its target when its condition holds and to the next instruction when it does not,
and changes nothing else. -/
def Obligations.Branches : Prop :=
  ∀ (s : State) (o12 : BitVec 12) (o6 : BitVec 6) (rb ra : BitVec 5) (pa : BitVec 3) (stl : BitVec 2),
    Quiet s → s.plain ra → s.plain rb →
    let a := s.me.reg ra.toNat
    let b := s.me.reg rb.toNat
    let go (c : Bool) : Outcome State Fault Refusal :=
      if c then .next (s.jumped stl (Spec.by_ s.me.pc o12) id) else .next (s.after 4 stl id)
    let goC (c : Bool) : Outcome State Fault Refusal :=
      if c then .next (s.jumped 0 (Spec.by_ s.me.pc o6) id) else .next (s.after 2 0 id)
    exec (.beq o12 rb ra stl) s = go (decide (a = b)) ∧
    exec (.bne o12 rb ra stl) s = go (decide (a ≠ b)) ∧
    exec (.blt o12 rb ra stl) s = go (decide (Spec.sgn 64 a < Spec.sgn 64 b)) ∧
    exec (.bge o12 rb ra stl) s = go (decide (Spec.sgn 64 b ≤ Spec.sgn 64 a)) ∧
    exec (.bltu o12 rb ra stl) s = go (decide (a.toNat < b.toNat)) ∧
    exec (.bgeu o12 rb ra stl) s = go (decide (b.toNat ≤ a.toNat)) ∧
    exec (.bpt o12 pa stl) s = go (s.me.pred pa.toNat) ∧
    exec (.bpf o12 pa stl) s = go (!s.me.pred pa.toNat) ∧
    exec (.cBeqz o6 ra) s = goC (decide (a = 0)) ∧
    exec (.cBnez o6 ra) s = goC (decide (a ≠ 0))

/-- R174, R175, R176, R178: jumps write NPC to the link register and go to their target; an odd target of JALR traps ALIGN; LOOP
counts its register down and goes on while it is not zero. -/
def Obligations.JumpsAndLoop : Prop :=
  ∀ (s : State) (o18 : BitVec 18) (o13 : BitVec 13) (o11 : BitVec 11) (ra rd : BitVec 5) (stl : BitVec 2),
    Quiet s → s.plain ra → s.mayWrite rd → s.mayWrite 0 → s.plain 1 →
    let pc := s.me.pc
    let link : Word := BitVec.ofNat 64 ((pc.toNat + 4) % 2 ^ 53)
    let t (r : Nat) (d : Int) : BitVec 53 := BitVec.ofInt 53 ((s.me.reg r).toNat + d)
    exec (.jal o18 rd stl) s = .next (s.jumped stl (Spec.by_ pc o18) fun c => c.putReg rd.toNat link 1) ∧
    exec (.jalr o13 ra rd stl) s =
      (if (t ra.toNat (2 * o13.toInt)).getLsbD 0 then
        .next (s.takeTrap s.cur 5 (BitVec.ofNat 64 (t ra.toNat (2 * o13.toInt)).toNat))
      else .next (s.jumped stl (t ra.toNat (2 * o13.toInt)) fun c => c.putReg rd.toNat link 1)) ∧
    exec .cRet s =
      (if (t 1 0).getLsbD 0 then .next (s.takeTrap s.cur 5 (BitVec.ofNat 64 (t 1 0).toNat))
      else .next (s.jumped 0 (t 1 0) id)) ∧
    exec (.cJ o11) s = .next (s.jumped 0 (Spec.by_ pc o11) id) ∧
    exec .cNop s = .next (s.after 2 0 id) ∧
    (let v := s.me.reg rd.toNat - 1;
      exec (.loop o18 rd stl) s =
        (if v = 0 then .next (s.wrote 4 stl rd 0 0)
        else .next (s.jumped stl (Spec.by_ pc o18) fun c => c.putReg rd.toNat v 0)))

/-! ## Registers, readiness and the live-in check -/

/-- R123, R131: what a result written to a register leaves: the register holds it (w0 keeps reading 0), no other register and no
byte of the array outside its doubleword changes, nor does a predicate, a control register, a generator, a vector register or a
tag; every other core, the clusters and all of memory are as they were; and the PC moves past the instruction. -/
def Obligations.RegisterWriteFrame : Prop :=
  ∀ (s : State) (len : Nat) (rd : BitVec 5) (stl : BitVec 2) (v : Word) (lat : Nat), s.me.arr.wf = true →
    let t := s.wrote len stl rd v lat
    t = s.setCore s.cur t.me ∧ t.me.pc = s.me.pc + BitVec.ofNat 53 len ∧
    t.me.cycle = s.me.cycle + 1 + stl.toNat ∧
    t.me.reg rd.toNat = (if rd = 0 then 0 else v) ∧
    (∀ n : Nat, n ≠ rd.toNat → t.me.reg n = s.me.reg n) ∧
    (∀ a : Nat, (rd = 0 ∨ a < s.me.regOff rd.toNat ∨ s.me.regOff rd.toNat + 8 ≤ a) → t.me.arr.byte a = s.me.arr.byte a) ∧
    t.me.preds = s.me.preds ∧ t.me.cr = s.me.cr ∧ t.me.gens = s.me.gens ∧ t.me.vregs = s.me.vregs ∧ t.me.masks = s.me.masks ∧
    t.me.vtags = s.me.vtags ∧ t.me.atags = s.me.atags ∧ t.me.evs = s.me.evs ∧ t.me.l1 = s.me.l1 ∧ t.me.ient = s.me.ient ∧
    t.me.imask = s.me.imask ∧ t.me.run = s.me.run ∧ (∀ k, k ≠ s.cur → t.core k = s.core k) ∧
    t.clusters = s.clusters ∧ t.hbm = s.hbm ∧ t.homes = s.homes ∧ t.host = s.host

/-- R131, R132, R219, for ADD with a register operand as the reader, and for ADD, MUL, ADDI and C.MOV as the writers: a result of latency
above 1 is not seen early. Until its cycle the register reads, to an ADD that issues, as it did before; with sbchk.CHK set that ADD traps
STALLCHK with the register's number and has no effect. With idemchk set, ADD, MUL, ADDI and C.MOV of a live-in register trap IDEMVIOL with
its number and change nothing else. -/
def Obligations.RegisterChecks : Prop :=
  (∀ (s : State) (k w : BitVec 1) (rb ra rd : BitVec 5) (stl : BitVec 2) (p : Pend),
     s.me.pend = [p] → s.me.vpend = [] → s.me.sfuLost = [] → (∀ r ∈ (s.cluster (clusterOf s.cur)).sfu, r.core ≠ s.cur) →
     p.loc = .w (s.me.regOff ra.toNat) → ra ≠ 0 → rd ≠ ra → rb ≠ ra → k = 0 → s.me.cycle < p.ready →
     s.plain ra → s.plain rb → s.mayWrite rd →
     (s.me.cr.sbchk.getLsbD 0 = true →
       exec (.add k w rb ra rd stl) s = .next (s.takeTrap s.cur 2 (BitVec.ofNat 64 ra.toNat))) ∧
     (s.me.cr.sbchk.getLsbD 0 = false →
       exec (.add k w rb ra rd stl) s = .next (s.wrote 4 stl rd
         (Spec.low (Spec.width w) (Spec.sgn (Spec.width w) p.old + Spec.sgn (Spec.width w) (s.me.reg rb.toNat))) 1))) ∧
  (∀ (s : State) (k w : BitVec 1) (rb ra rd : BitVec 5) (stl : BitVec 2) (i12 : BitVec 12),
     Quiet s → s.plain ra → s.hasB k rb → s.plain rd → s.me.isThread = false → s.me.cr.idemchk.getLsbD 0 = true →
     s.me.imask.getLsbD rd.toNat = true →
     exec (.add k w rb ra rd stl) s = .next (s.takeTrap s.cur 4 (BitVec.ofNat 64 rd.toNat)) ∧
     exec (.mul k w rb ra rd stl) s = .next (s.takeTrap s.cur 4 (BitVec.ofNat 64 rd.toNat)) ∧
     exec (.addi i12 ra rd stl) s = .next (s.takeTrap s.cur 4 (BitVec.ofNat 64 rd.toNat)) ∧
     exec (.cMov ra rd) s = .next (s.takeTrap s.cur 4 (BitVec.ofNat 64 rd.toNat)))

/-! ## Traps and system instructions -/

namespace Sys2Proof.Spec

/-- The current core enters its handler for a trap (R370): it is not in the handler context or an undo routine, its handler's
entry VA is not 0, no request of the SFU is outstanding, and its context block lies where blocks lie. -/
structure TakesTraps (s : State) : Prop where
  ctx : s.me.cr.ctx.toNat % 512 = 0
  place : s.me.cr.ctx.toNat = 0 ∨ 0x4000 ≤ s.me.cr.ctx.toNat
  range : s.me.cr.ctx.toNat ≤ 0x7E00
  undo : s.me.undo = false
  entry : ((s.me.arr.word 0x208).setWidth 53 : BitVec 53) &&& ~~~1 ≠ 0
  quiet : Quiet s
  arr : s.me.arr.wf = true

/-- Nothing of the state but the current core has changed. -/
def Own (s t : State) : Prop := t = s.setCore s.cur t.me

/-- The control registers of a block's CRS field, as words of the array (R127). -/
def crsAt (m : Memory) (o : Nat) : List Word := (List.range 8).map fun i => m.word (o + 0xC8 + 8 * i)

/-- The values that CRW accepts in a control register (R46, R47, R125, R369, R383). -/
def crwAllowed (s : State) (n : Nat) (v : Word) : Prop :=
  match n with
  | 0 => v.toNat % 256 = 0 ∧ (0x400 ≤ v.toNat ∧ v.toNat < 0x600 ∨ 0x4000 ≤ v.toNat ∧ v.toNat < 0x8000)
  | 2 => v.toNat < 2 ^ 53 ∧ v.toNat % 2 = 0
  | 3 => v.toNat < 2 ^ 15 ∧ v.toNat / 256 % 2 = 0
  | 4 => True
  | 5 => v.toNat < 32
  | 6 => v.toNat < 16 ∧ v.toNat % 8 ≤ 4
  | 7 => v.toNat < 2
  | 8 => v.toNat < 2
  | 9 => v.toNat < 4 ∧ v.toNat % 2 = s.me.cr.compat.toNat % 2
  | _ => False

/-- The lines of a mask that have been posted (R377). -/
def lines (s : State) (m : Nat) : Nat :=
  ((List.range 8).filter fun n => m.testBit n && decide (0 < (tget EvLine.zero s.me.evs n).count)).foldl (fun a n => a + 2 ^ n) 0

end Sys2Proof.Spec

/-- R370, R369, R127, R371: what taking a trap leaves. cr.epc, cr.cause (the origin's offset and the code) and cr.tval take the trap's
values, the block at cr.ctx holds the interrupted state, the handler context is current with its own registers, predicates and
workspace pointer, the PC is the handler's entry, and no other core and no memory changes.
A trap in the handler context, or with no handler, is not taken: the region faults with DETAIL reason 32 and the
trap's code, what the core has asked of the SFU is dropped, and the firing ends without effect on the pool; a trap in an undo routine
does the same (R226). A packet whose first word still waits is no longer open, as its QSEND has not been performed (R270); nothing else of another
unit changes. The rule, guard and slot fields of that DETAIL word are 0, which is log entry 15 (the model's choice). -/
def Obligations.TrapEntry : Prop :=
  (∀ (s : State) (code : Nat) (tval : Word), Spec.TakesTraps s → code < 256 → code ≠ 8 →
     let o := s.me.cr.ctx.toNat
     let t := s.takeTrap s.cur code tval
     Spec.Own (s.unopen s.cur) t ∧ ((∀ d, s.me.packet ≠ some (d, 0)) → Spec.Own s t) ∧
     t.me.cr.epc = s.me.pc.setWidth 64 ∧ t.me.cr.cause.toNat = o + code ∧ t.me.cr.tval = tval ∧ t.me.cr.ctx = 0x200 ∧
     t.me.pc = ((s.me.arr.word 0x208).setWidth 53 : BitVec 53) &&& ~~~1 ∧
     t.me.preds = (s.me.arr.word 0x210).setWidth 8 ∧ t.me.cr.wp.toNat = (s.me.arr.word 0x200).toNat / 256 % 128 * 256 ∧
     t.me.cr.frm = s.me.arr.word 0x2C8 ∧ t.me.cr.fflags = s.me.arr.word 0x2D0 ∧ t.me.cr.sbchk = s.me.arr.word 0x2D8 ∧
     t.me.cr.idemchk = s.me.arr.word 0x2E0 ∧
     t.me.arr.word o = s.me.cr.wp ∧ t.me.arr.word (o + 8) = s.me.pc.setWidth 64 ∧
     (t.me.arr.word (o + 0x10)).toNat = s.me.preds.toNat ||| 1 ∧
     Spec.crsAt t.me.arr o = [s.me.cr.frm, s.me.cr.fflags, s.me.cr.sbchk, s.me.cr.idemchk, s.me.cr.compat, t.me.cr.epc, t.me.cr.cause, tval] ∧
     t.me.arr.word (o + 0x108) = s.me.ient.setWidth 64 ∧
     (∀ a, a < o ∨ o + 0x118 ≤ a → t.me.arr.byte a = s.me.arr.byte a)) ∧
  (∀ (s : State) (code : Nat) (tval : Word) (f : Firing) (g : Region), Quiet s → code ≠ 8 → code < 256 →
     s.me.run = .firing f.id → s.firing? f.id = some f → s.region? f.region = some g → ruleClass (g.rule f.rule) = 0 ∨ s.me.undo = true →
     (s.me.undo = true ∨ s.me.cr.ctx = 0x200 ∨ ((s.me.arr.word 0x208).setWidth 53 : BitVec 53) &&& ~~~1 = 0) →
     ∃ u : State, Spec.Own (s.unopen s.cur) u ∧ u.me.cr.epc = s.me.pc.setWidth 64 ∧ u.me.cr.tval = tval ∧
       u.me.cr.cause.toNat = s.me.cr.ctx.toNat / 512 % 64 * 512 + code ∧
       let v := u.faultRegion f.region (BitVec.ofNat 64 (32 + code * 2 ^ 32))
       s.takeTrap s.cur code tval = if s.me.undo then v.dropFiring f else (v.dropSfu s.cur).dropFiring f)

/-- R374, R150, R154, R137, R372: TRAP n traps SYS with n; C.ILL and bits that are no instruction trap ILLOP with the bits; a fault
of the fetch traps with its address (a TFAULT where page faults are in hardware mode); a firing that owes BUDGET takes it once. None has
another effect. -/
def Obligations.TrapRaisers : Prop :=
  ∀ (s : State) (a b c : BitVec 5) (stl : BitVec 2) (n : BitVec 11) (bits : BitVec 32) (cause : BitVec 8) (addr : Word) (k which f : Nat),
    exec (.trap a b c stl) s = .next (s.takeTrap s.cur 13 (BitVec.ofNat 64 (a.toNat * 1024 + b.toNat * 32 + c.toNat))) ∧
    exec (.cIll n) s = .next (s.takeTrap s.cur 1 (BitVec.ofNat 64 (n.toNat * 32))) ∧
    exec (.decodeFault bits) s = .next (s.takeTrap s.cur 1 (BitVec.ofNat 64 bits.toNat)) ∧
    (cause = 7 ∨ cause = 8 → exec (.fetchFault cause addr) s = .next (s.takeTrap s.cur cause.toNat addr)) ∧
    (s.duty.getLsbD 1 = false → exec (.fetchFault 6 addr) s = .next (s.takeTrap s.cur 6 addr)) ∧
    ((s.core k).budget = some which → (s.core k).run = .firing f → (s.core k).cr.ctx ≠ 0x200 → (s.core k).undo = false →
      (s.core k).stopped = false → (s.core k).poisonAt = none → k < 0x10000 → s.sfuBusy k = false →
      exec (.budget k) s = .next ((s.modCore k fun c => { c with budget := none }).takeTrap k 11 (BitVec.ofNat 64 which)))

/-- R375, R371, R385: the three returns. Plain ERET loads every field of the block that ORIG names but its PC, makes that block
current and goes to cr.epc; the array, the other cores and memory stay. ERET.fault faults the region with the code in cr.cause;
ERET.end ends a compatibility thread with end word 1. Outside the handler context, and ERET.end in a firing, each traps ILLOP; that its value is
the instruction's bits is an inference (log entry 21). -/
def Obligations.HandlerReturns : Prop :=
  ∀ (s : State) (stl : BitVec 2), Quiet s →
    (s.me.cr.ctx = 0x200 →
      let o := s.me.cr.cause.toNat / 512 % 64 * 512
      ((o = 0 ∨ 0x4000 ≤ o ∧ o ≤ 0x7E00) → s.me.blockBad o = none →
        ∃ t, exec (.eret stl) s = .next t ∧ Spec.Own s t ∧ t.me.arr = s.me.arr ∧ t.me.cr.ctx.toNat = o ∧
          t.me.pc = s.me.cr.epc.setWidth 53 ∧ t.me.preds = (s.me.arr.word (o + 0x10)).setWidth 8 ∧
          t.me.cr.wp.toNat = (s.me.arr.word o).toNat / 256 % 128 * 256 ∧
          [t.me.cr.frm, t.me.cr.fflags, t.me.cr.sbchk, t.me.cr.idemchk, t.me.cr.compat, t.me.cr.epc, t.me.cr.cause, t.me.cr.tval] =
            Spec.crsAt s.me.arr o ∧
          t.me.ient = ((s.me.arr.word (o + 0x108)).setWidth 53 : BitVec 53) &&& ~~~1 ∧ t.me.imask = (s.me.arr.word (o + 0x110)).setWidth 32) ∧
      (¬ (o = 0 ∨ 0x4000 ≤ o ∧ o ≤ 0x7E00) → exec (.eret stl) s = .next (s.takeTrap s.cur 1 (BitVec.ofNat 64 o))) ∧
      exec (.eretFault stl) s = .next ((s.at 4).escalate s.cur (s.me.cr.cause.toNat % 256)) ∧
      exec (.eretEnd stl) s = (if s.me.isThread then .next ((s.at 4).endThread s.cur 1)
        else .next (s.takeTrap s.cur 1 (BitVec.ofNat 64 (0x1040001D + stl.toNat * 32))))) ∧
    (s.me.cr.ctx ≠ 0x200 →
      exec (.eret stl) s = .next (s.takeTrap s.cur 1 (BitVec.ofNat 64 (0x0040001D + stl.toNat * 32))) ∧
      exec (.eretFault stl) s = .next (s.takeTrap s.cur 1 (BitVec.ofNat 64 (0x0840001D + stl.toNat * 32))) ∧
      exec (.eretEnd stl) s = .next (s.takeTrap s.cur 1 (BitVec.ofNat 64 (0x1040001D + stl.toNat * 32))))

/-- R376, R373, R126, R125: CRR reads every control register, IDS reads cr.ids, and CRW writes the one it names, or traps ILLOP with
the value where that register does not accept it; no other register changes. That cr.epc does not accept an odd value is an inference (log
entry 17). -/
def Obligations.ControlRegisters : Prop :=
  ∀ (s : State) (n ra rd : BitVec 5) (stl : BitVec 2), Quiet s →
    (s.mayWrite rd → n.toNat ≤ 9 →
      exec (.crr n rd stl) s = .next (s.wrote 4 stl rd ([s.me.cr.wp, s.me.cr.ctx, s.me.cr.epc, s.me.cr.cause, s.me.cr.tval,
        s.me.cr.fflags, s.me.cr.frm, s.me.cr.sbchk, s.me.cr.idemchk, s.me.cr.compat].getD n.toNat 0) 0)) ∧
    (s.mayWrite rd → s.cur < 0x1000 → isGeneral s.cur = true →
      exec (.crr 10 rd stl) s = exec (.ids rd stl) s ∧
      ∃ v : Word, exec (.ids rd stl) s = .next (s.wrote 4 stl rd v 0) ∧ v.toNat % 64 = s.cur % 16 ∧ v.toNat / 64 % 4 = 0 ∧
        v.toNat / 2 ^ 16 % 256 = s.cur / 16) ∧
    (s.plain ra →
      let v := s.me.reg ra.toNat
      (Spec.crwAllowed s n.toNat v → ∃ c : Ctl,
        exec (.crw n ra stl) s = .next (s.after 4 stl fun x => { x with cr := c }) ∧
        [c.wp, c.ctx, c.epc, c.cause, c.tval, c.fflags, c.frm, c.sbchk, c.idemchk, c.compat] =
          [s.me.cr.wp, s.me.cr.ctx, s.me.cr.epc, s.me.cr.cause, s.me.cr.tval, s.me.cr.fflags, s.me.cr.frm, s.me.cr.sbchk,
            s.me.cr.idemchk, s.me.cr.compat].set n.toNat v) ∧
      (¬ Spec.crwAllowed s n.toNat v → exec (.crw n ra stl) s = .next (s.takeTrap s.cur 1 v)))

/-- R377, R178: a WAITI whose lines have been posted, or to which a pre-emption request or the end of its time has come, completes
and reports the lines; otherwise it closes the open region at its own PC, starts its time and stays. -/
def Obligations.LineWaits : Prop :=
  ∀ (s : State) (ra rd : BitVec 5) (stl : BitVec 2), Quiet s → s.plain ra → s.mayWrite rd → s.plain 0 → s.mayWrite 0 →
    let m := (s.me.reg ra.toNat).toNat % 256
    let ends (m : Nat) : Prop := Spec.lines s m ≠ 0 ∨ s.me.preempt = true ∨ s.me.waitOver = true
    let late (m : Nat) : Nat := if s.me.waitOver = true ∧ Spec.lines s m = 0 ∧ s.me.preempt = false then 256 else 0
    (ends m → exec (.waiti ra rd stl) s = .next (s.wrote 4 stl rd (BitVec.ofNat 64 (Spec.lines s m + late m)) 0)) ∧
    (ends 0 → exec .cWait s = .next (s.after 2 0 id)) ∧
    (s.me.isThread = false →
      (¬ ends m → ∃ t, exec (.waiti ra rd stl) s = .next t ∧ Spec.Own s t ∧ t.me.pc = s.me.pc ∧ t.me.arr = s.me.arr ∧
        t.me.ient = s.me.pc ∧ t.me.imask.toNat = 0xFFFFFFFE ∧ t.me.waitFrom = some (s.me.waitFrom.getD s.clock)) ∧
      (¬ ends 0 → ∃ t, exec .cWait s = .next t ∧ Spec.Own s t ∧ t.me.pc = s.me.pc ∧ t.me.arr = s.me.arr ∧
        t.me.ient = s.me.pc ∧ t.me.waitFrom = some (s.me.waitFrom.getD s.clock)))

/-- R379, R128: CTXSW saves the current context with every register live-in at NPC and takes up the one at the block it names, where a
region opens; an offset that names no block, or the handler context, traps ILLOP with the offset. -/
def Obligations.ContextSwitch : Prop :=
  ∀ (s : State) (ra : BitVec 5) (stl : BitVec 2), Quiet s → s.plain ra → s.me.undo = false → s.me.arr.wf = true →
    s.me.cr.ctx.toNat % 512 = 0 → s.me.cr.ctx.toNat < 0x8000 →
    let o := (s.me.reg ra.toNat).toNat
    let ok : Prop := o % 512 = 0 ∧ (o = 0 ∨ 0x4000 ≤ o ∧ o ≤ 0x7E00)
    let npc := s.me.pc + 4
    (ok → s.me.cr.ctx ≠ 0x200 → o ≠ s.me.cr.ctx.toNat → s.me.blockBad o = none →
      ∃ t, exec (.ctxsw ra stl) s = .next t ∧ Spec.Own s t ∧ t.me.cr.ctx.toNat = o ∧
        t.me.pc = ((s.me.arr.word (o + 8)).setWidth 53 : BitVec 53) &&& ~~~1 ∧
        t.me.preds = (s.me.arr.word (o + 0x10)).setWidth 8 ∧
        t.me.ient = t.me.pc ∧ t.me.imask.toNat = 0xFFFFFFFE ∧ t.me.ipc = s.me.pcnt ∧ t.me.pcnt = s.me.pcnt ∧
        t.me.arr.word (s.me.cr.ctx.toNat + 8) = npc.setWidth 64 ∧ t.me.arr.word (s.me.cr.ctx.toNat + 0x108) = npc.setWidth 64 ∧
        (∀ a, a < s.me.cr.ctx.toNat ∨ s.me.cr.ctx.toNat + 0x118 ≤ a → t.me.arr.byte a = s.me.arr.byte a)) ∧
    (¬ ok ∨ s.me.cr.ctx = 0x200 → exec (.ctxsw ra stl) s = .next (s.takeTrap s.cur 1 (s.me.reg ra.toNat)))

/-! ## Floating point -/

namespace Sys2Proof.Spec

/-- The format of W (R180). -/
def fmt (w : BitVec 2) : Fmt := if w = 0 then bf16 else if w = 1 then fp32 else fp64

/-- The number that a register holds in a format: its low bits (R39). -/
def num (f : Fmt) (a : Word) : Machine.Num := f.decode (a.toNat % 2 ^ (f.mb + f.eb + 1))

/-- The rational value of a finite number. -/
def rat : Machine.Num → Option ℚ
  | .fin n m e => some ((if n then -1 else 1) * (m : ℚ) * (2 : ℚ) ^ e)
  | _ => none

/-- An instruction of `len` bytes has written a floating-point result and raised flags (R39, R47). -/
def wroteF (s : State) (len : Nat) (stl : BitVec 2) (rd : BitVec 5) (r : Nat × Nat) (lat : Nat) : State :=
  s.after len stl fun c =>
    let d := c.putReg rd.toNat (BitVec.ofNat 64 r.1) lat
    { d with cr := { d.cr with fflags := d.cr.fflags ||| BitVec.ofNat 64 r.2 } }

/-- FSGN's result (R183): the canonical NaN, or the magnitude of `a` with the sign that the variant makes of those of `a` and `b`. -/
def fsgn (f : Fmt) (var : BitVec 2) (a b : Nat) : Nat :=
  let top := 2 ^ (f.mb + f.eb)
  let an := decide (a / top % 2 = 1)
  let bn := decide (b / top % 2 = 1)
  if (2 ^ f.eb - 1) * 2 ^ f.mb < a % top then f.canonNaN
  else a % top + (if (if var = 0 then bn else if var = 1 then !bn else an != bn) then top else 0)

/-- FCLASS's bit (R185), from the sign, the exponent field and the significand field of an encoding. -/
def fclass (f : Fmt) (a : Nat) : Nat :=
  let sg := a / 2 ^ (f.mb + f.eb) % 2
  let e := a / 2 ^ f.mb % 2 ^ f.eb
  let m := a % 2 ^ f.mb
  if e = 2 ^ f.eb - 1 then (if m = 0 then (if sg = 1 then 0 else 7) else if m < 2 ^ (f.mb - 1) then 8 else 9)
  else if e = 0 then (if m = 0 then (if sg = 1 then 3 else 4) else if sg = 1 then 2 else 5)
  else if sg = 1 then 1 else 6

/-- A literal word as an operand in a format (R151): widened exactly to FP64, whose NaNs keep sign and significand bits. -/
def lit (w : BitVec 2) (x : BitVec 32) : Word := litFps w x

end Sys2Proof.Spec

/-- R180, R181, R182, R183, R185: each arithmetic FPS form computes its exact result from the operands read in the format of W, rounds
it once in cr.frm's mode (FpRoundedResults says which neighbour of the exact result that is), writes it zero-extended and ORs its flags into
cr.fflags; nothing else changes. The register forms and the literal forms differ in the second operand and the next PC alone. -/
def Obligations.FpArithmetic : Prop :=
  ∀ (s : State) (k : BitVec 1) (w var : BitVec 2) (rb ra rd : BitVec 5) (stl : BitVec 2) (lit : BitVec 32),
    Quiet s → s.plain ra → s.mayWrite rd →
    let f := Spec.fmt w
    let m := s.me.cr.frm.toNat % 8
    let x := Spec.num f (s.me.reg ra.toNat)
    let d := Spec.num f (s.me.reg rd.toNat)
    let enc (v : Word) : Nat := v.toNat % 2 ^ (f.mb + f.eb + 1)
    let a := enc (s.me.reg ra.toNat)
    let out (len : Nat) (r : Nat × Nat) (lat : Nat) : Outcome State Fault Refusal := .next (Spec.wroteF s len stl rd r lat);
    (s.hasB k rb →
      let y := Spec.num f (s.valB k rb)
      exec (.fadd k w rb ra rd stl) s = out 4 (f.addNum m x y) 4 ∧
      exec (.fsub k w rb ra rd stl) s = out 4 (f.addNum m x y.flip) 4 ∧
      exec (.fmul k w rb ra rd stl) s = out 4 (f.ofNum m (mulNum x y)) 4 ∧
      exec (.fdiv k w rb ra rd stl) s = out 4 (f.div m x y) 0 ∧
      exec (.fma k w rb ra rd stl) s = out 4 (f.addNum m (mulNum x y) d) 4 ∧
      exec (.fmad k w rb ra rd stl) s = out 4 (f.addNum m (mulNum d x) y) 4 ∧
      exec (.fnma k w rb ra rd stl) s = out 4 (f.addNum m (mulNum x y).flip d) 4 ∧
      exec (.fmin k w rb ra rd stl) s = out 4 (f.minMax false false a (enc (s.valB k rb))) 4 ∧
      exec (.fmax k w rb ra rd stl) s = out 4 (f.minMax true false a (enc (s.valB k rb))) 4) ∧
    (let b := Spec.lit w lit
      let y := Spec.num f b
      exec (.faddL w ra rd stl lit) s = out 8 (f.addNum m x y) 4 ∧
      exec (.fsubL w ra rd stl lit) s = out 8 (f.addNum m x y.flip) 4 ∧
      exec (.fmulL w ra rd stl lit) s = out 8 (f.ofNum m (mulNum x y)) 4 ∧
      exec (.fdivL w ra rd stl lit) s = out 8 (f.div m x y) 0 ∧
      exec (.fmaL w ra rd stl lit) s = out 8 (f.addNum m (mulNum x y) d) 4 ∧
      exec (.fmadL w ra rd stl lit) s = out 8 (f.addNum m (mulNum d x) y) 4 ∧
      exec (.fnmaL w ra rd stl lit) s = out 8 (f.addNum m (mulNum x y).flip d) 4 ∧
      exec (.fminL w ra rd stl lit) s = out 8 (f.minMax false false a (enc b)) 4 ∧
      exec (.fmaxL w ra rd stl lit) s = out 8 (f.minMax true false a (enc b)) 4) ∧
    exec (.fsqrt w ra rd stl) s = out 4 (f.sqrt m x) 0 ∧
    exec (.fclass w ra rd stl) s = out 4 (2 ^ Spec.fclass f a, 0) 4 ∧
    (s.plain rb → exec (.fsgn var w rb ra rd stl) s = out 4 (Spec.fsgn f var a (enc (s.me.reg rb.toNat)), 0) 4)

/-- R184, R186, R171: FCMP writes its predicate with latency 4 and raises NV as its condition says, FCVT converts between the formats
of its fields, and FADDI and FMULI work in FP32 on the destination and the F20 constant. -/
def Obligations.FpComparesAndConverts : Prop :=
  ∀ (s : State) (k : BitVec 1) (w : BitVec 2) (rb ra rd : BitVec 5) (cc : BitVec 2) (pd : BitVec 3) (ci co : BitVec 4) (stl : BitVec 2)
    (lit : BitVec 32) (i20 : BitVec 20),
    Quiet s → s.plain ra →
    let f := Spec.fmt w
    let m := s.me.cr.frm.toNat % 8
    let x := Spec.num f (s.me.reg ra.toNat)
    let holds (y : Machine.Num) : Bool :=
      if cc = 0 then numCmp x y = some .eq else if cc = 1 then numCmp x y = some .lt
      else if cc = 2 then (numCmp x y = some .lt || numCmp x y = some .eq) else (x.isNaN || y.isNaN)
    let nv (y : Machine.Num) : Bool := if cc = 1 ∨ cc = 2 then (x.isNaN || y.isNaN) else (x.isSNaN || y.isSNaN)
    let cmp (len : Nat) (y : Machine.Num) : Outcome State Fault Refusal := .next (s.after len stl fun c =>
      let d := c.putPred pd.toNat (holds y) 4
      { d with cr := { d.cr with fflags := d.cr.fflags ||| (if nv y then 16 else 0) } });
    (s.hasB k rb → exec (.fcmp k w rb ra cc pd stl) s = cmp 4 (Spec.num f (s.valB k rb))) ∧
    exec (.fcmpL w ra cc pd stl lit) s = cmp 8 (Spec.num f (Spec.lit w lit)) ∧
    (s.mayWrite rd →
      (let r := ciEncode m co.toNat (ciDecode ci.toNat ((s.me.reg ra.toNat).toNat % 2 ^ ciWidth ci.toNat));
        ∃ v : Word, exec (.fcvt ci co ra rd stl) s = .next (Spec.wroteF s 4 stl rd (v.toNat, r.2) 4) ∧
          (co.toNat < 4 → v = Spec.low (8 * 2 ^ co.toNat) r.1) ∧ (4 ≤ co.toNat → v.toNat = r.1)) ∧
      (let d := Spec.num fp32 (s.me.reg rd.toNat)
       let c := Spec.num fp32 (BitVec.ofNat 64 (i20.toNat * 2 ^ 12))
       let m' := if m = 4 then 0 else m;
        exec (.faddi i20 rd) s = .next (Spec.wroteF s 4 0 rd (fp32.addNum m' d c) 0) ∧
        exec (.fmuli i20 rd) s = .next (Spec.wroteF s 4 0 rd (fp32.ofNum m' (mulNum d c)) 0)))

/-- R38, R181, R182, R47, R48, R187: the special cases, in BF16, FP32 and FP64 and in every mode: every NaN result is canonical, a signalling
operand or an invalid operation raises NV and nothing else, a finite nonzero value divided by zero is a signed infinity with DZ,
and minimum and maximum prefer a number to a NaN.
The rows of the table of special values; and R49, R50, R44, R48: what a conversion makes of a NaN, an infinity, a zero and an integral value
out of range or in it, in every destination, and the worked conversions. -/
def Obligations.FpSpecialCases : Prop :=
  (∀ (f : Fmt) (m : Nat) (x y : Machine.Num) (a b : Nat), f = bf16 ∨ f = fp32 ∨ f = fp64 →
     (x.isNaN = true ∨ y.isNaN = true →
       f.addNum m x y = (f.canonNaN, if x.isSNaN || y.isSNaN then 16 else 0) ∧
       f.ofNum m (mulNum x y) = (f.canonNaN, if x.isSNaN || y.isSNaN then 16 else 0) ∧
       f.div m x y = (f.canonNaN, if x.isSNaN || y.isSNaN then 16 else 0)) ∧
     (∀ n, f.addNum m (.inf n) (.inf !n) = (f.canonNaN, 16) ∧ f.div m (.inf n) (.inf (!n)) = (f.canonNaN, 16) ∧
       (∀ e z, f.ofNum m (mulNum (.inf n) (.fin z 0 e)) = (f.canonNaN, 16) ∧ f.div m (.fin n 0 e) (.fin z 0 e) = (f.canonNaN, 16)) ∧
       (∀ k e z e', k ≠ 0 → f.div m (.fin n k e) (.fin z 0 e') = (f.infEnc + (if n != z then f.signBit else 0), 8)) ∧
       (∀ k e, k ≠ 0 → f.sqrt m (.fin true k e) = (f.canonNaN, 16)) ∧ (∀ e, f.sqrt m (.fin n 0 e) = (if n then f.signBit else 0, 0)) ∧
       f.sqrt m (.inf true) = (f.canonNaN, 16)) ∧
     ((f.decode a).isNaN = true → (f.decode b).isNaN = false →
       (f.minMax false false a b).1 = b ∧ (f.minMax true false b a).1 = b ∧ (f.minMax false false b a).1 = b) ∧
     (f.canonNaN = if f = bf16 then 0x7FC0 else if f = fp32 then 0x7FC00000 else 0x7FF8000000000000)) ∧
  (sfuFn 0 0x7F800000 = (0x7F800000, 0) ∧ sfuFn 0 0xFF800000 = (0, 0) ∧ sfuFn 0 0x3F800000 = (0x40000000, 0) ∧
   sfuFn 0 0x43000000 = (0x7F800000, 5) ∧ sfuFn 0 0xC3160000 = (0, 3) ∧ sfuFn 0 0x00000000 = (0x3F800000, 0) ∧
   sfuFn 1 0x00000000 = (0xFF800000, 8) ∧ sfuFn 1 0x80000000 = (0xFF800000, 8) ∧ sfuFn 1 0xBF800000 = (0x7FC00000, 16) ∧
   sfuFn 1 0x41000000 = (0x40400000, 0) ∧ sfuFn 2 0x80000000 = (0xFF800000, 8) ∧ sfuFn 2 0x40800000 = (0x3E800000, 0) ∧
   sfuFn 2 0xFF800000 = (0x80000000, 0) ∧ sfuFn 3 0x40800000 = (0x3F000000, 0) ∧ sfuFn 3 0xBF800000 = (0x7FC00000, 16) ∧
   sfuFn 4 0x3F000000 = (0x3F800000, 0) ∧ sfuFn 4 0x40000000 = (0, 0) ∧ sfuFn 4 0xC0000000 = (0x80000000, 0) ∧
   sfuFn 5 0x3F000000 = (0, 0) ∧ sfuFn 5 0x3F800000 = (0xBF800000, 0) ∧ sfuFn 5 0x7F800000 = (0x7FC00000, 16)) ∧
  (∀ (m : Nat) (n sig : Bool) (e : Int) (k : Nat), m < 5 →
    (∀ c f, (c, f) ∈ [(11, bf16), (12, fp32), (13, fp64)] → ciEncode m c (.nan sig) = (f.canonNaN, if sig then 16 else 0) ∧
      ciEncode m c (.inf n) = (f.infEnc + (if n then f.signBit else 0), 0) ∧ ciEncode m c (.fin n 0 e) = (if n then f.signBit else 0, 0)) ∧
    ciEncode m 9 (.nan sig) = (0x80, if sig then 16 else 0) ∧ ciEncode m 8 (.nan sig) = (0, 16) ∧ ciEncode m 10 (.nan sig) = (0x77, 16) ∧
    ciEncode m 9 (.inf n) = (if n then 0xFF else 0x7F, 16) ∧ ciEncode m 8 (.inf n) = (if n then 0xF else 7, 16) ∧
    ciEncode m 10 (.inf n) = (if n then 0x88 else 0, 16) ∧
    ciEncode m 9 (.fin n 0 e) = (0, 0) ∧ ciEncode m 8 (.fin n 0 e) = (if n then 8 else 0, 0) ∧ ciEncode m 10 (.fin n 0 e) = (0x77, 0) ∧
    (∀ c, c < 8 →
      let w := 8 * 2 ^ (c % 4)
      let hi := if c < 4 then 2 ^ (w - 1) - 1 else 2 ^ w - 1
      let lo := if c < 4 then 2 ^ (w - 1) else 0
      ciEncode m c (.nan sig) = (0, 16) ∧ ciEncode m c (.inf n) = (if n then lo else hi, 16) ∧
      ciEncode m c (.fin n k 0) = (if n then (if k ≤ lo then (2 ^ w - k) % 2 ^ w else lo, if k ≤ lo then 0 else 16)
        else (if k ≤ hi then k else hi, if k ≤ hi then 0 else 16)))) ∧
  (([(0, 12, 11, 0x3F808000, 0x3F80, 1), (3, 12, 11, 0x3F808000, 0x3F81, 1), (0, 12, 9, 0x3E99999A, 0x32, 1), (1, 12, 9, 0x3E99999A, 0x31, 1),
      (0, 12, 9, 0x447A0000, 0x7F, 5), (1, 12, 9, 0xC47A0000, 0xFF, 5), (0, 12, 9, 0x3A83126F, 1, 3), (3, 12, 9, 0x3A83126F, 2, 3),
      (0, 12, 8, 0x40200000, 4, 1), (4, 12, 8, 0x40200000, 5, 1), (0, 12, 8, 0x40E00000, 7, 5), (1, 12, 8, 0x40E00000, 7, 1),
      (0, 9, 12, 0xB9, 0xBF100000, 0), (0, 9, 12, 0x80, 0x7FC00000, 0), (0, 12, 10, 0x3E99999A, 0x24, 1), (1, 12, 10, 0x3E99999A, 0x25, 1),
      (0, 12, 10, 0x3FE00000, 1, 1), (3, 12, 10, 0x3FE00000, 0, 1), (0, 12, 2, 0x4F000000, 0x7FFFFFFF, 16), (1, 12, 10, 0x40066666, 0, 5),
      (0, 12, 10, 0x3F400000, 0x12, 0), (0, 12, 10, 0xBFC00000, 0x89, 0), (0, 12, 8, 0xBDCCCCCD, 8, 3)] :
    List (Nat × Nat × Nat × Nat × Nat × Nat)).all fun r =>
      ciEncode r.1 r.2.2.1 (ciDecode r.2.1 r.2.2.2.1) == (r.2.2.2.2.1, r.2.2.2.2.2)) = true

namespace Sys2Proof.Spec

/-- The largest finite value of a format. -/
def top (f : Fmt) : ℚ := (rat (f.decode f.maxEnc)).getD 0

/-- The magnitude from which a result rounded to nearest exceeds the largest finite value: half a unit in the last place above it. -/
def overflowAt (f : Fmt) : ℚ := top f * (2 ^ (f.mb + 2) - 1) / (2 ^ (f.mb + 2) - 2)

/-- The finite value `y`, of even significand when `even`, is the neighbour of `x` among the values of the format that the mode asks for
(R45): nearest, ties to even, in codes 0 and 4; toward zero in 1, toward +∞ in 2, toward −∞ in 3. -/
def Neighbour (f : Fmt) (m : Nat) (x : ℝ) (y : ℚ) (even : Prop) : Prop :=
  (m = 0 ∨ m = 4 → |x| < overflowAt f ∧ ∀ c z, rat (f.decode c) = some z →
    |x - y| ≤ |x - z| ∧ (z ≠ y → |x - y| = |x - z| → even)) ∧
  (m = 1 → |(y : ℝ)| ≤ |x| ∧ 0 ≤ x * y ∧ ∀ c z, rat (f.decode c) = some z → |(z : ℝ)| ≤ |x| → 0 ≤ x * z → |z| ≤ |y|) ∧
  (m = 2 → x ≤ y ∧ ∀ c z, rat (f.decode c) = some z → x ≤ z → y ≤ z) ∧
  (m = 3 → y ≤ x ∧ ∀ c z, rat (f.decode c) = some z → z ≤ x → z ≤ y)

/-- An encoding and flags are the exact result `x` rounded once (R45, R48): NX says whether the value delivered differs from `x`; the value is
the mode's neighbour of `x`, with the sign of `x` where it is zero; or it is the infinity of the sign of `x`, where the mode delivers one. -/
def Rounds (f : Fmt) (m : Nat) (x : ℝ) (r : Nat × Nat) : Prop :=
  (r.2 % 2 = 0 ↔ ∃ y : ℚ, rat (f.decode r.1) = some y ∧ (y : ℝ) = x) ∧
  ((∃ n k e y, f.decode r.1 = .fin n k e ∧ rat (.fin n k e) = some y ∧ (k = 0 → x ≠ 0 → (n = true ↔ x < 0)) ∧
      Neighbour f m x y (r.1 % 2 = 0)) ∨
   (∃ n, f.decode r.1 = .inf n ∧ (n = true ↔ x < 0) ∧
      ((m = 0 ∨ m = 4) ∧ overflowAt f ≤ |x| ∨ (m = 2 ∧ n = false ∨ m = 3 ∧ n = true) ∧ top f < |x|)))

end Sys2Proof.Spec

/-- R45, R48, R181: FADD, FMUL, FMA, FDIV and FSQRT of finite numbers round the exact sum, product, product plus addend, quotient or square
root once: the result is the neighbour of the exact result that the mode asks for, or an infinity where the exact result lies beyond
the largest finite value and the mode delivers one; one that raises no NX delivers the exact result. -/
def Obligations.FpRoundedResults : Prop :=
  ∀ (f : Fmt) (m a b d : Nat), f = bf16 ∨ f = fp32 ∨ f = fp64 → m < 5 →
    ∀ qa qb qd : ℚ, Spec.rat (f.decode a) = some qa → Spec.rat (f.decode b) = some qb → Spec.rat (f.decode d) = some qd →
    let x := f.decode a
    let y := f.decode b
    let z := f.decode d;
    (((f.addNum m x y).2 % 2 = 0 → Spec.rat (f.decode (f.addNum m x y).1) = some (qa + qb)) ∧
     ((f.ofNum m (mulNum x y)).2 % 2 = 0 → Spec.rat (f.decode (f.ofNum m (mulNum x y)).1) = some (qa * qb)) ∧
     ((f.addNum m (mulNum x y) z).2 % 2 = 0 → Spec.rat (f.decode (f.addNum m (mulNum x y) z).1) = some (qa * qb + qd))) ∧
    Spec.Rounds f m (qa + qb) (f.addNum m x y) ∧ Spec.Rounds f m (qa * qb) (f.ofNum m (mulNum x y)) ∧
    Spec.Rounds f m (qa * qb + qd) (f.addNum m (mulNum x y) z) ∧
    (qb ≠ 0 → Spec.Rounds f m (qa / qb) (f.div m x y)) ∧
    (0 ≤ qa → Spec.Rounds f m (Real.sqrt qa) (f.sqrt m x))

/-- R187, R188, R189: a special function joins its cluster's queue with its operand, its context and the destination's doubleword; the
request at the head of a queue, and no other, is served: its result reaches that doubleword, and its flags cr.fflags of the context that
issued it: the current one, or the one whose block holds them.
Requests of one arithmetic cycle join in the order of R188: one that comes behind a core of a later place stays until the next cycle; among
the requests of one core the order is the order of the steps (log entry 8). That flags go where the issuing context's are is an inference (log
entry 25). -/
def Obligations.SpecialFunctionQueue : Prop :=
  ∀ (s : State) (ra rd : BitVec 5) (stl : BitVec 2), Quiet s → s.plain ra → s.mayWrite rd →
    let joins (fn : Nat) : Outcome State Fault Refusal := if s.inTurn uSFU = false then .next s else
      .next (((s.after 4 stl id).serve uSFU).modCluster (clusterOf s.cur) fun x =>
      { x with sfu := x.sfu ++ [{ core := s.cur, ctx := s.me.cr.ctx, fn := fn, dest := if rd = 0 then none else some (s.me.regOff rd.toNat), rd := rd.toNat,
                                  vd := none, mask := 0, args := [s.me.reg ra.toNat] }] });
    let fl (r : SfuReq) : Nat := r.ctx.toNat % 0x8000 + 0xD0;
    exec (.fex2 ra rd stl) s = joins 0 ∧ exec (.flg2 ra rd stl) s = joins 1 ∧ exec (.frcp ra rd stl) s = joins 2 ∧
    exec (.frsq ra rd stl) s = joins 3 ∧ exec (.fsinp ra rd stl) s = joins 4 ∧ exec (.fcosp ra rd stl) s = joins 5 ∧
    (∀ (cl : Nat) (r : SfuReq) (rest : List SfuReq) (off : Nat) (a : Word), (s.cluster cl).sfu = r :: rest → r.vd = none →
      r.dest = some off → r.args = [a] → (s.core r.core).arr.wf = true → (off + 8 ≤ fl r ∨ fl r + 8 ≤ off) →
      ∃ t, exec (.sfuComplete cl) s = .next t ∧ (t.cluster cl).sfu = rest ∧
        (t.core r.core).arr.word off = BitVec.ofNat 64 (sfuFn r.fn a.toNat).1 ∧
        (r.ctx = (s.core r.core).cr.ctx →
          (t.core r.core).cr.fflags = (s.core r.core).cr.fflags ||| BitVec.ofNat 64 (sfuFn r.fn a.toNat).2) ∧
        (r.ctx ≠ (s.core r.core).cr.ctx →
          (t.core r.core).cr = (s.core r.core).cr ∧ (t.core r.core).arr.word (fl r) =
            (s.core r.core).arr.word (fl r) ||| BitVec.ofNat 64 (sfuFn r.fn a.toNat).2) ∧
        (∀ x, (x < off ∨ off + 8 ≤ x) → (r.ctx = (s.core r.core).cr.ctx ∨ x < fl r ∨ fl r + 8 ≤ x) → (t.core r.core).arr.byte x = (s.core r.core).arr.byte x) ∧
        (∀ k, k ≠ r.core → t.core k = s.core k) ∧ (∀ n, n ≠ cl → t.cluster n = s.cluster n) ∧ t.hbm = s.hbm ∧ t.homes = s.homes)

/-! ## Loads, stores, streams and queues -/

namespace Sys2Proof.Spec

/-- The bytes that an SZ code accesses (R144). -/
def size (sz : BitVec 3) : Nat := [1, 2, 4, 8, 16, 1, 2, 4].getD sz.toNat 1

/-- A loaded number extended as its SZ says (R255). -/
def extend (sz : BitVec 3) (v : Nat) : Word :=
  if sz = 0 then low 8 v else if sz = 1 then low 16 v else if sz = 2 then low 32 v else BitVec.ofNat 64 v

/-- The address of a MEM instruction (R254). -/
def addr (s : State) (ra : BitVec 5) (off : BitVec 6) (n : Nat) : Nat :=
  ((((s.me.reg ra.toNat).toNat : Int) + off.toInt * n) % 2 ^ 53).toNat

/-- The first address of a core's own array in its windows (R122). -/
def sysBase : Nat := 0x1FFFFFFF000000

/-- An access of `n` bytes lies in the current core's own array: system area and scratchpad (R122, R230). -/
def inArray (s : State) (va n : Nat) : Prop := s.me.spN ≤ 16 ∧ sysBase ≤ va ∧ va + n ≤ sysBase + 0x8000 + s.me.spN * 0x4000

/-- An instruction has completed that closes the open region (R218); a compatibility thread has none. -/
def closed (c : Machine.Core) : Machine.Core := if c.isThread then c else c.boundary c.pc

/-- The registers, predicates, control registers and vector state of the current core are as before. -/
def SameRegs (s t : State) : Prop :=
  (∀ n, t.me.reg n = s.me.reg n) ∧ t.me.preds = s.me.preds ∧ t.me.cr = s.me.cr ∧ t.me.vregs = s.me.vregs ∧ t.me.masks = s.me.masks ∧
  t.me.vtags = s.me.vtags ∧ t.me.atags = s.me.atags

/-- A core has discarded what its streams have read ahead, from the first element on that lies in one of some 128-byte blocks (R267). -/
def forget (c : Machine.Core) (bs : List Place) : Machine.Core :=
  { c with ahead := c.ahead.map fun e => (e.1, e.2.takeWhile fun a => !(a.blocks.any bs.contains)) }

/-- The same for the blocks that hold `n` bytes from a place on. -/
def unread (c : Machine.Core) (p : Place) (n : Nat) : Machine.Core := forget c (p.blocks n)

/-- The current core has read `n` bytes at each of some addresses of its own array, in that order. -/
def looked (s : State) (vas : List Nat) (n : Nat) : State :=
  vas.foldl (fun s va => s.modCore s.cur fun c => unread c (.arr s.cur (va - sysBase)) n) s

/-- A pop of generator `i`, whose next element lies in the array of core `k`: the element read ahead, or the one that stands there (R266, R267). -/
def pop (k : Nat) (c : Machine.Core) (i : Nat) : Word × Machine.Core :=
  let g := c.gen i
  let next : Gen := { g with addr := g.addr + g.stride.setWidth 53, count := g.count - 1 }
  let o := g.addr.toNat - sysBase
  match tget [] c.ahead i with
  | a :: r =>
    let d := forget c a.blocks
    (a.value, { d with ahead := tset d.ahead i r }.setGen i next)
  | [] => (extend g.sz (leNat (c.arr.read o (size g.sz))), (unread c (.arr k o) (size g.sz)).setGen i next)

/-- The current core wrote `bs` at offset `o` of its array, but for the device's own offsets (R122). -/
def Stored (s t : State) (o : Nat) (bs : List Byte) : Prop :=
  (∀ i (h : i < bs.length), t.me.arr.byte (o + i) = if 0x600 ≤ o + i ∧ o + i < 0x4000 then s.me.arr.byte (o + i) else bs[i]) ∧
  (∀ a, a < o ∨ o + bs.length ≤ a → t.me.arr.byte a = s.me.arr.byte a)

end Sys2Proof.Spec

/-- R255, R254, R122, R178: loads from the core's own array. Each size reads its bytes little-endian and extends them as it says; LD.q
writes the register after its even one too; the base, the array and all of memory stay. What the core's streams have read ahead of the same
bytes is discarded, as it may be older (R353; log entry 131). -/
def Obligations.LocalLoads : Prop :=
  ∀ (s : State) (off u6 : BitVec 6) (hint : BitVec 2) (sz : BitVec 3) (ra rd : BitVec 5) (stl : BitVec 2), Quiet s →
    s.mayWrite rd → (∀ a, s.me.arr.isBad a = false) →
    (let va := Spec.addr s ra off (Spec.size sz)
      let o := va - Spec.sysBase
      s.plain ra → Spec.inArray s va (Spec.size sz) →
      let seen (c : Machine.Core) : Machine.Core := Spec.unread c (.arr s.cur o) (Spec.size sz)
      (sz ≠ 4 → exec (.ld off 0 hint sz ra rd stl) s =
        .next (s.after 4 stl fun c => (seen c).putReg rd.toNat (Spec.extend sz (leNat (s.me.arr.read o (Spec.size sz)))) 0)) ∧
      (sz = 4 → rd.toNat % 2 = 0 → s.mayWrite (rd + 1) → exec (.ld off 0 hint sz ra rd stl) s =
        .next (s.after 4 stl fun c => ((seen c).putReg rd.toNat (s.me.arr.word o) 0).putReg (rd.toNat + 1) (s.me.arr.word (o + 8)) 0))) ∧
    (let va := ((s.me.reg 2).toNat + 8 * u6.toNat) % 2 ^ 53;
      s.plain 2 → Spec.inArray s va 8 →
      exec (.cLdd u6 rd) s = .next (s.after 2 0 fun c =>
        (Spec.unread c (.arr s.cur (va - Spec.sysBase)) 8).putReg rd.toNat (s.me.arr.word (va - Spec.sysBase)) 0))

/-- R255, R254, R122, R178: stores into the core's own array write the low bytes of the register, or of the pair, little-endian at the
address computed and nowhere else; stores to the device's offsets 0x0600-0x3FFF are discarded. Elements read ahead that lie in a block stored
to are discarded, from the first one on (R267). -/
def Obligations.LocalStores : Prop :=
  ∀ (s : State) (off u6 : BitVec 6) (hint : BitVec 2) (sz : BitVec 3) (ra rd : BitVec 5) (stl : BitVec 2), Quiet s →
    s.plain rd → s.me.arr.wf = true → s.me.idemOn = false →
    (let va := Spec.addr s ra off (Spec.size sz)
      let o := va - Spec.sysBase
      let bs := if sz = 4 then leBytes 8 (s.me.reg rd.toNat).toNat ++ leBytes 8 (s.me.reg (rd.toNat + 1)).toNat
        else leBytes (Spec.size sz) (s.me.reg rd.toNat).toNat
      s.plain ra → (sz = 4 → rd.toNat % 2 = 0 ∧ s.plain (rd + 1)) → Spec.inArray s va (Spec.size sz) →
      ∃ t, exec (.st off 0 hint sz ra rd stl) s = .next t ∧ Spec.Own s t ∧ t.me.pc = s.me.pc + 4 ∧ Spec.Stored s t o bs ∧
        t.me.ahead = (Spec.unread s.me (.arr s.cur o) (Spec.size sz)).ahead ∧ t.me.gens = s.me.gens ∧
        t.me.preds = s.me.preds ∧ t.me.cr = s.me.cr ∧ t.me.vregs = s.me.vregs ∧ t.me.l1 = s.me.l1) ∧
    (let va := ((s.me.reg 2).toNat + 8 * u6.toNat) % 2 ^ 53;
      s.plain 2 → Spec.inArray s va 8 →
      ∃ t, exec (.cStd u6 rd) s = .next t ∧ Spec.Own s t ∧ t.me.pc = s.me.pc + 2 ∧
        Spec.Stored s t (va - Spec.sysBase) (leBytes 8 (s.me.reg rd.toNat).toNat) ∧
        t.me.preds = s.me.preds ∧ t.me.cr = s.me.cr ∧ t.me.vregs = s.me.vregs ∧ t.me.l1 = s.me.l1)

/-- R254, R219: an LD.aq or ST.rl that is not naturally aligned traps ALIGN with its address, and so does an access to an SO page; a load or
store whose translation fails traps AFAULT, or TFAULT where page faults are in hardware mode or the address space is off, with the failing
part's address; a load of poison traps POISON; with idemchk set a store over a live-in register traps IDEMVIOL with its number. No register
and no byte has been written: what the translation has asked of the home slices is all that stays. -/
def Obligations.MemoryChecks : Prop :=
  ∀ (s : State) (off : BitVec 6) (aq : BitVec 1) (hint : BitVec 2) (sz : BitVec 3) (ra rd : BitVec 5) (stl : BitVec 2), Quiet s →
    s.plain ra → s.me.poisonAt = none → s.plain rd → s.plain (rd + 1) →
    let n := Spec.size sz
    let va := Spec.addr s ra off n
    (va % n ≠ 0 → exec (.ld off 1 hint sz ra rd stl) s = .next (s.takeTrap s.cur 5 (BitVec.ofNat 64 va))) ∧
    (va % n ≠ 0 → exec (.st off 1 hint sz ra rd stl) s = .next (s.takeTrap s.cur 5 (BitVec.ofNat 64 va))) ∧
    (∀ u bad (ld : Bool), (s.at 4).translateParts s.cur (partsOf va n) (if ld then .load else .store) = (u, .error (.afault, bad)) →
      exec (if ld then .ld off 0 hint sz ra rd stl else .st off 0 hint sz ra rd stl) s =
        .next ((s.attempt s.cur 7 va n (if ld then .load else .store)).takeTrap s.cur 7 (BitVec.ofNat 64 bad))) ∧
    (∀ u bad offBit (ld : Bool), s.duty.getLsbD 1 = false ∨ offBit = true →
      (s.at 4).translateParts s.cur (partsOf va n) (if ld then .load else .store) = (u, .error (.tfault offBit, bad)) →
      let asked := s.attempt s.cur 6 va n (if ld then .load else .store)
      asked.duty = s.duty →
      exec (if ld then .ld off 0 hint sz ra rd stl else .st off 0 hint sz ra rd stl) s = .next (asked.takeTrap s.cur 6 (BitVec.ofNat 64 bad))) ∧
    (∀ s1 ts (ld : Bool), va % n ≠ 0 → ts.any (fun t => t.1.so) = true →
      (s.at 4).translateParts s.cur (partsOf va n) (if ld then .load else .store) = (s1, .ok ts) →
      exec (if ld then .ld off 0 hint sz ra rd stl else .st off 0 hint sz ra rd stl) s =
        .next ((s.attempt s.cur 5 va n (if ld then .load else .store)).takeTrap s.cur 5 (BitVec.ofNat 64 va))) ∧
    (∀ r, sz = 3 → 1 ≤ r → r < 32 → s.me.idemOn = true → s.me.imask.getLsbD r = true → va = Spec.sysBase + s.me.regOff r →
      Spec.inArray s va 8 → exec (.st off 0 hint sz ra rd stl) s = .next (s.takeTrap s.cur 4 (BitVec.ofNat 64 r))) ∧
    (aq = 0 → Spec.inArray s va n → s.me.arr.isBad (va - Spec.sysBase) = true →
      exec (.ld off aq hint sz ra rd stl) s = .next (s.takeTrap s.cur 8 (BitVec.ofNat 64 va)))

/-- R255, R257, R254, R240, R242, R238, R234: a load or store whose bytes lie in one page of device or host memory, or in a bank, completes,
with AQ or RL or without: the load writes the bytes that the core sees there (through a UO page perhaps older ones, R356), after which LD.aq
acquires; the store puts the register's low bytes there, before which ST.rl releases. What streams have read ahead is discarded where it lies in the
bytes' lines, and after LD.aq all of it (R267, R353; log entry 131). What a core stores is what it reads back, at a device address whatever the
hint and wherever the line was, and no byte beside it changes; a byte of which no copy is held reads as HBM has it. -/
def Obligations.StoreThenLoad : Prop :=
  (∀ (s s1 : State) (t : Target) (off : BitVec 6) (aq : BitVec 1) (hint : BitVec 2) (sz : BitVec 3) (ra rd : BitVec 5) (stl : BitVec 2),
    Quiet s → s.plain ra → (∀ c o, t.place ≠ .arr c o) →
    let n := Spec.size sz
    let va := Spec.addr s ra off n
    ((aq = 1 ∨ t.so = true) → va % n = 0) →
    (let s2 := s1.readUo s.cur t n
      let bs := (List.range n).map fun i => s2.seenByte s.cur t.ord (t.place.add i)
      let u := (s2.touch s.cur t (hintOf hint t.hint) n).modCore s.cur fun c =>
        let c := Spec.unread c t.place n
        if sz = 4 then (c.putReg rd.toNat (BitVec.ofNat 64 (leNat (bs.take 8))) 0).putReg (rd.toNat + 1) (BitVec.ofNat 64 (leNat (bs.drop 8))) 0
        else c.putReg rd.toNat (Spec.extend sz (leNat bs)) 0
      s.mayWrite rd → (sz = 4 → rd.toNat % 2 = 0 ∧ s.mayWrite (rd + 1)) →
      (s.at 4).translateParts s.cur (partsOf va n) .load = (s1, .ok [(t, n)]) →
      (∀ i, i < n → s2.seenBad s.cur t.ord (t.place.add i) = false) →
      exec (.ld off aq hint sz ra rd stl) s = .next (State.past
        (if aq = 1 then (u.acquireAt s.cur s.regionScope false).modCore s.cur fun c => { c with ahead := [] } else u) stl)) ∧
    (let bs := if sz = 4 then leBytes 8 (s.me.reg rd.toNat).toNat ++ leBytes 8 (s.me.reg (rd.toNat + 1)).toNat
        else leBytes n (s.me.reg rd.toNat).toNat
      let s0 := if aq = 1 then (s.at 4).release s.cur s.regionScope else s.at 4
      s.plain rd → (sz = 4 → rd.toNat % 2 = 0 ∧ s.plain (rd + 1)) → (aq = 1 → s.me.poisonAt = none) →
      s0.translateParts s.cur (partsOf va n) .store = (s1, .ok [(t, n)]) →
      exec (.st off aq hint sz ra rd stl) s = .next (State.past
        (((s1.hideBytes s.cur t.ord t.place bs).putBytes s.cur t.ord t.place (hintOf hint t.hint) bs).modCore s.cur fun c =>
          Spec.unread c t.place n) stl))) ∧
  (∀ (s : State) (k pa : Nat) (bs : List Byte) (h : Hint), pa % 128 + bs.length ≤ 128 → bs ≠ [] →
    let n := pa / 128
    (∀ o, o ≠ .so → s.ownerOf n = none ∨ s.ownerOf n = some (clusterOf k) →
      let t := s.putBytes k o (.dev pa) h bs
      (∀ i (hi : i < bs.length) r, r ≠ OrdClass.so → t.seenByte k r (.dev (pa + i)) = bs[i]) ∧
      ((lineFind (s.core k).l1 n).isSome = true → (∀ j, j < 128 → j < pa % 128 ∨ pa % 128 + bs.length ≤ j →
          (t.lineSeen k n).byte j = (s.lineSeen k n).byte j) ∧
        (∀ m, m ≠ n → t.lineSeen k m = s.lineSeen k m) ∧ t.homes = s.homes ∧ t.hbm = s.hbm)) ∧
    (s.ownerOf n = none →
      let t := s.putBytes k .so (.dev pa) h bs
      (∀ i (hi : i < bs.length), t.seenByte k .so (.dev (pa + i)) = bs[i]) ∧
      (∀ j, j < 128 → j < pa % 128 ∨ pa % 128 + bs.length ≤ j → (t.homeLine n).byte j = (s.homeLine n).byte j) ∧
      t.cores = (s.forgetUo k n).cores)) ∧
  (∀ (s : State) (k c a : Nat) (o : OrdClass) (bs : List Byte) (h : Hint), (s.cluster c).bankMem.wf = true → s.host.wf = true →
    let t := s.putBytes k o (.bank c a) h bs
    let u := s.putBytes k o (.host a) h bs
    (∀ i (hi : i < bs.length), t.seenByte k .rc (.bank c (a + i)) = bs[i] ∧ u.seenByte k .rc (.host (a + i)) = bs[i]) ∧
    (∀ x, x < a ∨ a + bs.length ≤ x → (t.cluster c).bankMem.byte x = (s.cluster c).bankMem.byte x ∧ u.host.byte x = s.host.byte x)) ∧
  (∀ (s : State) (k pa : Nat), lineFind (s.core k).l1 (pa / 128) = none → (s.cluster (clusterOf k)).ownedLine (pa / 128) = none →
    lineFind (s.cluster (clusterOf k)).cache (pa / 128) = none → s.ownerOf (pa / 128) = none → lineFind s.homes (pa / 128) = none →
    s.seenByte k .rc (.dev pa) = s.hbm.byte pa)

/-- R258, R259, R262, R136, R263, R325: PREF completes whatever it names, with no register changed; it brings in the line of an RC or UO page of
device memory with its hint, and does nothing else where a check fails or the line is another, but that a walk's reads have been asked of the
home slices; its translation fills no TLB and writes no page-table entry (log entry 96, the model's choice). DISC of a
line drops the core's, its cluster's and the home slice's copies without write-back.
A fence writes back and drops the replicas of its scope, with what a UO load might still have read behind them, discards what streams have read
ahead (R267), and lets fetch see the core's own stores, with no register changed; TFENCE also takes its address space's translations out of the
core's TLB and its cluster's. A deferred POISON traps at the fence instead. -/
def Obligations.CacheOperations : Prop :=
  (∀ (s : State) (off : BitVec 6) (hint : BitVec 2) (ra : BitVec 5) (stl : BitVec 2), Quiet s → s.plain ra →
     let va := Spec.addr s ra off 128
     (∃ t, exec (.pref off hint ra stl) s = .next t ∧ t.me.pc = s.me.pc + 4 ∧ t.me.arr = s.me.arr ∧ Spec.SameRegs s t ∧ t.me.tlb = s.me.tlb) ∧
     (0x1FFFFFF8000000 ≤ va → exec (.pref off hint ra stl) s = .next (s.after 4 stl id)) ∧
     (∀ u, (s.at 4).prefTarget s.cur va = (u, none) → u.cur = s.cur → exec (.pref off hint ra stl) s = .next (State.past u stl)) ∧
     (∀ u n pte, (s.at 4).prefTarget s.cur va = (u, some (n, pte)) → u.cur = s.cur → exec (.pref off hint ra stl) s = .next (State.past
         (if hintOf hint (pteHint pte) = .bypass then u.homeServe (clusterOf s.cur) n .bypass
         else u.touchLine s.cur n (hintOf hint (pteHint pte)) (pteClass pte == .uo)) stl)) ∧
     (∀ s1 t n pa, (s.at 4).translateParts s.cur (partsOf va 1) .disc = (s1, .ok [(t, n)]) → s1.cur = s.cur → t.place = .dev pa →
       ∃ u, exec (.disc off ra stl) s = .next u ∧ lineFind u.me.l1 (pa / 128) = none ∧
         lineFind (u.cluster (clusterOf s.cur)).cache (pa / 128) = none ∧ lineFind u.homes (pa / 128) = none ∧ u.hbm = s1.hbm)) ∧
  (∀ (s : State) (page : BitVec 1) (scope : BitVec 3) (ra : BitVec 5) (stl : BitVec 2), Quiet s → s.plain ra →
     let cl := clusterOf s.cur
     let seen (t : State) : Prop := t.me.hide = [] ∧ t.me.ahead = [] ∧ t.me.pc = s.me.pc + 4 ∧ t.me.arr = s.me.arr ∧ Spec.SameRegs s t ∧
       (scope ≠ 0 → t.me.l1 = [] ∧ t.me.uoOld = []) ∧ (2 ≤ scope.toNat → (t.cluster cl).cache = []);
     (s.me.poisonAt = none → ∃ t, exec (.fence scope stl) s = .next t ∧ seen t ∧ (scope = 0 → Spec.Own s t ∧ t.me.l1 = s.me.l1)) ∧
     (∀ a, s.me.poisonAt = some a →
       exec (.fence scope stl) s = .next ((s.modCore s.cur fun c => { c with poisonAt := none }).takeTrap s.cur 8 a)) ∧
     (s.me.poisonAt = none → ∃ t, exec (.tfence page scope ra stl) s = .next t ∧ seen t ∧
       (∀ e ∈ t.me.tlb ++ (t.cluster cl).tlb, e.space = t.spaceOf s.cur →
         page = 1 ∧ ¬ (e.vpn ≤ (s.me.reg ra.toNat).toNat % 2 ^ 53 / 2 ^ 13 ∧ (s.me.reg ra.toNat).toNat % 2 ^ 53 / 2 ^ 13 < e.vpn + e.pages))))

/-- R265, R264, R266, R267, for ADDI and SUB as the readers and ADDI as the writer: SBIND sets up the generator it names and changes nothing else,
unless another generator holds the register or the count needs more than 32 bits, which trap ILLOP; SUNBIND ends a binding and keeps address,
stride and count. A source bound to a read stream takes the next element, and the generator moves past it; at the end of the stream it is 0
and nothing moves; bound to a write stream it traps ILLOP. Of two sources bound to streams RA pops before RB, and one stream named by both
gives two consecutive elements. A destination bound to a write stream stores the result's low bytes
there, and at the end of the stream discards it.
A read stream reads ahead of its pops what stands at the next element's address then, at most eight elements of those its count leaves, and a pop
gives the element read ahead; SBIND and SUNBIND leave none. When it reads, and that it reads none in the current workspace and none whose access
would fail, is the model's choice (log entry 131). -/
def Obligations.Streams : Prop :=
  (∀ (s : State) (dir : BitVec 1) (sz : BitVec 3) (g : BitVec 2) (ra : BitVec 3) (rd : BitVec 4) (stl : BitVec 2), Quiet s →
     let r : BitVec 5 := BitVec.ofNat 5 (16 + rd.toNat)
     let q := 4 * ra.toNat
     let held : Prop := ∃ j, j < 4 ∧ j ≠ g.toNat ∧ (s.me.gen j).bound = true ∧ (s.me.gen j).reg = r
     (s.plain (BitVec.ofNat 5 q) ∧ s.plain (BitVec.ofNat 5 (q + 1)) ∧ s.plain (BitVec.ofNat 5 (q + 2)) →
       (¬ held → (s.me.reg (q + 2)).toNat < 2 ^ 32 → exec (.sbind dir sz g ra rd stl) s = .next (s.after 4 stl fun c =>
         { c with ahead := tdel c.ahead g.toNat }.setGen g.toNat
         { addr := (s.me.reg q).setWidth 53, stride := s.me.reg (q + 1), reg := r, bound := true, write := dir = 1, sz := sz,
           count := (s.me.reg (q + 2)).setWidth 32 })) ∧
       (held → exec (.sbind dir sz g ra rd stl) s = .next (s.takeTrap s.cur 1 (BitVec.ofNat 64 r.toNat))) ∧
       (¬ held → 2 ^ 32 ≤ (s.me.reg (q + 2)).toNat → exec (.sbind dir sz g ra rd stl) s = .next (s.takeTrap s.cur 1 (s.me.reg (q + 2))))) ∧
     exec (.sunbind g stl) s = .next (s.after 4 stl fun c =>
       { c with ahead := tdel c.ahead g.toNat }.setGen g.toNat { c.gen g.toNat with bound := false })) ∧
  (∀ (s : State) (i12 : BitVec 12) (ra rd : BitVec 5) (stl : BitVec 2) (i : Nat), Quiet s →
     let g := s.me.gen i
     let moved : Gen := { g with addr := g.addr + g.stride.setWidth 53, count := g.count - 1 }
     let n := Spec.size g.sz
     let o := g.addr.toNat - Spec.sysBase
     let k : Word := BitVec.ofInt 64 (Spec.imm i12);
     (s.me.boundTo ra.toNat = some i → g.reg = ra → s.mayWrite rd →
       (g.write = false → g.count = 0 → exec (.addi i12 ra rd stl) s = .next (s.wrote 4 stl rd k 1)) ∧
       (g.write = false → g.count ≠ 0 → g.sz ≠ 4 → Spec.inArray s g.addr.toNat n → (∀ a, s.me.arr.isBad a = false) →
         exec (.addi i12 ra rd stl) s = .next (s.after 4 stl fun c =>
           let p := Spec.pop s.cur c i
           p.2.putReg rd.toNat (p.1 + k) 1)) ∧
       (g.write = false → g.count ≠ 0 → s.me.arr.wf = true → ∀ a r, tget [] s.me.ahead i = a :: r →
         ∃ t, exec (.addi i12 ra rd stl) s = .next t ∧ Spec.Own s t ∧
         t.me.pc = s.me.pc + 4 ∧ t.me.gen i = moved ∧ t.me.reg rd.toNat = (if rd = 0 then 0 else a.value + k) ∧ tget [] t.me.ahead i = r) ∧
       (g.write = true → exec (.addi i12 ra rd stl) s = .next (s.takeTrap s.cur 1 (BitVec.ofNat 64 ra.toNat)))) ∧
     (s.me.boundTo rd.toNat = some i → g.reg = rd → s.plain ra →
       (g.write = true → g.count = 0 → exec (.addi i12 ra rd stl) s = .next (s.after 4 stl id)) ∧
       (g.write = true → g.count ≠ 0 → g.sz ≠ 4 → Spec.inArray s g.addr.toNat n → s.me.arr.wf = true → s.me.idemOn = false →
         ∃ t, exec (.addi i12 ra rd stl) s = .next t ∧ Spec.Own s t ∧ t.me.pc = s.me.pc + 4 ∧ t.me.gen i = moved ∧
           Spec.Stored s t o (leBytes n (s.me.reg ra.toNat + k).toNat) ∧ t.me.preds = s.me.preds ∧ t.me.cr = s.me.cr) ∧
       (g.write = false → exec (.addi i12 ra rd stl) s = .next (s.takeTrap s.cur 1 (BitVec.ofNat 64 rd.toNat))))) ∧
  (∀ (s : State) (rb ra rd : BitVec 5) (stl : BitVec 2) (i j : Nat), Quiet s → s.mayWrite rd →
     s.me.boundTo ra.toNat = some i → s.me.boundTo rb.toNat = some j → (∀ a, s.me.arr.isBad a = false) →
     let next (g : Gen) : Gen := { g with addr := g.addr + g.stride.setWidth 53, count := g.count - 1 }
     let ready (g : Gen) : Prop := g.write = false ∧ g.count ≠ 0 ∧ g.sz ≠ 4 ∧ Spec.inArray s g.addr.toNat (Spec.size g.sz)
     let a := s.me.gen i
     let b := if i = j then next a else s.me.gen j
     ready a → ready b → exec (.sub 0 0 rb ra rd stl) s = .next (s.after 4 stl fun c =>
       let p := Spec.pop s.cur c i
       let q := Spec.pop s.cur p.2 j
       q.2.putReg rd.toNat (Spec.low 64 (Spec.sgn 64 p.1 - Spec.sgn 64 q.1)) 1)) ∧
  (∀ (s : State) (k i : Nat),
     let c := s.core k
     let g := c.gen i
     let l := tget [] c.ahead i
     let va : Nat := (((g.addr.toNat : Int) + l.length * g.stride.toInt) % 2 ^ 53).toNat
     let o := va - Spec.sysBase
     let n := Spec.size g.sz
     let runs : Prop := (∃ f, c.run = .firing f) ∨ ∃ v w x y, c.run = .thread v w x y;
     (8 ≤ l.length ∨ g.count.toNat ≤ l.length → s.readAhead k i = s) ∧
     (runs → k < 0x10000 → c.stopped = false → g.bound = true → g.write = false → l.length < 8 → l.length < g.count.toNat →
       g.sz ≠ 4 → Spec.sysBase ≤ va → va + n ≤ Spec.sysBase + 0x8000 + c.spN * 0x4000 → c.spN ≤ 16 → (∀ a, c.arr.isBad a = false) →
       o + n ≤ c.regOff 0 ∨ c.regOff 32 ≤ o →
       let next : Ahead := { blocks := (Place.arr k o).blocks n, value := Spec.extend g.sz (leNat (c.arr.read o n)) }
       s.readAhead k i = s.modCore k fun c => { c with ahead := tset c.ahead i (l ++ [next]) }))

/-- R269, R270, R218, R271: QPUSH appends to its queue and QPOP takes the oldest word; on a full or empty queue the .nb form writes false and
goes on and the other waits at its own PC; a bank not in FIFO mode, or that has left it while the instruction waits, traps AFAULT with its window
address. QSEND opens its packet before its first word waits, appends to the queue of the cluster it names and holds it open until the .e word.
Requests of one arithmetic cycle are accepted in the order of R188: general cores, then stagers, then issuers. That one which comes behind a core of
a later place stays until the next cycle is an inference (log entry 8), and so are that a queue which the core's own packet holds counts as
full for its QPUSH too (log entry 29) and that a packet of a waiting first word holds its queue (log entry 30). -/
def Obligations.Queues : Prop :=
  ∀ (s : State) (nb last : BitVec 1) (qn : BitVec 4) (ra rb rd : BitVec 5) (pd : BitVec 3) (stl : BitVec 2), Quiet s →
    let cl := clusterOf s.cur
    let q := qn.toNat
    let f := (s.cluster cl).fifo q
    let window : Word := BitVec.ofNat 64 (0x1FFFFFFE000000 + (48 + q) * 0x20000)
    let left (c n : Nat) : Prop := s.me.qwait = some (c * 16 + n, true);
    ((s.cluster cl).mode (48 + q) ≠ .fifo ∨ left cl q →
      (s.plain ra → exec (.qpush nb qn ra pd stl) s = .next (s.takeTrap s.cur 7 window)) ∧
      exec (.qpop nb qn pd rd stl) s = .next (s.takeTrap s.cur 7 window)) ∧
    ((s.cluster cl).mode (48 + q) = .fifo → ¬ left cl q → s.inTurn (uQUEUE q) = false →
      (s.plain ra → exec (.qpush nb qn ra pd stl) s = .next s) ∧ exec (.qpop nb qn pd rd stl) s = .next s) ∧
    ((s.cluster cl).mode (48 + q) = .fifo → ¬ left cl q → s.inTurn (uQUEUE q) = true →
      let served (t : State) : Prop := if nb = 1 then t = (s.serve (uQUEUE q)).setCore s.cur t.me else Spec.Own s t;
      (s.plain ra → f.words.length < 16384 → f.holder = none → ∃ t, exec (.qpush nb qn ra pd stl) s = .next t ∧
        (t.cluster cl).fifo q = { words := f.words ++ [s.me.reg ra.toNat], holder := none } ∧ t.me.pc = s.me.pc + 4 ∧
        t.me.arr = s.me.arr ∧ (nb = 1 → t.me.pred pd.toNat = true) ∧ (nb = 0 → t.me.preds = s.me.preds) ∧
        (s.me.isThread = false → t.me.ient = s.me.pc + 4) ∧ (∀ c, c ≠ cl → t.cluster c = s.cluster c) ∧ t.hbm = s.hbm ∧ t.homes = s.homes) ∧
      (s.plain ra → 16384 ≤ f.words.length ∨ f.holder.isSome = true → ∃ t, served t ∧ t.me.arr = s.me.arr ∧
        exec (.qpush nb qn ra pd stl) s = .next t ∧
        (nb = 0 → t.me.pc = s.me.pc ∧ t.me.preds = s.me.preds ∧ t.me.qwait = some (cl * 16 + q, false)) ∧
        (nb = 1 → t.me.pc = s.me.pc + 4 ∧ (pd ≠ 0 → t.me.pred pd.toNat = false))) ∧
      (∀ w r, f.words = w :: r → s.plain rd → s.me.arr.wf = true → ∃ t, exec (.qpop nb qn pd rd stl) s = .next t ∧
        (t.cluster cl).fifo q = { f with words := r } ∧ t.me.reg rd.toNat = (if rd = 0 then 0 else w) ∧ t.me.pc = s.me.pc + 4 ∧
        (∀ n, n ≠ rd.toNat → t.me.reg n = s.me.reg n) ∧ (nb = 1 → t.me.pred pd.toNat = true) ∧ t.hbm = s.hbm ∧ t.homes = s.homes) ∧
      (f.words = [] → ∃ t, served t ∧ t.me.arr = s.me.arr ∧ exec (.qpop nb qn pd rd stl) s = .next t ∧
        (nb = 0 → t.me.pc = s.me.pc ∧ t.me.preds = s.me.preds ∧ t.me.qwait = some (cl * 16 + q, false)) ∧
        (nb = 1 → t.me.pc = s.me.pc + 4 ∧ (pd ≠ 0 → t.me.pred pd.toNat = false)))) ∧
    (let d := s.me.reg ra.toNat
      let dc := d.toNat / 256 % 256
      let dq := d.toNat % 16
      let df := (s.cluster dc).fifo dq
      s.plain ra → s.plain rb → s.me.undo = false →
      (∀ n, d.toNat = dc * 256 + dq → s.bay0 * 32 ≤ dc → dc < (s.bay0 + s.bays) * 32 →
        s.me.packet = none ∧ n = 0 ∨ s.me.packet = some (d, n) → n < 63 ∨ last = 1 →
        ((s.cluster dc).mode (48 + dq) ≠ .fifo ∨ left dc dq → exec (.qsend last rb ra stl) s = .next (s.takeTrap s.cur 7 d)) ∧
        ((s.cluster dc).mode (48 + dq) = .fifo → ¬ left dc dq → (dc = cl → s.inTurn (uQUEUE dq) = true) →
          (df.words.length < 16384 → df.holder = none ∨ df.holder = some s.cur →
            ∃ t, exec (.qsend last rb ra stl) s = .next t ∧ t.me.pc = s.me.pc + 4 ∧ t.me.arr = s.me.arr ∧
              (t.cluster dc).fifo dq = { words := df.words ++ [s.me.reg rb.toNat], holder := if last = 1 then none else some s.cur } ∧
              t.me.packet = (if last = 1 then none else some (d, n + 1)) ∧ t.hbm = s.hbm ∧ t.homes = s.homes) ∧
          (16384 ≤ df.words.length ∨ (df.holder ≠ none ∧ df.holder ≠ some s.cur) →
            ∃ t, exec (.qsend last rb ra stl) s = .next t ∧ t.me.pc = s.me.pc ∧ t.me.arr = s.me.arr ∧ t.me.qwait = some (dc * 16 + dq, false) ∧
              ((t.cluster dc).fifo dq).words = df.words ∧ t.hbm = s.hbm ∧ t.homes = s.homes ∧
              (df.holder = none → ((t.cluster dc).fifo dq).holder = some s.cur ∧ t.me.packet = some (d, 0)) ∧
              (df.holder ≠ none → Spec.Own s t ∧ t.me.packet = s.me.packet)))) ∧
      (d.toNat ≠ dc * 256 + dq → exec (.qsend last rb ra stl) s = .next (s.takeTrap s.cur 7 d)))

/-- R230, R232, R234, R236, R273: SPSET sets the scratchpad's size, the blocks that join reading zero, or refuses a size and changes
nothing but its predicate; BANKSET asks for a mode and waits, the change takes effect on the bank, which starts empty, or is refused, and the
instruction reports which. What waits at a queue whose bank leaves FIFO mode knows it from then on (R269). Requests of one arithmetic cycle are
made in the order of R188 (R234); that one which comes behind a core of a later place stays until the next cycle is an inference (log entry 8). -/
def Obligations.LocalMemoryShape : Prop :=
  ∀ (s : State) (mode : BitVec 2) (ra : BitVec 5) (pd : BitVec 3) (stl : BitVec 2), Quiet s → s.plain ra →
    let cl := clusterOf s.cur
    let v := (s.me.reg ra.toNat).toNat
    let want : BankMode := if mode = 0 then .cacheWay else if mode = 1 then .scratchpad else .fifo
    (s.cluster cl).copyQ = [] → (s.cluster cl).indQ = [] → (s.cluster cl).mergeQ = [] → (s.cluster cl).cells = [] →
    (v % 0x4000 = 0 → v ≤ 0x40000 → ∃ t, exec (.spset ra pd stl) s = .next t ∧ t.me.spN = v / 0x4000 ∧
      t.me.pc = s.me.pc + 4 ∧ t.me.pred pd.toNat = true ∧ (∀ a, a < 0x8000 → t.me.arr.byte a = s.me.arr.byte a) ∧
      (∀ b, s.me.spN ≤ b → b < v / 0x4000 → ∀ i, i < 0x4000 → t.me.arr.byte (0x8000 + b * 0x4000 + i) = 0)) ∧
    (v % 0x4000 ≠ 0 ∨ 0x40000 < v → ∃ t, exec (.spset ra pd stl) s = .next t ∧ Spec.Own s t ∧ t.me.spN = s.me.spN ∧ t.me.arr = s.me.arr ∧
      t.me.pc = s.me.pc + 4 ∧ (pd ≠ 0 → t.me.pred pd.toNat = false)) ∧
    (63 < v → exec (.bankset mode ra pd stl) s = .next (s.takeTrap s.cur 1 (s.me.reg ra.toNat))) ∧
    (v ≤ 63 → (s.cluster cl).bankReqs.find? (fun r => r.core == s.cur) = none → s.inTurn uBANKS = false → exec (.bankset mode ra pd stl) s = .next s) ∧
    (v ≤ 63 → (s.cluster cl).bankReqs.find? (fun r => r.core == s.cur) = none → s.inTurn uBANKS = true → ∃ t, exec (.bankset mode ra pd stl) s = .next t ∧
      t.me.pc = s.me.pc ∧ t.me.arr = s.me.arr ∧
      (t.cluster cl).bankReqs = (s.cluster cl).bankReqs ++ [{ core := s.cur, bank := v, mode := want, at_ := (s.cluster cl).arrivals, outcome := none }]) ∧
    (∀ r ok, v ≤ 63 → (s.cluster cl).bankReqs.find? (fun r => r.core == s.cur) = some r → r.outcome = some ok →
      ∃ t, exec (.bankset mode ra pd stl) s = .next t ∧ t.me.pc = s.me.pc + 4 ∧ (pd ≠ 0 → t.me.pred pd.toNat = ok) ∧
        t.me.arr = s.me.arr ∧ (t.cluster cl).modes = (s.cluster cl).modes) ∧
    (∀ r b, (s.cluster cl).bankReqs = [r] → r.bank = b → b < 64 → r.outcome = none → (s.cluster cl).merge = none → (s.cluster cl).cache = [] →
      let ok : Prop := (s.cluster cl).mode b = r.mode ∨
        ¬ (r.mode = .fifo ∧ b < 48) ∧ ¬ ((s.cluster cl).mode b = .fifo ∧ ((s.cluster cl).fifo (b - 48)).words ≠ [])
      ∃ t, exec (.bankModeChange cl b) s = .next t ∧ (∃ done, (t.cluster cl).bankReqs = [{ r with outcome := some done }] ∧ (done = true ↔ ok)) ∧
        (ok → (t.cluster cl).mode b = r.mode) ∧ (¬ ok → (t.cluster cl).modes = (s.cluster cl).modes) ∧
        (ok → (s.cluster cl).mode b ≠ r.mode → ∀ i, i < 0x20000 → (t.cluster cl).bankMem.byte (b * 0x20000 + i) = 0) ∧
        (∃ left : Bool, (left = true ↔ ok ∧ (s.cluster cl).mode b = .fifo ∧ r.mode ≠ .fifo) ∧ ∀ k, t.core k =
          { s.core k with qwait := (s.core k).qwait.map fun w => (w.1, w.2 || (left && w.1 == cl * 16 + (b - 48))) }) ∧ t.hbm = s.hbm)

/-! ## Atomic operations -/

namespace Sys2Proof.Spec

/-- An atomic at `va` for the current core: aligned, and its one part translates to device address `pa`; `s1` is the state after that, in which the
core's streams have discarded what they have read ahead of the line (R267, R324). -/
structure AtomAt (s : State) (va n : Nat) (s1 : State) (pa : Nat) (so : Bool) : Prop where
  align : va % n = 0
  xlate : ∃ (u : State) (t : Target), (s.at 4).translateParts s.cur (partsOf va n) .atomic = (u, .ok [(t, n)]) ∧ t.place = .dev pa ∧ t.so = so ∧
    s1 = u.modCore u.cur fun c => unread c (.dev pa) n

/-- How an atomic ends (R324, R325, R326, R331): not performed on poison, which a returning form traps and a .n form records, the request
having been made of the home slice (R320); else performed at memory, a returning form writing `ret` of the old value, raising its flags and
closing the region, a .n form keeping the region from being discarded. -/
def atomEnds (s s1 : State) (stl : BitVec 2) (nr : Bool) (va n pa : Nat) (so fp : Bool) (f : AtomOp) (ret : Nat → Machine.Core → Machine.Core) :
    Outcome State Fault Refusal :=
  match s1.atomic s.cur pa n so f with
  | (u, none) => if nr then .next ((u.modCore s.cur fun c =>
        { c with poisonAt := some (c.poisonAt.getD (BitVec.ofNat 64 va)), noDiscard := true }).past stl)
      else .next ((s.attempt s.cur 8 va n .atomic).takeTrap s.cur 8 (BitVec.ofNat 64 va))
  | (u, some (old, fl)) => if nr then .next ((u.modCore s.cur fun c => { c with noDiscard := true }).past stl)
      else .next ((u.modCore s.cur fun c =>
        let d := ret old c
        closed (if fp then { d with cr := { d.cr with fflags := d.cr.fflags ||| BitVec.ofNat 64 fl } } else d)).past stl)

end Sys2Proof.Spec

/-- R324 to R330, R334: every scalar atomic that is aligned and translates completes: one read and one write of the location, the old value
to the destination of a returning form, flags as R331 says. One that is not aligned traps ALIGN, as an ATOPK does. That a .n form is performed at
memory in its own step is the model's choice (log entry 23). -/
def Obligations.ScalarAtomics : Prop :=
  ∀ (s s1 : State) (nr : BitVec 1) (ty rb ra rd : BitVec 5) (qb qd : BitVec 4) (stl : BitVec 2) (pa : Nat) (so : Bool),
    Quiet s → s.plain ra → s.plain rb → s.plain rd →
    let va := (s.me.reg ra.toNat).toNat % 2 ^ 53
    let n := tagBits ty.toNat / 8
    let b := (s.me.reg rb.toNat).toNat
    let ret (old : Nat) (c : Machine.Core) : Machine.Core :=
      c.putReg rd.toNat (if ty = 3 then Spec.low 32 old else BitVec.ofNat 64 old) 0
    let out (fn : Nat) : Outcome State Fault Refusal :=
      Spec.atomEnds s s1 stl (nr = 1) va n pa so (decide (9 ≤ fn)) (fun m => let r := atomNew fn ty.toNat m (b % 2 ^ (8 * n)); (some r.1, r.2)) ret;
    (Spec.AtomAt s va n s1 pa so →
      exec (.aadd nr ty rb ra rd stl) s = out 0 ∧ exec (.aand nr ty rb ra rd stl) s = out 1 ∧
      exec (.aor nr ty rb ra rd stl) s = out 2 ∧ exec (.axor nr ty rb ra rd stl) s = out 3 ∧
      exec (.amin nr ty rb ra rd stl) s = out 4 ∧ exec (.amax nr ty rb ra rd stl) s = out 5 ∧
      exec (.aswap nr ty rb ra rd stl) s = out 6 ∧ exec (.afadd nr ty rb ra rd stl) s = out 9 ∧
      exec (.afmin nr ty rb ra rd stl) s = out 10 ∧ exec (.afmax nr ty rb ra rd stl) s = out 11) ∧
    (Spec.AtomAt s va 8 s1 pa so →
      exec (.acas nr ty rb ra rd stl) s = Spec.atomEnds s s1 stl (nr = 1) va 8 pa so false
        (fun m => (if m = (s.me.reg rd.toNat).toNat then some b else none, 0)) fun old c => c.putReg rd.toNat (BitVec.ofNat 64 old) 0) ∧
    (Spec.AtomAt s va 16 s1 pa so →
      s.plain (evenReg qb) → s.plain (evenReg qb + 1) → s.plain (evenReg qd) → s.plain (evenReg qd + 1) →
      let two (r : Nat) : Nat := (s.me.reg r).toNat + 2 ^ 64 * (s.me.reg (r + 1)).toNat
      exec (.acasq nr qb ra qd stl) s = Spec.atomEnds s s1 stl (nr = 1) va 16 pa so false
        (fun m => (if m = two (2 * qd.toNat) then some (two (2 * qb.toNat)) else none, 0))
        fun old c => (c.putReg (2 * qd.toNat) (BitVec.ofNat 64 (old % 2 ^ 64)) 0).putReg (2 * qd.toNat + 1) (BitVec.ofNat 64 (old / 2 ^ 64)) 0) ∧
    (let align : Outcome State Fault Refusal := .next (s.takeTrap s.cur 5 (BitVec.ofNat 64 va));
      (va % n ≠ 0 → exec (.aadd nr ty rb ra rd stl) s = align ∧ exec (.aand nr ty rb ra rd stl) s = align ∧
        exec (.aor nr ty rb ra rd stl) s = align ∧ exec (.axor nr ty rb ra rd stl) s = align ∧
        exec (.amin nr ty rb ra rd stl) s = align ∧ exec (.amax nr ty rb ra rd stl) s = align ∧
        exec (.aswap nr ty rb ra rd stl) s = align ∧ exec (.afadd nr ty rb ra rd stl) s = align ∧
        exec (.afmin nr ty rb ra rd stl) s = align ∧ exec (.afmax nr ty rb ra rd stl) s = align) ∧
      (va % 8 ≠ 0 → exec (.acas nr ty rb ra rd stl) s = align) ∧
      (va % 16 ≠ 0 → s.plain (evenReg qb) → s.plain (evenReg qb + 1) → s.plain (evenReg qd) → s.plain (evenReg qd + 1) →
        exec (.acasq nr qb ra qd stl) s = align) ∧
      (va % 128 ≠ 0 → exec (.atopk nr rb ra rd stl) s = align))

namespace Sys2Proof.Spec

/-- What AFADD (9), AFMIN (10) and AFMAX (11) make of two encodings of a format: the new value and the flags (R330). -/
def FpAtom (f : Fmt) (fn m b : Nat) (r : Nat × Nat) : Prop :=
  let x := f.decode m
  let y := f.decode b
  let sum := f.addNum 0 x y
  (fn = 9 →
    (x.isNaN = true ∨ y.isNaN = true → r = (f.canonNaN, 16)) ∧
    (x.isNaN = false → y.isNaN = false → r = (if sum.1 = f.signBit then 0 else sum.1, sum.2))) ∧
  (fn = 10 ∨ fn = 11 →
    (x.isNaN = true → y.isNaN = true → r = (f.canonNaN, 16)) ∧ (x.isNaN = true → y.isNaN = false → r = (b, 16)) ∧
    (x.isNaN = false → y.isNaN = true → r = (m, 16)) ∧
    (x.isNaN = false → y.isNaN = false → r.2 = 0 ∧
      (numCmp x y = some .lt ∨ numCmp x y = some .eq ∧ x.neg = true ∧ y.neg = false → r.1 = if fn = 10 then m else b) ∧
      (numCmp x y = some .gt ∨ numCmp x y = some .eq ∧ x.neg = false ∧ y.neg = true → r.1 = if fn = 10 then b else m) ∧
      (r.1 = m ∨ r.1 = b)))

end Sys2Proof.Spec

/-- R327, R330, R325, R321, R331: the values: integer operations wrap at the width or compare as signed or unsigned as the type says; in BF16,
FP32 and FP64 and in each half of BF16×2 and FP32×2 a sum is rounded to nearest in every mode, an exact zero sum is +0, AFMIN stores the smaller
number and AFMAX the larger, with −0 below +0, one NaN operand stores the other value, two store the canonical NaN, and every NaN operand raises NV.
An atomic performed at the home slice of a line that the core's cluster does not own writes the new value there and
nowhere else of the line; poison in a target byte keeps it from being performed. -/
def Obligations.AtomicValues : Prop :=
  (∀ (m b : Nat),
     (∀ z ty, (ty = 3 ∨ ty = 7) ∧ z = 32 ∨ (ty = 4 ∨ ty = 8) ∧ z = 64 → m < 2 ^ z → b < 2 ^ z →
       let signed (x : Nat) : Int := if (ty = 3 ∨ ty = 4) ∧ 2 ^ (z - 1) ≤ x then (x : Int) - 2 ^ z else x
       (∀ fn, fn ≤ 6 → (atomNew fn ty m b).2 = 0) ∧
       (atomNew 0 ty m b).1 = (m + b) % 2 ^ z ∧ (atomNew 1 ty m b).1 = m &&& b ∧ (atomNew 2 ty m b).1 = m ||| b ∧
       (atomNew 3 ty m b).1 = m ^^^ b ∧ signed (atomNew 4 ty m b).1 = min (signed m) (signed b) ∧
       signed (atomNew 5 ty m b).1 = max (signed m) (signed b) ∧ (atomNew 6 ty m b).1 = b) ∧
     (∀ fn, fn = 9 ∨ fn = 10 ∨ fn = 11 →
       (∀ ty f z, (ty, f, z) ∈ [(0x13, bf16, 16), (0x14, fp32, 32), (0x15, fp64, 64)] → m < 2 ^ z → b < 2 ^ z →
         Spec.FpAtom f fn m b (atomNew fn ty m b)) ∧
       (∀ ty f z, (ty, f, z) ∈ [(0x16, bf16, 16), (0x17, fp32, 32)] → m < 2 ^ (2 * z) → b < 2 ^ (2 * z) → ∃ lo hi,
         atomNew fn ty m b = (lo.1 + hi.1 * 2 ^ z, lo.2 ||| hi.2) ∧ Spec.FpAtom f fn (m % 2 ^ z) (b % 2 ^ z) lo ∧
         Spec.FpAtom f fn (m / 2 ^ z) (b / 2 ^ z) hi))) ∧
  (∀ (s : State) (k pa n : Nat) (f : AtomOp) (l : Line), pa % 128 + n ≤ 128 → 0 < n → (s.core k).l1 = [] →
     (s.cluster (clusterOf k)).cache = [] → (s.cluster (clusterOf k)).ownedLine (pa / 128) = none → s.ownerOf (pa / 128) = none →
     lineFind s.homes (pa / 128) = some l →
     let old := leNat ((List.range n).map fun i => l.byte (pa % 128 + i))
     ((∀ i, i < n → l.isBad (pa % 128 + i) = false) → ∃ u, s.atomic k pa n true f = (u, some (old, (f old).2)) ∧
       (∀ v, (f old).1 = some v → v < 256 ^ n →
         leNat ((List.range n).map fun i => (u.homeLine (pa / 128)).byte (pa % 128 + i)) = v ∧
         (∀ i, i < 128 → i < pa % 128 ∨ pa % 128 + n ≤ i → (u.homeLine (pa / 128)).byte i = l.byte i)) ∧
       ((f old).1 = none → (u.homeLine (pa / 128)).data = l.data ∧ (u.homeLine (pa / 128)).poison = l.poison) ∧ u.hbm = s.hbm ∧
       tget 0 u.flags (homeSlice (pa / 128) * 64 + s.spaceOf k / 256) =
         tget 0 s.flags (homeSlice (pa / 128) * 64 + s.spaceOf k / 256) ||| BitVec.ofNat 64 (f old).2) ∧
     (∀ i, i < n → l.isBad (pa % 128 + i) = true → (s.atomic k pa n true f).2 = none))

namespace Sys2Proof.Spec

/-- Slot `i` of a top-k record (R333). -/
def slot (r i : Nat) : Word := BitVec.ofNat 64 (r / 2 ^ (64 * (5 + i)))
/-- SCORE of an entry. -/
def score (e : Word) : Machine.Num := fp32.decode (e.toNat % 2 ^ 32)
/-- ID of an entry. -/
def expert (e : Word) : Nat := e.toNat / 2 ^ 32 % 2 ^ 16
/-- GROUP of an entry. -/
def group (e : Word) : Nat := e.toNat / 2 ^ 48 % 2 ^ 8
/-- An entry ranks above another (R334). -/
def above (x y : Word) : Prop :=
  numCmp (score x) (score y) = some .gt ∨ numCmp (score x) (score y) = some .eq ∧ expert x < expert y
/-- `g` of the entries of `S` that rank above `x` (R334). -/
def ahead (S : List Word) (x : Word) (g : Word → Bool) : Nat :=
  (S.filter fun y => g y && (numCmp (score y) (score x) = some .gt || numCmp (score y) (score x) = some .eq && decide (expert y < expert x))).length

end Sys2Proof.Spec

/-- R332, R333, R334: AFLAG reads its function's flag register at the line's home slice and clears it; ATOPK reads and writes its 128-byte
record: a malformed record or entry stays and sets RECBAD, a dead expert's post changes nothing, and any other post to a record as the device
leaves it keeps the ranked, group-limited selection of the slots and the entry, with the sentinel in the slots after it and the new control word
as the result.
A record that the device has not left in order becomes free values (log entry 24), and an ATOPK that returns nothing is performed in its own step
(log entry 23): the model's choices. -/
def Obligations.FlagsAndTopK : Prop :=
  ∀ (s s1 : State) (nr : BitVec 1) (rb ra rd : BitVec 5) (stl : BitVec 2) (pa : Nat) (so : Bool), Quiet s → s.plain ra → s.plain rb → s.plain rd →
    let va := (s.me.reg ra.toNat).toNat % 2 ^ 53
    ((∃ t : Target, (s.at 4).translateParts s.cur (partsOf va 1) .load = (s1, .ok [(t, 1)]) ∧ t.place = .dev pa) →
      let key := homeSlice (pa / 128) * 64 + s1.spaceOf s.cur / 256
      ∃ t, exec (.aflag ra rd stl) s = .next t ∧ tget 0 t.flags key = 0 ∧ (∀ j, j ≠ key → tget 0 t.flags j = tget 0 s1.flags j) ∧
        t.me = (Spec.closed (s1.me.putReg rd.toNat (tget 0 s1.flags key) 0)).retired stl ∧ t.hbm = s1.hbm ∧ t.homes = s1.homes) ∧
    (Spec.AtomAt { s with fresh := s.fresh + 16 } va 128 s1 pa so →
      let e := s.me.reg rb.toNat
      let free (i : Nat) : Word := Config.freeWord (s.fresh + i)
      exec (.atopk nr rb ra rd stl) s = Spec.atomEnds s s1 stl (nr = 1) va 128 pa so false
        (fun r => ((tkStep free r e).1, (tkStep free r e).2.1)) fun old c => c.putReg rd.toNat (tkStep free old e).2.2 0) ∧
    (∀ (free : Nat → Word) (r : Nat) (e : Word),
      let c := r / 2 ^ 256
      (c % 16 = 0 ∨ 8 < c % 16 ∨ c % 16 < c / 16 % 16 ∨ 8 < c / 256 % 16 ∨ c / 2 ^ 12 % 2 ^ 20 ≠ 0 ∨ 255 < e.toNat / 2 ^ 32 % 2 ^ 16 ∨
          31 < e.toNat / 2 ^ 48 % 2 ^ 8 ∨ e.toNat / 2 ^ 56 ≠ 0 ∨ (fp32.decode (e.toNat % 2 ^ 32)).isNaN = true →
        tkStep free r e = (none, 32, 0xFFFFFFFFFFFFFFFF)) ∧
      (tkBad r e = false → r.testBit (Spec.expert e) = true → tkStep free r e = (none, 0, BitVec.ofNat 64 c)) ∧
      (let k := c % 16
       let n := c / 16 % 16
       let lim := c / 256 % 16
       let live := (List.range n).map (Spec.slot r)
       let L := live ++ [e]
       0 < k → k ≤ 8 → n ≤ k → lim ≤ 8 → c / 2 ^ 12 % 2 ^ 20 = 0 → (∀ x ∈ L, x.toNat / 2 ^ 56 = 0 ∧ (Spec.score x).isNaN = false) →
       Spec.expert e ≤ 255 → Spec.group e ≤ 31 → r.testBit (Spec.expert e) = false → live.Pairwise Spec.above →
       (∀ i, n ≤ i → i < 11 → Spec.slot r i = 0x0000FFFFFF800000) →
       ∃ (S : List Word) (t : Nat) (w : Word), tkStep free r e = (some t, 0, w) ∧ t < 2 ^ 1024 ∧ t % 2 ^ 256 = r % 2 ^ 256 ∧
         w = BitVec.ofNat 64 (t / 2 ^ 256) ∧
         w.toNat % 16 = k ∧ w.toNat / 16 % 16 = S.length ∧ w.toNat / 256 % 16 = lim ∧ w.toNat / 2 ^ 12 % 2 ^ 20 = 0 ∧
         (∀ g, g < 32 → (w.getLsbD (32 + g) = true ↔ ∃ x ∈ S, Spec.group x = g)) ∧
         (∀ i, i < 11 → Spec.slot t i = S.getD i 0x0000FFFFFF800000) ∧
         S.length ≤ k ∧ S.Pairwise Spec.above ∧ (∀ x ∈ S, x ∈ L) ∧
         (∀ x ∈ S, ¬ ∃ y ∈ L, Spec.expert y = Spec.expert x ∧ Spec.above y x) ∧
         (∀ x ∈ S, lim = 0 ∨ Spec.ahead S x (fun y => Spec.group y == Spec.group x) < lim) ∧
         (∀ x ∈ L, x ∉ S → (∃ y ∈ L, y ≠ x ∧ Spec.expert y = Spec.expert x ∧ ¬ Spec.above x y) ∨ Spec.ahead S x (fun _ => true) = k ∨
           lim ≠ 0 ∧ Spec.ahead S x (fun y => Spec.group y == Spec.group x) = lim)))

/-! ## Barriers -/

namespace Sys2Proof.Spec

/-- The current core's arrival on a channel is outstanding: made, and the group's phase has not flipped since (R339). -/
def outstanding (s : State) (n : Nat) : Prop :=
  (s.me.chan n).arrived = true ∧ (s.me.chan n).phase = s.phaseOf s.cur s.me.bmask n

/-- The group of a channel of the current core has a joined member with an outstanding arrival (R341). -/
def groupBusy (s : State) (n : Nat) : Prop :=
  s.groupBusy n (spanOfChan s.me.bmask n) (unitOfSpan (spanOfChan s.me.bmask n) (clusterOf s.cur)) (s.spaceOf s.cur / 256) = true

/-- An object of `n` bytes at `va`, to which an instruction comes from the state `u`: aligned, translated to device address `pa` and not
poisoned; `h` is the state with every replica of its line recalled and the line held at its home slice (R343, R345), and behind which the core's
later loads and its streams look no more (R353). -/
structure ObjFrom (u : State) (va n : Nat) (h : State) (pa : Nat) : Prop where
  align : va % n = 0
  line : pa % 128 + n ≤ 128
  xlate : ∃ (s1 : State) (t : Target), u.translateParts u.cur (partsOf va n) .atomic = (s1, .ok [(t, n)]) ∧ t.place = .dev pa ∧
    h = (((s1.modCore s1.cur fun c => unread c (.dev pa) n).reachObject pa).homeServe (clusterOf u.cur) (pa / 128) .default).forgetUo
      u.cur (pa / 128)
  good : h.homeBad pa n = false
  free : h.ownerOf (pa / 128) = none

end Sys2Proof.Spec

/-- R339, R340, R341: BMASK writes the mask, or traps ILLOP where it is not valid or would change a channel with an outstanding arrival;
BARV arrives in the group's phase, or waits while its own arrival is outstanding; BWAIT and BTEST complete once it is not; a channel of
which the core is no member traps ILLOP with its number; the phase flips when every joined member, none of them a kept firing, has arrived, and only
then. -/
def Obligations.WiredBarriers : Prop :=
  ∀ (s : State) (ch : BitVec 4) (ra : BitVec 5) (pd : BitVec 3) (stl : BitVec 2), Quiet s →
    let n := ch.toNat
    let v := s.me.reg ra.toNat
    let clear (m : Nat) : Prop := ¬ Spec.outstanding s m
    let goes (i : Instr) (p : State → Prop) : Prop :=
      ∃ t, exec i s = .next t ∧ t.me.pc = s.me.pc + 4 ∧ t.me.arr = s.me.arr ∧ t.me.cr = s.me.cr ∧ t.me.bmask = s.me.bmask ∧ p t
    let waits (i : Instr) : Prop := ∃ t, exec i s = .next t ∧ t.me.pc = s.me.pc ∧ t.me.arr = s.me.arr ∧ t.me.chans = s.me.chans;
    (s.plain ra →
      (maskOk v = true → (∀ m ∈ maskChanges s.me.bmask v, clear m) → ∃ t, exec (.bmask ra stl) s = .next t ∧ t.me.bmask = v ∧
        t.me.pc = s.me.pc + 4 ∧ (∀ m ∈ maskChanges s.me.bmask v, (t.me.chan m).arrived = false) ∧
        (∀ m, m ∉ maskChanges s.me.bmask v → t.me.chan m = s.me.chan m) ∧ Spec.Own s t) ∧
      (maskOk v = false ∨ (∃ m ∈ maskChanges s.me.bmask v, Spec.outstanding s m) →
        exec (.bmask ra stl) s = .next (s.takeTrap s.cur 1 v))) ∧
    (s.me.bmask.getLsbD n = false → exec (.barv ch stl) s = .next (s.takeTrap s.cur 1 (BitVec.ofNat 64 n)) ∧
      exec (.bwait ch stl) s = .next (s.takeTrap s.cur 1 (BitVec.ofNat 64 n)) ∧
      exec (.btest ch pd stl) s = .next (s.takeTrap s.cur 1 (BitVec.ofNat 64 n))) ∧
    (s.me.bmask.getLsbD n = true →
      (s.me.poisonAt = none → clear n → (s.me.chan n).joined = true ∨ ¬ Spec.groupBusy s n →
        goes (.barv ch stl) fun t => t.me.chan n = { joined := true, arrived := true, phase := s.phaseOf s.cur s.me.bmask n }) ∧
      (s.me.poisonAt = none → Spec.outstanding s n → waits (.barv ch stl)) ∧
      (clear n → goes (.bwait ch stl) fun t => (t.me.chan n).arrived = false ∧ t.me.ahead = []) ∧
      (Spec.outstanding s n → waits (.bwait ch stl)) ∧
      (clear n → goes (.btest ch pd stl) fun t => (t.me.chan n).arrived = false ∧ t.me.pred pd.toNat = true) ∧
      (Spec.outstanding s n → ∃ t, exec (.btest ch pd stl) s = .next t ∧ Spec.Own s t ∧ t.me.pc = s.me.pc + 4 ∧
        t.me.chans = s.me.chans ∧ (pd ≠ 0 → t.me.pred pd.toNat = false))) ∧
    (∀ (c sp un fn : Nat),
      let ms := (s.members c sp un fn).filter fun e => (e.2.chan c).joined
      let here (e : Nat × Machine.Core) : Prop := e.1 < 0x10000 ∧ (e.2.chan c).arrived = true ∧ (e.2.chan c).phase = s.groupPhase c sp un fn;
      (ms ≠ [] ∧ (∀ e ∈ ms, here e) →
        ∃ t, exec (.phaseFlip c sp un fn) s = .next t ∧ t.groupPhase c sp un fn = !s.groupPhase c sp un fn ∧ t.clusters = s.clusters ∧ t.hbm = s.hbm) ∧
      (ms = [] ∨ (∃ e ∈ ms, ¬ here e) →
        exec (.phaseFlip c sp un fn) s = .next s))

/-- R342, R344, R346, R345: what arrivals, error completions and resumes do to a barrier object, and raises to a sync word: below the count an
arrival is counted and nothing else; the one that makes the count completes the phase: the generation goes up by one, the count starts again, and
the phase's note becomes the last one.
The four object instructions at an object that is aligned, translates and is not poisoned: MBINIT sets the count and clears the
error phase and notes and keeps the generation, or traps ILLOP once it has come to the object; MBARV returns the generation and arrives; MBTEST
reports the object; MBWAIT waits while the generation stands outside an error phase and else reports the last phase's note or the error. -/
def Obligations.BarrierObjects : Prop :=
  (∀ (o : BarObj) (code detail : Nat), o.malformed = false → code < 256 → detail < 2 ^ 32 →
     (o.err = false → o.arrived < o.expect → o.arrived + 1 < o.expect →
       (o.arrive 0 0).arrived = o.arrived + 1 ∧ (o.arrive 0 0).gen = o.gen ∧ (o.arrive 0 0).expect = o.expect ∧ (o.arrive 0 0).code = o.code ∧
       (o.arrive 0 0).lcode = o.lcode) ∧
     (o.err = false → o.arrived + 1 = o.expect →
       (o.arrive 0 0).arrived = 0 ∧ (o.arrive 0 0).gen = (o.gen + 1) % 2 ^ 32 ∧ (o.arrive 0 0).expect = o.expect ∧ (o.arrive 0 0).code = 0 ∧
       (o.arrive 0 0).lcode = o.code ∧ (o.arrive 0 0).ldetail = o.detail) ∧
     (o.err = true → (o.arrive 0 0).gen = o.gen ∧ (o.arrive 0 0).err = true ∧ (o.arrive 0 0).arrived = min (o.arrived + 1) (2 ^ 32 - 1)) ∧
     (o.err = false → o.arrived + 1 < o.expect → code ≠ 0 → o.code = 0 → (o.arrive code detail).code = code ∧ (o.arrive code detail).detail = detail) ∧
     ((o.fail code detail).err = true ∧ (o.fail code detail).code = code ∧ (o.fail code detail).detail = detail ∧ (o.fail code detail).gen = o.gen ∧
       (o.fail code detail).arrived = o.arrived) ∧
     (o.err = true → o.arrived < o.expect → o.resume.err = false ∧ o.resume.gen = o.gen ∧ o.resume.arrived = o.arrived) ∧
     (∀ t g c : Nat, 0 < t → swSettle t g c = ((g + c / t) % 2 ^ 24, c % t))) ∧
  (∀ (s h : State) (scope : BitVec 3) (ra rb rd : BitVec 5) (stl : BitVec 2) (pa : Nat), Quiet s → s.plain ra → s.plain rb → s.mayWrite rd →
     s.me.arr.wf = true → s.me.isThread = false →
     let va := (s.me.reg ra.toNat).toNat % 2 ^ 53
     let c := s.me.reg rb.toNat
     let o := h.barObj pa
     let traps (v : Word) : State := (h.modCore s.cur fun x => { x with ahead := [] }.back s.me.pc s.me.empty).takeTrap s.cur 1 v
     let result (t : State) (v : Nat) : Prop := t.me.pc = s.me.pc + 4 ∧ t.me.reg rd.toNat = (if rd = 0 then 0 else BitVec.ofNat 64 v);
     (Spec.ObjFrom (s.at 4) va 32 h pa →
       (0 < c.toNat → c.toNat < 2 ^ 32 → ∃ t, exec (.mbinit rb ra stl) s = .next t ∧ t.me.pc = s.me.pc + 4 ∧
         (t.barObj pa).expect = c.toNat ∧ (t.barObj pa).arrived = 0 ∧ (t.barObj pa).gen = o.gen ∧ (t.barObj pa).err = false ∧
         (t.barObj pa).code = 0 ∧ (t.barObj pa).lcode = 0) ∧
       (c.toNat = 0 ∨ 2 ^ 32 ≤ c.toNat → exec (.mbinit rb ra stl) s = .next (traps c)) ∧
       (∃ t, exec (.mbtest scope ra rd stl) s = .next t ∧ result t (o.code * 2 ^ 40 + (if o.err then 2 ^ 32 else 0) + o.gen)) ∧
       (o.gen ≠ c.toNat % 2 ^ 32 ∨ o.err = true → ∃ t, exec (.mbwait scope rb ra rd stl) s = .next t ∧
         result t (if o.err then 2 ^ 40 + o.code * 2 ^ 32 + o.detail else o.lcode * 2 ^ 32 + o.ldetail)) ∧
       (o.gen = c.toNat % 2 ^ 32 → o.err = false → ∃ t, exec (.mbwait scope rb ra rd stl) s = .next t ∧ t = h.setCore s.cur t.me ∧
         t.me.pc = s.me.pc ∧ t.me.arr = s.me.arr)) ∧
     (s.me.poisonAt = none → Spec.ObjFrom ((s.at 4).release s.cur scope.toNat) va 32 h pa →
       ∃ t, exec (.mbarv scope ra rd stl) s = .next t ∧ result t o.gen ∧ t.barObj pa = o.arrive 0 0))

/-- R346, R347: the sync word's instructions: SWINIT sets the target and clears the count and keeps every other bit; SWTEST returns the second
doubleword; SWWAIT waits while the generation stands and else returns it. -/
def Obligations.SyncWords : Prop :=
  ∀ (s h : State) (scope : BitVec 3) (ra rb rd : BitVec 5) (stl : BitVec 2) (pa : Nat), Quiet s → s.plain ra → s.plain rb → s.mayWrite rd →
    s.me.arr.wf = true → s.me.isThread = false →
    let va := (s.me.reg ra.toNat).toNat % 2 ^ 53
    let b := s.me.reg rb.toNat
    let w1 := h.objWord pa 1
    let traps (v : Word) : State := (h.modCore s.cur fun x => { x with ahead := [] }.back s.me.pc s.me.empty).takeTrap s.cur 1 v
    let result (t : State) (v : Word) : Prop := t.me.pc = s.me.pc + 4 ∧ t.me.reg rd.toNat = (if rd = 0 then 0 else v);
    Spec.ObjFrom (s.at 4) va 16 h pa →
      (0 < b.toNat → b.toNat < 2 ^ 40 → ∃ t, exec (.swinit rb ra stl) s = .next t ∧ t.me.pc = s.me.pc + 4 ∧
        (t.objWord pa 0).toNat = (h.objWord pa 0).toNat / 2 ^ 40 * 2 ^ 40 + b.toNat ∧ (t.objWord pa 1).toNat = w1.toNat / 2 ^ 40 * 2 ^ 40) ∧
      (b.toNat = 0 ∨ 2 ^ 40 ≤ b.toNat → exec (.swinit rb ra stl) s = .next (traps b)) ∧
      (∃ t, exec (.swtest scope ra rd stl) s = .next t ∧ result t w1) ∧
      (w1.toNat / 2 ^ 40 ≠ b.toNat % 2 ^ 24 → ∃ t, exec (.swwait scope rb ra rd stl) s = .next t ∧ result t (BitVec.ofNat 64 (w1.toNat / 2 ^ 40))) ∧
      (w1.toNat / 2 ^ 40 = b.toNat % 2 ^ 24 → ∃ t, exec (.swwait scope rb ra rd stl) s = .next t ∧ t = h.setCore s.cur t.me ∧
        t.me.pc = s.me.pc ∧ t.me.arr = s.me.arr)

/-! ## Vector instructions -/

namespace Sys2Proof.Spec

/-- The number of elements of a tag under the core's grant (R191). -/
def count (c : Machine.Core) (t : Nat) : Nat := c.grant * (64 / tagBits t)
/-- Element `e` of vector register `n` under a tag (R191). -/
def elem (c : Machine.Core) (t n e : Nat) : Nat :=
  ((c.vreg n).getD (e / (64 / tagBits t)) 0).toNat / 2 ^ (tagBits t * (e % (64 / tagBits t))) % 2 ^ tagBits t
/-- Element `e` is active under a mask (R195). -/
def on (c : Machine.Core) (mk : BitVec 3) (e : Nat) : Bool := (c.mask mk.toNat).getLsbD e
/-- An element as an integer: signed under an I tag, unsigned under any other (R34). -/
def sv (t x : Nat) : Int := if (1 ≤ t ∧ t ≤ 4) ∧ 2 ^ (tagBits t - 1) ≤ x then (x : Int) - 2 ^ tagBits t else x
/-- An integer modulo two to the element size. -/
def wr (t : Nat) (v : Int) : Nat := (v % 2 ^ tagBits t).toNat
/-- An integer tag (R34). -/
def isInt (t : Nat) : Prop := 1 ≤ t ∧ t ≤ 8
/-- BF16, FP32 or FP64. -/
def isFp (t : Nat) : Prop := 0x13 ≤ t ∧ t ≤ 0x15
/-- A pair tag (R40). -/
def isPair (t : Nat) : Prop := t = 0x16 ∨ t = 0x17

/-- A floating-point operation under a tag: on each half of a pair, with the flags of both (R40, R196). -/
def fl (t : Nat) (g : Fmt → Nat → Nat → Nat → Nat × Nat) (a b d : Nat) : Nat × Nat :=
  if t = 0x16 ∨ t = 0x17 then
    let f := if t = 0x16 then bf16 else fp32
    let h := 2 ^ (tagBits t / 2)
    let x := g f (a % h) (b % h) (d % h)
    let y := g f (a / h) (b / h) (d / h)
    (x.1 + y.1 * h, x.2 ||| y.2)
  else g (if t = 0x13 then bf16 else if t = 0x14 then fp32 else fp64) a b d

/-- An operation on integers under an integer tag, wrapped, and one on numbers of a format under the others (R196). -/
def ew (t : Nat) (i : Int → Int → Int) (g : Fmt → Nat → Nat → Nat → Nat × Nat) (a b d : Nat) : Nat × Nat :=
  if 1 ≤ t ∧ t ≤ 8 then (wr t (i (sv t a) (sv t b)), 0) else fl t g a b d

/-- A 4-byte vector instruction has written the elements of `rd` that `act` names, `f` giving value and flags, and set its tag; the other
elements keep their bits (R195, R196). A later read of the register waits for the result (R131). -/
def vset (s : State) (stl : BitVec 2) (rd : BitVec 5) (t : Nat) (act : Nat → Bool) (f : Nat → Nat × Nat) : Outcome State Fault Refusal :=
  .next (s.after 4 stl fun c =>
    let n := count s.me t
    let d := c.putElems rd.toNat t ((List.range n).map fun e => if act e then (f e).1 else elem s.me t rd.toNat e)
    { d with cr := { d.cr with
        fflags := d.cr.fflags ||| BitVec.ofNat 64 (((List.range n).filter act).foldl (fun x e => x ||| (f e).2) 0) } })

/-- An instruction has written a mask, m0 apart, and raised flags (R191, R197). -/
def mset (s : State) (stl : BitVec 2) (md : BitVec 3) (v : BitVec 4096) (flags : Nat) : Outcome State Fault Refusal :=
  .next (s.after 4 stl fun c =>
    let d := if md = 0 then c else { c with masks := tset c.masks md.toNat v, vpend := .m md.toNat :: c.vpend }
    { d with cr := { d.cr with fflags := d.cr.fflags ||| BitVec.ofNat 64 flags } })

/-- A sum, minimum, maximum or bitwise operation of R205 on two elements. -/
def comb (op t m a b : Nat) : Nat × Nat :=
  if op = 0 then ew t (· + ·) (fun f a b _ => f.addNum m (f.decode a) (f.decode b)) a b 0
  else if op = 1 then ew t min (fun f a b _ => f.minMax false false a b) a b 0
  else if op = 2 then ew t max (fun f a b _ => f.minMax true false a b) a b 0
  else if op = 3 then (a &&& b, 0) else if op = 4 then (a ||| b, 0) else (a ^^^ b, 0)

/-- The identities of R205. -/
def ident (op t : Nat) : Nat :=
  let f := if t = 0x13 then bf16 else if t = 0x14 then fp32 else fp64
  let fp := decide (0x13 ≤ t ∧ t ≤ 0x15)
  if op = 1 then if fp then f.infEnc else if 1 ≤ t ∧ t ≤ 4 then 2 ^ (tagBits t - 1) - 1 else 2 ^ tagBits t - 1
  else if op = 2 then if fp then f.infEnc + f.signBit else if 1 ≤ t ∧ t ≤ 4 then 2 ^ (tagBits t - 1) else 0
  else if op = 3 then 2 ^ tagBits t - 1 else 0

/-- Node `i` of level `l` of the tree of R205, absent where no active element lies under it. -/
def node (f : Nat → Nat → Nat × Nat) (leaf : Nat → Option Nat) : Nat → Nat → Option Nat
  | 0, i => leaf i
  | l + 1, i =>
    match node f leaf l (2 * i), node f leaf l (2 * i + 1) with
    | some x, some y => some (f x y).1
    | some x, none => some x
    | none, y => y

/-- The flags of every combination under that node. -/
def nodeFlags (f : Nat → Nat → Nat × Nat) (leaf : Nat → Option Nat) : Nat → Nat → Nat
  | 0, _ => 0
  | l + 1, i =>
    (match node f leaf l (2 * i), node f leaf l (2 * i + 1) with
      | some x, some y => (f x y).2
      | _, _ => 0) ||| nodeFlags f leaf l (2 * i) ||| nodeFlags f leaf l (2 * i + 1)

/-- An address a signed distance above a base, modulo 2^53 (R203). -/
def past (b : Word) (d : Int) : Nat := (((b.toNat : Int) + d) % 2 ^ 53).toNat

/-- The bytes of the current core's array after a vector store: at each address the highest active element that covers it (R203), but
for the device's own offsets (R122). -/
def VStored (s t : State) (n : Nat) (act : Nat → Bool) (va : Nat → Nat) (sz : Nat) (x : Nat → Nat) : Prop :=
  ∀ a, t.me.arr.byte a = match (List.range n).reverse.find? (fun e => act e && decide (va e - sysBase ≤ a ∧ a < va e - sysBase + sz)) with
    | some e => if 0x600 ≤ a ∧ a < 0x4000 then s.me.arr.byte a else BitVec.ofNat 8 (x e / 256 ^ (a - (va e - sysBase)))
    | none => s.me.arr.byte a

/-- The elements of a VATOM, by address, each aligned and translated in ascending order to device memory (R324, R335). -/
def Placed (k n : Nat) : State → List Nat → State → List (Nat × Nat × Bool) → Prop
  | s, [], u, ps => u = s ∧ ps = []
  | s, va :: r, u, ps => va % n = 0 ∧ ∃ s1 t pa rest, s.translateParts k (partsOf va n) .atomic = (s1, .ok [(t, n)]) ∧
      t.place = .dev pa ∧ ps = (va, pa, t.so) :: rest ∧ Placed k n (s1.modCore k fun c => unread c (.dev pa) n) r u rest

/-- The atomics of a VATOM in ascending order: the state they leave, the old values (0 where an element meets poison, which is recorded
against the core) and the flags. -/
def atoms (k n : Nat) (f : Nat → AtomOp) : State → List ((Nat × Nat × Bool) × Nat) → State × List Nat × Nat
  | s, [] => (s, [], 0)
  | s, ((va, pa, so), x) :: r =>
    match s.atomic k pa n so (f x) with
    | (u, some (old, fl)) => let q := atoms k n f u r; (q.1, old :: q.2.1, fl ||| q.2.2)
    | (u, none) =>
      let q := atoms k n f (u.modCore k fun c => { c with poisonAt := some (c.poisonAt.getD (BitVec.ofNat 64 va)) }) r
      (q.1, 0 :: q.2.1, q.2.2)

end Sys2Proof.Spec

/-- R196, R195, R40: the element-wise instructions, on registers or with a scalar second operand: each active element gets its result in
the tag of VA, integers wrapped and numbers rounded in cr.frm's mode, halves of a pair on their own; the flags of the active elements
are raised; the other elements keep their bits. A tag that is not accepted, or a second tag that differs, traps FMTCHK with the register,
bit 5 for VB, and the tag (R194, R35). On a core without a grant too, where R192 gives ILLOP: that
FMTCHK comes first there is an inference (log entry 27), and so is the choice among several tags that fail (log entry 129, the model's). -/
def Obligations.VectorArithmetic : Prop :=
  ∀ (s : State) (sc : BitVec 1) (mk : BitVec 3) (rb ra rd : BitVec 5) (stl : BitVec 2), Quiet s → isGeneral s.cur = true →
    let t := s.me.vtag ra.toNat
    let two (op : Nat) : Instr := [.vadd sc mk rb ra rd stl, .vsub sc mk rb ra rd stl, .vmul sc mk rb ra rd stl, .vdiv sc mk rb ra rd stl,
      .vmin sc mk rb ra rd stl, .vmax sc mk rb ra rd stl, .vfma sc mk rb ra rd stl, .vand sc mk rb ra rd stl, .vor sc mk rb ra rd stl,
      .vxor sc mk rb ra rd stl, .vshl sc mk rb ra rd stl, .vshr sc mk rb ra rd stl].getD op (.vsra sc mk rb ra rd stl)
    let takes (op : Nat) : Prop := if op ≤ 5 then Spec.isInt t ∨ Spec.isFp t ∨ Spec.isPair t else if op = 6 then Spec.isFp t ∨ Spec.isPair t
      else if op ≤ 9 then tagDefined t = true else t ≤ 8
    let fmt (i : Instr) (r g : Nat) : Prop := exec i s = .next (s.takeTrap s.cur 3 (BitVec.ofNat 64 (r + g * 256)));
    (∀ op, op < 13 → ¬ takes op → fmt (two op) ra.toNat t) ∧
    (∀ op, op < 13 → takes op → sc = 0 → s.me.vtag rb.toNat ≠ t → fmt (two op) (rb.toNat + 32) (s.me.vtag rb.toNat)) ∧
    (Spec.isFp t ∨ Spec.isPair t → (sc = 0 → s.me.vtag rb.toNat = t) → s.me.vtag rd.toNat ≠ t →
      fmt (.vfma sc mk rb ra rd stl) rd.toNat (s.me.vtag rd.toNat)) ∧
    (¬ (Spec.isInt t ∨ Spec.isFp t ∨ Spec.isPair t) → fmt (.vabs mk ra rd stl) ra.toNat t ∧ fmt (.vneg mk ra rd stl) ra.toNat t) ∧
    (¬ (Spec.isFp t ∨ Spec.isPair t) → fmt (.vsqrt mk ra rd stl) ra.toNat t) ∧
    (s.me.grant ≠ 0 → (if sc = 0 then s.me.vtag rb.toNat = s.me.vtag ra.toNat else s.plain rb) →
    let z := tagBits t
    let m := s.me.cr.frm.toNat % 8
    let A (e : Nat) : Nat := Spec.elem s.me t ra.toNat e
    let B (e : Nat) : Nat := if sc = 0 then Spec.elem s.me t rb.toNat e else (s.me.reg rb.toNat).toNat % 2 ^ z
    let D (e : Nat) : Nat := Spec.elem s.me t rd.toNat e
    let out (f : Nat → Nat → Nat → Nat × Nat) : Outcome State Fault Refusal :=
      Spec.vset s stl rd t (Spec.on s.me mk) fun e => f (A e) (B e) (D e)
    let arith (i : Int → Int → Int) (g : Fmt → Nat → Nat → Nat × Nat) : Outcome State Fault Refusal :=
      out (Spec.ew t i fun f a b _ => g f a b)
    let bits (g : Nat → Nat → Nat) : Outcome State Fault Refusal := out fun a b _ => (g a b, 0);
    (Spec.isInt t ∨ Spec.isFp t ∨ Spec.isPair t →
      exec (.vadd sc mk rb ra rd stl) s = arith (· + ·) (fun f a b => f.addNum m (f.decode a) (f.decode b)) ∧
      exec (.vsub sc mk rb ra rd stl) s = arith (· - ·) (fun f a b => f.addNum m (f.decode a) (f.decode b).flip) ∧
      exec (.vmul sc mk rb ra rd stl) s = arith (· * ·) (fun f a b => f.ofNum m (mulNum (f.decode a) (f.decode b))) ∧
      exec (.vdiv sc mk rb ra rd stl) s = arith (fun a b => if b = 0 then -1 else a.tdiv b) (fun f a b => f.div m (f.decode a) (f.decode b)) ∧
      exec (.vmin sc mk rb ra rd stl) s = arith min (fun f a b => f.minMax false false a b) ∧
      exec (.vmax sc mk rb ra rd stl) s = arith max (fun f a b => f.minMax true false a b) ∧
      exec (.vabs mk ra rd stl) s = arith (fun a _ => |a|)
        (fun f a _ => (if (f.decode a).isNaN then f.canonNaN else a % f.signBit, 0)) ∧
      exec (.vneg mk ra rd stl) s = arith (fun a _ => -a)
        (fun f a _ => (if (f.decode a).isNaN then f.canonNaN else (a + f.signBit) % (2 * f.signBit), 0))) ∧
    (Spec.isFp t ∨ Spec.isPair t →
      (s.me.vtag rd.toNat = t → exec (.vfma sc mk rb ra rd stl) s =
        out (Spec.fl t fun f a b d => f.addNum m (mulNum (f.decode a) (f.decode b)) (f.decode d))) ∧
      exec (.vsqrt mk ra rd stl) s = arith (fun a _ => a) (fun f a _ => f.sqrt m (f.decode a))) ∧
    (tagDefined t = true →
      exec (.vand sc mk rb ra rd stl) s = bits (· &&& ·) ∧ exec (.vor sc mk rb ra rd stl) s = bits (· ||| ·) ∧
      exec (.vxor sc mk rb ra rd stl) s = bits (· ^^^ ·)) ∧
    (t ≤ 8 →
      exec (.vshl sc mk rb ra rd stl) s = bits (fun a b => a * 2 ^ (b % z) % 2 ^ z) ∧
      exec (.vshr sc mk rb ra rd stl) s = bits (fun a b => a / 2 ^ (b % z)) ∧
      exec (.vsra sc mk rb ra rd stl) s =
        bits (fun a b => Spec.wr t ((if 2 ^ (z - 1) ≤ a then (a : Int) - 2 ^ z else a) / 2 ^ (b % z)))))

/-- R197 to R200: VCMP writes a mask bit for every element, VSEL every element, VCVT converts what both formats have room for and zeroes the
rest, and VSFU queues one request for its active elements, at its place in the arithmetic cycle (R188; log entry 8): behind a request of
a core of a later place it stays until the next one. -/
def Obligations.VectorComparesAndConverts : Prop :=
  ∀ (s : State) (sc : BitVec 1) (mk md fn : BitVec 3) (rb ra rd ft : BitVec 5) (cc stl : BitVec 2), Quiet s → isGeneral s.cur = true →
    s.me.grant ≠ 0 →
    let t := s.me.vtag ra.toNat
    let m := s.me.cr.frm.toNat % 8
    let A (e : Nat) : Nat := Spec.elem s.me t ra.toNat e
    let B (e : Nat) : Nat := if sc = 0 then Spec.elem s.me t rb.toNat e else (s.me.reg rb.toNat).toNat % 2 ^ tagBits t
    let second : Prop := if sc = 0 then s.me.vtag rb.toNat = t else s.plain rb
    let f := if t = 0x13 then bf16 else if t = 0x14 then fp32 else fp64
    let nan (e : Nat) : Bool := (f.decode (A e)).isNaN || (f.decode (B e)).isNaN
    let snan (e : Nat) : Bool := (f.decode (A e)).isSNaN || (f.decode (B e)).isSNaN
    let rel (e : Nat) : Option Ordering :=
      if t ≤ 8 then some (compare (Spec.sv t (A e)) (Spec.sv t (B e))) else numCmp (f.decode (A e)) (f.decode (B e))
    let holds (e : Nat) : Bool := if cc = 0 then rel e == some .eq else if cc = 1 then rel e == some .lt
      else if cc = 2 then (rel e == some .lt || rel e == some .eq) else !(rel e == some .eq)
    let nv (e : Nat) : Bool := decide (8 < t) && (if cc = 1 ∨ cc = 2 then nan e else snan e)
    let ci (t : Nat) : Nat := if t ≤ 8 then t - 1 else t - 8
    let ok (t : Nat) : Prop := 1 ≤ t ∧ t ≤ 8 ∨ 0x10 ≤ t ∧ t ≤ 0x15
    let d := ft.toNat
    let both := min (Spec.count s.me t) (Spec.count s.me d);
    (Spec.isInt t ∨ Spec.isFp t → second → ∃ v : BitVec 4096,
      (∀ i, i < 4096 → v.getLsbD i = (decide (i < Spec.count s.me t) && Spec.on s.me mk i && holds i)) ∧
      exec (.vcmp sc mk rb ra cc md stl) s = Spec.mset s stl md v
        (if (List.range (Spec.count s.me t)).any (fun e => Spec.on s.me mk e && nv e) then 16 else 0)) ∧
    (tagDefined t = true → second → exec (.vsel sc mk rb ra rd stl) s =
      Spec.vset s stl rd t (fun _ => true) fun e => (if Spec.on s.me mk e then A e else B e, 0)) ∧
    (ok t → ok d → d ≠ t → ¬ (t ≤ 8 ∧ d ≤ 8) → exec (.vcvt mk ft ra rd stl) s =
      Spec.vset s stl rd d (fun e => Spec.on s.me mk e || decide (both ≤ e)) fun e =>
        if both ≤ e then (0, 0) else ciEncode m (ci d) (ciDecode (ci t) (A e))) ∧
    (ok t → (¬ ok d ∨ d = t ∨ t ≤ 8 ∧ d ≤ 8) → exec (.vcvt mk ft ra rd stl) s =
      .next (s.takeTrap s.cur 3 (BitVec.ofNat 64 (d + 32 + d * 256)))) ∧
    (t = 0x14 → s.inTurn uSFU = false → exec (.vsfu mk fn ra rd stl) s = .next s) ∧
    (t = 0x14 → s.inTurn uSFU = true → exec (.vsfu mk fn ra rd stl) s = .next (((s.after 4 stl id).serve uSFU).modCluster (clusterOf s.cur) fun x =>
      { x with sfu := x.sfu ++ [{ core := s.cur, fn := fn.toNat, dest := none, rd := 0, vd := some rd.toNat, mask := s.me.mask mk.toNat,
                                  args := (List.range (Spec.count s.me 0x14)).map fun e => BitVec.ofNat 64 (A e), ctx := s.me.cr.ctx }] }))

/-- R190 to R192, R201, R202, R121: VCLAIM grants the largest aligned free block that is no larger than the request, the lowest of its
size, and clears the vector state; VREL releases it; VLEN reads it. A control core is granted 0; on it the vector instructions trap ILLOP, and so
they do on accepted tags on a core without a grant: that a tag which is not accepted traps FMTCHK there first is an inference (log entry 27). Claims
of one arithmetic cycle are served in ascending core number; that one which comes behind a higher core stays is an inference (log entry 8), and that
VREL clears registers, masks and tags is the model's choice (log entry 130). -/
def Obligations.VectorClaims : Prop :=
  ∀ (s : State) (sc nr : BitVec 1) (lg mk mb ma md op fn : BitVec 3) (aop : BitVec 4) (lo hi cc : BitVec 2) (ft rb ra rd : BitVec 5)
    (stl : BitVec 2), Quiet s →
    let illop (i : Instr) : Prop := exec i s = .next (s.takeTrap s.cur 1 (instrBits i))
    let untagged : List Instr := [.vld mk ft ra rd stl, .vbc mk ft ra rd stl, .vmop mb lo ma hi md stl, .vtag ft rd stl]
    let numbers : List Instr := [.vadd sc mk rb ra rd stl, .vsub sc mk rb ra rd stl, .vmul sc mk rb ra rd stl, .vdiv sc mk rb ra rd stl,
      .vmin sc mk rb ra rd stl, .vmax sc mk rb ra rd stl, .vfma sc mk rb ra rd stl, .vabs mk ra rd stl, .vneg mk ra rd stl, .vsqrt mk ra rd stl,
      .vand sc mk rb ra rd stl, .vor sc mk rb ra rd stl, .vxor sc mk rb ra rd stl, .vcmp sc mk rb ra cc md stl, .vsel sc mk rb ra rd stl,
      .vcvt mk 0x15 ra rd stl, .vsfu mk fn ra rd stl, .vlds mk rb ra rd stl, .vst mk ra rd stl, .vsts mk rb ra rd stl,
      .vslide mk rb ra rd stl, .vxtr rb ra rd stl, .vred mk 0 ra rd stl, .vscan mk 0 ra rd stl]
    let integers : List Instr := [.vshl sc mk rb ra rd stl, .vshr sc mk rb ra rd stl, .vsra sc mk rb ra rd stl, .vperm mk rb ra rd stl,
      .vldx mk rb ra rd stl, .vstx mk rb ra rd stl]
    let tagged (t : Nat) : Prop := s.me.vtag ra.toNat = t ∧ s.me.vtag rb.toNat = t ∧ s.me.vtag rd.toNat = t
    let cl := clusterOf s.cur
    let free (g lo : Nat) : Prop := ∀ u, u < 8 → cl * 16 + u ≠ s.cur → (s.core (cl * 16 + u)).grant = 0 ∨
      (s.core (cl * 16 + u)).lane + (s.core (cl * 16 + u)).grant ≤ lo ∨ lo + g ≤ (s.core (cl * 16 + u)).lane
    let granted (s : State) (G lane : Nat) : Outcome State Fault Refusal := .next (s.after 4 stl fun c =>
      ({ c with req := 8 * 2 ^ lg.toNat, grant := G, lane := lane, vregs := [], masks := [], vtags := [] }).putReg rd.toNat (BitVec.ofNat 64 G) 0);
    (s.mayWrite rd → isGeneral s.cur = true → s.inTurn uLANES = false → exec (.vclaim lg rd stl) s = .next s) ∧
    (s.mayWrite rd → isGeneral s.cur = true → s.inTurn uLANES = true → ∃ G lane, exec (.vclaim lg rd stl) s = granted (s.serve uLANES) G lane ∧
      (G = 0 ∨ (∃ i, i ≤ lg.toNat ∧ G = 8 * 2 ^ i) ∧ lane % G = 0 ∧ lane + G ≤ 256 ∧ free G lane) ∧
      (∀ i q, i ≤ lg.toNat → (q + 1) * (8 * 2 ^ i) ≤ 256 → free (8 * 2 ^ i) (q * (8 * 2 ^ i)) →
        8 * 2 ^ i < G ∨ 8 * 2 ^ i = G ∧ lane ≤ q * (8 * 2 ^ i))) ∧
    (s.mayWrite rd → isGeneral s.cur = false → exec (.vclaim lg rd stl) s = granted s 0 0) ∧
    (isGeneral s.cur = true → exec (.vrel stl) s = .next (s.after 4 stl fun c =>
      if s.me.grant = 0 then c else { c with req := 0, grant := 0, lane := 0, vregs := [], masks := [], vtags := [] })) ∧
    (s.mayWrite rd → exec (.vlen rd stl) s = .next (s.wrote 4 stl rd (BitVec.ofNat 64 s.me.grant) 0)) ∧
    (isGeneral s.cur = false → illop (.vrel stl) ∧ illop (.vcvt mk ft ra rd stl) ∧ illop (.vred mk op ra rd stl) ∧
      illop (.vscan mk op ra rd stl) ∧ ∀ i ∈ untagged ++ numbers ++ integers, illop i) ∧
    (s.me.grant = 0 → (∀ i ∈ untagged, illop i) ∧ (tagged 0x14 → ∀ i ∈ numbers, illop i) ∧ (tagged 3 → ∀ i ∈ integers, illop i)) ∧
    (s.me.grant = 0 ∨ isGeneral s.cur = false → illop (.vatom nr aop rb ra rd stl))

/-- R203, R335: vector loads from and stores into the core's own array, element by element at the addresses of their form; an F4 load
reads every byte of the register. A VATOM performs one atomic for each element, in ascending order.
That an F4 load reads every byte and that a .n form is performed in the instruction's own step are the model's choices (log entries 28, 23). -/
def Obligations.VectorMemory : Prop :=
  ∀ (s : State) (mk : BitVec 3) (ft rb ra rd : BitVec 5) (stl : BitVec 2), Quiet s → isGeneral s.cur = true → s.me.grant ≠ 0 →
    s.plain ra → (∀ a, s.me.arr.isBad a = false) →
    let a := s.me.reg ra.toNat
    let t := s.me.vtag rd.toNat
    let ti := s.me.vtag rb.toNat
    let z (t : Nat) : Nat := tagBits t / 8
    let idx (e : Nat) : Int := Spec.sv ti (Spec.elem s.me ti rb.toNat e) * (z t : Nat)
    let lin (e : Nat) : Nat := Spec.past a (e * z t : Nat)
    let str (e : Nat) : Nat := Spec.past a (e * (s.me.reg rb.toNat).toInt)
    let ind (e : Nat) : Nat := Spec.past a (idx e)
    let on (e : Nat) : Bool := Spec.on s.me mk e
    let onI (e : Nat) : Bool := Spec.on s.me mk e && decide (e < Spec.count s.me ti)
    let isIdx : Prop := ti = 3 ∨ ti = 4 ∨ ti = 7 ∨ ti = 8
    let inside (t : Nat) (act : Nat → Bool) (va : Nat → Nat) : Prop :=
      ∀ e, e < Spec.count s.me t → act e = true → va e % z t = 0 ∧ Spec.inArray s (va e) (z t)
    let got (t : Nat) (act : Nat → Bool) (va : Nat → Nat) : Outcome State Fault Refusal :=
      Spec.vset (Spec.looked s (((List.range (Spec.count s.me t)).filter act).map va) (z t)) stl rd t act fun e =>
        (leNat (s.me.arr.read (va e - Spec.sysBase) (z t)), 0)
    let put (i : Instr) (t : Nat) (act : Nat → Bool) (va : Nat → Nat) (n sz : Nat) : Prop :=
      ∃ u, exec i s = .next u ∧ Spec.Own s u ∧ u.me.pc = s.me.pc + 4 ∧ u.me.vregs = s.me.vregs ∧ u.me.vtags = s.me.vtags ∧
        u.me.masks = s.me.masks ∧ u.me.cr = s.me.cr ∧ u.me.preds = s.me.preds ∧ Spec.VStored s u n act va sz (Spec.elem s.me t rd.toNat);
    (ft ≠ 0x10 → inside ft.toNat on (fun e => Spec.past a (e * z ft.toNat : Nat)) →
      exec (.vld mk ft ra rd stl) s = got ft.toNat on fun e => Spec.past a (e * z ft.toNat : Nat)) ∧
    ((∀ i, i < 8 * s.me.grant → Spec.inArray s (Spec.past a (i : Nat)) 1) → exec (.vld mk 0x10 ra rd stl) s =
      Spec.vset (Spec.looked s ((List.range (8 * s.me.grant)).map fun i => Spec.past a (i : Nat)) 1) stl rd 0x10 on
        fun e => ((s.me.arr.byte (Spec.past a (e / 2 : Nat) - Spec.sysBase)).toNat / 16 ^ (e % 2) % 16, 0)) ∧
    (tagDefined t = true → t ≠ 0x10 →
      (s.plain rb → inside t on str → exec (.vlds mk rb ra rd stl) s = got t on str) ∧
      (isIdx → inside t onI ind → exec (.vldx mk rb ra rd stl) s = got t onI ind) ∧
      (s.me.arr.wf = true → s.me.idemOn = false →
        (inside t on lin → put (.vst mk ra rd stl) t on lin (Spec.count s.me t) (z t)) ∧
        (s.plain rb → inside t on str → put (.vsts mk rb ra rd stl) t on str (Spec.count s.me t) (z t)) ∧
        (isIdx → inside t onI ind → put (.vstx mk rb ra rd stl) t onI ind (Spec.count s.me t) (z t)))) ∧
    (t = 0x10 → s.me.arr.wf = true → s.me.idemOn = false →
      (∀ i, i < 8 * s.me.grant → Spec.inArray s (Spec.past a (i : Nat)) 1) →
      put (.vst 0 ra rd stl) 1 (fun _ => true) (fun i => Spec.past a (i : Nat)) (8 * s.me.grant) 1) ∧
    (∀ (nr : BitVec 1) (op : BitVec 4) (s1 : State) (ps : List (Nat × Nat × Bool)), tagDefined t = true → isIdx →
      (if op.toNat ≤ 5 then t = 3 ∨ t = 4 ∨ t = 7 ∨ t = 8 else if op.toNat = 6 then t = 0 ∨ t = 3 ∨ t = 4 ∨ t = 7 ∨ t = 8
        else Spec.isFp t ∨ Spec.isPair t) →
      let n := min (Spec.count s.me t) (Spec.count s.me ti)
      let xs := (List.range n).map (Spec.elem s.me t rd.toNat)
      Spec.Placed s.cur (z t) (s.at 4) ((List.range n).map ind) s1 ps →
      let r := Spec.atoms s.cur (z t) (fun b m => let v := atomNew op.toNat t m b; (some v.1, v.2)) s1 (ps.zip xs)
      exec (.vatom nr op rb ra rd stl) s =
        if nr = 0 then .next ((r.1.modCore s.cur fun c =>
          let d := c.putElems rd.toNat t (r.2.1 ++ ((List.range (Spec.count s.me t)).drop n).map (Spec.elem s.me t rd.toNat))
          Spec.closed (if 9 ≤ op.toNat then { d with cr := { d.cr with fflags := d.cr.fflags ||| BitVec.ofNat 64 r.2.2 } } else d)).past stl)
        else .next ((r.1.modCore s.cur fun c => { c with noDiscard := true }).past stl))

/-- R204, R205: movement, mask and tag instructions, and the reductions: VRED combines the active elements by the fixed tree of pairs, VSCAN by
a running value in ascending order. -/
def Obligations.VectorMovement : Prop :=
  ∀ (s : State) (mk mb ma md op : BitVec 3) (lo hi : BitVec 2) (ft rb ra rd : BitVec 5) (stl : BitVec 2), Quiet s →
    isGeneral s.cur = true → s.me.grant ≠ 0 →
    let t := s.me.vtag ra.toNat
    let ti := s.me.vtag rb.toNat
    let n := Spec.count s.me t
    let m := s.me.cr.frm.toNat % 8
    let A (e : Nat) : Nat := Spec.elem s.me t ra.toNat e
    let on (e : Nat) : Bool := Spec.on s.me mk e
    let f (a b : Nat) : Nat × Nat := Spec.comb op.toNat t m a b
    let leaf (e : Nat) : Option Nat := if on e then some (A e) else none
    let run (e : Nat) : Nat := ((List.range e).filter on).foldl (fun v i => (f v (A i)).1) (Spec.ident op.toNat t);
    (s.plain ra → exec (.vbc mk ft ra rd stl) s =
      Spec.vset s stl rd ft.toNat on fun _ => ((s.me.reg ra.toNat).toNat % 2 ^ tagBits ft.toNat, 0)) ∧
    (tagDefined t = true → Spec.isInt ti → exec (.vperm mk rb ra rd stl) s = Spec.vset s stl rd t on fun e =>
      (if e < Spec.count s.me ti then A ((Spec.sv ti (Spec.elem s.me ti rb.toNat e)) % (n : Int)).toNat else 0, 0)) ∧
    (tagDefined t = true → s.plain rb → exec (.vslide mk rb ra rd stl) s = Spec.vset s stl rd t on fun e =>
      let i : Int := e + (s.me.reg rb.toNat).toInt
      (if 0 ≤ i ∧ i < n then A i.toNat else 0, 0)) ∧
    (∃ v : BitVec 4096, (∀ i, i < 4096 → v.getLsbD i = (decide (i < 16 * s.me.grant) &&
        decide ((hi.toNat * 4 + lo.toNat) / 2 ^ (2 * ((s.me.mask ma.toNat).getLsbD i).toNat + ((s.me.mask mb.toNat).getLsbD i).toNat) % 2 = 1))) ∧
      exec (.vmop mb lo ma hi md stl) s = Spec.mset s stl md v 0) ∧
    exec (.vtag ft rd stl) s = .next (s.after 4 stl fun c => { c with vtags := tset c.vtags rd.toNat (ft.setWidth 8) }) ∧
    (tagDefined t = true → s.plain rb → s.mayWrite rd → exec (.vxtr rb ra rd stl) s =
      let i := (s.me.reg rb.toNat).toNat
      .next (s.wrote 4 stl rd (if i < n then BitVec.ofInt 64 (Spec.sv t (A i)) else 0) 0)) ∧
    (op.toNat ≤ 5 → (if op.toNat ≤ 2 then Spec.isInt t ∨ Spec.isFp t else t ≤ 8) →
      (∀ l, l ≤ 12 → n = 2 ^ l → exec (.vred mk op ra rd stl) s = Spec.vset s stl rd t (fun _ => true) fun e =>
        if e = 0 then ((Spec.node f leaf l 0).getD (Spec.ident op.toNat t), Spec.nodeFlags f leaf l 0) else (0, 0)) ∧
      exec (.vscan mk op ra rd stl) s = Spec.vset s stl rd t on fun e => f (run e) (A e))

/-! ## Firings -/

namespace Sys2Proof.Spec

/-- The current core runs firing `f`, outside its handler and its undo routines. -/
structure InBody (s : State) (f : Firing) : Prop where
  runs : s.firingOf s.cur = some f
  handler : s.me.inHandler = false
  undo : s.me.undo = false

/-- Descriptors that pass the checks of R24 in order, against the region's kind table as each check reads it (R212). -/
def Insertable (g : Region) : State → List (List Word) → State → Prop
  | s, [], u => u = s
  | s, d :: r, u => ∃ s1 e, s.kindEntry g.space g.eff.kinds (descKind d) = (s1, .ok e) ∧ insertReason d e = 0 ∧ Insertable g s1 r u

/-- `n` products whose words are `ws` have joined the buffer, and the instruction has completed (R211, R212). -/
def Buffered (s t : State) (ws : List Word) (n : Nat) : Prop :=
  t.me.pcnt = s.me.pcnt + n ∧ t.me.pc = s.me.pc + 4 ∧ t.me.cr = s.me.cr ∧ t.me.preds = s.me.preds ∧
  (∀ i j, i < n → j < 4 → t.me.arr.word (0x1000 + 32 * (s.me.pcnt + i) + 8 * j) = ws.getD (4 * i + j) 0) ∧
  (∀ a, a < 0x1000 + 32 * s.me.pcnt ∨ 0x1000 + 32 * (s.me.pcnt + n) ≤ a → t.me.arr.byte a = s.me.arr.byte a)

end Sys2Proof.Spec

/-- R210, R211, R212, R208: INDESC reads a field of the firing block; EMIT and EMITV buffer descriptors that pass the checks of R24, all or
none: the first that fails one traps FMTCHK with its kind, the reason and its index, in the state before the instruction, so that none is
buffered. The 65th product traps PRODOVF; a core without a firing traps ILLOP, and so do EMIT and EMITV in the handler, in an undo routine
and on the stager of a MATRIX firing. That cr.tval takes the instruction's bits in an undo routine and on a stager is an inference (log entry
21). -/
def Obligations.InputsAndProducts : Prop :=
  ∀ (s : State) (f : Firing) (g : Region) (sel r : BitVec 3) (word slot stl : BitVec 2) (rb ra rd : BitVec 5), Quiet s →
    let w (i : Nat) : Word := s.me.arr.word (0x600 + 32 * slot.toNat + 8 * i)
    let fld (i lo n : Nat) : Word := BitVec.ofNat 64 ((w i).toNat / 2 ^ lo % 2 ^ n)
    let q (i : Nat) : Word := s.me.reg (4 * r.toNat + i)
    let n := (s.me.reg rb.toNat).toNat
    let a := s.me.reg ra.toNat
    let bad (d : List Word) (e : Option (Word × Word)) (i : Nat) : Word := BitVec.ofNat 64 (descKind d + insertReason d e * 2 ^ 16 + i % 64 * 2 ^ 20);
    (s.mayWrite rd → s.firingOf s.cur = some f → exec (.indesc sel word slot rd stl) s = .next (s.wrote 4 stl rd
      ([w word.toNat, fld 0 0 16, fld 0 16 24, fld 0 40 24, fld 3 32 32, fld 2 53 8, fld 3 0 16, fld 3 16 16].getD sel.toNat 0) 0)) ∧
    (Spec.InBody s f → isStager s.cur = false → s.me.arr.wf = true →
      ((∀ i, i < 4 → s.plain (quadReg r + BitVec.ofNat 5 i)) →
        (∀ u, s.me.pcnt < 64 → s.region? f.region = some g → Spec.Insertable g (s.at 4) [[q 0, q 1, q 2, q 3]] u →
          ∃ t, exec (.emit r stl) s = .next t ∧ Spec.Buffered s t [q 0, q 1, q 2, q 3] 1) ∧
        (∀ u e, s.me.pcnt < 64 → s.region? f.region = some g →
          (s.at 4).kindEntry g.space g.eff.kinds (descKind [q 0, q 1, q 2, q 3]) = (u, .ok e) → insertReason [q 0, q 1, q 2, q 3] e ≠ 0 →
          exec (.emit r stl) s = .next (s.takeTrap s.cur 3 (bad [q 0, q 1, q 2, q 3] e s.me.pcnt))) ∧
        (64 ≤ s.me.pcnt → exec (.emit r stl) s = .next (s.takeTrap s.cur 9 (BitVec.ofNat 64 (s.me.pcnt % 128 * 2 ^ 16 + 1))))) ∧
      (s.plain ra → s.plain rb →
        (n = 0 → s.me.pcnt ≤ 64 → exec (.emitv rb ra stl) s = .next (s.after 4 stl id)) ∧
        (∀ s1 u ws, 0 < n → s.me.pcnt + n ≤ 64 → a.toNat % 8 = 0 → s.region? f.region = some g →
          loadWordsM (a.toNat % 2 ^ 53) (4 * n) (s.at 4) = .ok (ws, s1) → Spec.Insertable g s1 (fours ws) u →
          ∃ t, exec (.emitv rb ra stl) s = .next t ∧ Spec.Buffered s t ws n) ∧
        (∀ s1 u v ws pre d post e, 0 < n → s.me.pcnt + n ≤ 64 → a.toNat % 8 = 0 → s.region? f.region = some g →
          loadWordsM (a.toNat % 2 ^ 53) (4 * n) (s.at 4) = .ok (ws, s1) → fours ws = pre ++ d :: post → Spec.Insertable g s1 pre u →
          u.kindEntry g.space g.eff.kinds (descKind d) = (v, .ok e) → insertReason d e ≠ 0 →
          exec (.emitv rb ra stl) s = .next (s.takeTrap s.cur 3 (bad d e (s.me.pcnt + pre.length)))) ∧
        (64 < s.me.pcnt + n → exec (.emitv rb ra stl) s =
          .next (s.takeTrap s.cur 9 (BitVec.ofNat 64 (s.me.pcnt % 128 * 2 ^ 16 + min n 0xFFFF)))) ∧
        (0 < n → s.me.pcnt + n ≤ 64 → a.toNat % 8 ≠ 0 → exec (.emitv rb ra stl) s = .next (s.takeTrap s.cur 5 a)))) ∧
    (s.firingOf s.cur = none → exec (.indesc sel word slot rd stl) s =
      .next (s.takeTrap s.cur 1 (instrBits (.indesc sel word slot rd stl)))) ∧
    (s.firingOf s.cur = none ∨ s.me.inHandler = true ∨ s.me.undo = true ∨ isStager s.cur = true →
      exec (.emit r stl) s = .next (s.takeTrap s.cur 1 (instrBits (.emit r stl))) ∧
      exec (.emitv rb ra stl) s = .next (s.takeTrap s.cur 1 (instrBits (.emitv rb ra stl))))

namespace Sys2Proof.Spec

/-- The ACTIVE region that an RCB names as its parent (R66). -/
def parent (s : State) (func proc : Nat) (w : List Word) : Option Region :=
  if fieldNat (w.getD 0 0) 0 53 = 0 then none
  else (s.regions.find? fun g => g.func == func && g.proc == proc && g.rcb == fieldNat (w.getD 0 0) 0 53).filter (·.state == .active)

/-- Field `b` of a child: its parent's where the parent's PASS bit is set and the child's OVERRIDE bit is clear, else its own (R66). -/
def pick {α : Type} (p : Option Region) (w : List Word) (b : Nat) (own : α) (get : Eff → α) : α :=
  match p with
  | some g => if g.pass / 2 ^ b % 2 = 1 ∧ (w.getD 7 0).getLsbD (16 + b) = false then get g.eff else own
  | none => own

/-- The fields that R66 gives an activated region, and what R64 starts it with. -/
structure Activated (p : Option Region) (rcb : Nat) (w : List Word) (hold : Bool) (g : Region) : Prop where
  state : g.state = .active ∧ g.rcb = rcb ∧ g.parent = p.map (·.id) ∧ g.step = 0 ∧ g.cnt = .zero ∧ (hold = true → g.held = true)
  own : g.pass = (w.getD 7 0).toNat % 2 ^ 16 ∧ g.cdesc = w.getD 8 0
  rules : ∀ q, p = some q → q.pass % 2 = 1 → (w.getD 7 0).getLsbD 16 = false → g.eff.rules = q.eff.rules
  kbank : ∀ q, p = some q → q.pass / 8 % 2 = 1 → (w.getD 7 0).getLsbD 19 = false → g.eff.kbank = q.eff.kbank
  tables : g.eff.kinds = pick p w 1 (fieldNat (w.getD 3 0) 0 53) (·.kinds) ∧ g.eff.comm = pick p w 2 (fieldNat (w.getD 4 0) 0 53) (·.comm) ∧
    g.eff.trap.toNat = pick p w 4 (fieldNat (w.getD 6 0) 0 53) (·.trap.toNat)
  mode : g.eff.stepped = pick p w 5 (decide (fieldNat (w.getD 1 0) 0 2 = 1)) (·.stepped) ∧
    g.eff.rollback = pick p w 5 ((w.getD 1 0).getLsbD 2) (·.rollback) ∧ g.eff.paired = pick p w 5 ((w.getD 1 0).getLsbD 3) (·.paired)
  ctrl : g.eff.prio = pick p w 6 (fieldNat (w.getD 1 0) 8 3) (·.prio) ∧ g.eff.fdom = pick p w 7 (fieldNat (w.getD 1 0) 16 16) (·.fdom) ∧
    g.eff.smap = pick p w 8 (fieldNat (w.getD 1 0) 32 4) (·.smap)
  budgets : g.eff.bfire = pick p w 9 (w.getD 9 0).toNat (·.bfire) ∧ g.eff.bcore = pick p w 10 (w.getD 10 0).toNat (·.bcore) ∧
    g.eff.btile = pick p w 11 (w.getD 11 0).toNat (·.btile) ∧ g.eff.bmem = pick p w 12 (w.getD 12 0).toNat (·.bmem) ∧
    g.eff.btime = pick p w 13 (w.getD 13 0).toNat (·.btime)
  frmi : g.eff.frmi.toNat % 16 = pick p w 14 (fieldNat (w.getD 14 0) 0 4) (·.frmi.toNat % 16)

/-- Check 1 of R74 fails for an RCB without a parent: the model's choice for bits [63:32] of INHERIT (log entry 44). -/
def BadRcb (rcb : Nat) (w : List Word) : Prop :=
  rcb % 256 ≠ 0 ∨ (∃ i ∈ [0, 2, 3, 4, 5, 6], 2 ^ 53 ≤ (w.getD i 0).toNat) ∨ w.getD 1 0 &&& 0xFE00FFF00000F8F0 ≠ 0 ∨
  w.getD 7 0 &&& 0xFFFFFFFF80008000 ≠ 0 ∨ 16 ≤ (w.getD 14 0).toNat ∨ w.getD 15 0 ≠ 0 ∨ 1 < fieldNat (w.getD 1 0) 0 2 ∨
  4 < fieldNat (w.getD 14 0) 0 3 ∨ fieldNat (w.getD 2 0) 0 53 % 64 ≠ 0 ∨ fieldNat (w.getD 3 0) 0 53 % 16 ≠ 0 ∨
  fieldNat (w.getD 4 0) 0 53 % 16 ≠ 0 ∨ fieldNat (w.getD 5 0) 0 53 % 8 ≠ 0

/-- The checks of R74 before the kind table, for an RCB without a parent: check `i`, in order, fails. -/
def FailsCheck (s : State) (func proc rcb : Nat) (w : List Word) (i : Nat) : Prop :=
  let ctrl := w.getD 1 0
  if i = 1 then BadRcb rcb w
  else if i = 2 then ctrl.getLsbD 2 = true ∧ fieldNat ctrl 0 2 ≠ 1
  else if i = 3 then ctrl.getLsbD 3 = true ∧ s.bays < 2
  else if i = 4 then ¬ (1 ≤ fieldNat ctrl 48 9 ∧ fieldNat ctrl 48 9 ≤ 256)
  else if i = 5 then ¬ (fieldNat (w.getD 16 0) 0 4 = 0 ∨ fieldNat (w.getD 16 0) 0 4 = 3 ∨
      ∃ x ∈ s.lostStatus, x.1 = func * 256 + proc ∧ x.2.1 = rcb) ∨
    ∃ g ∈ s.regions, g.func = func ∧ g.proc = proc ∧ g.rcb = rcb
  else 4096 ≤ s.regions.length

/-- A record of a PLAIN rule of one slot without guards, that passes the checks of R74 against the entry of its kind. -/
structure PlainRule (r0 r1 r4 : Word) (e : Word × Word) : Prop where
  arity : fieldNat r0 0 5 = 1 ∧ fieldNat r0 8 4 = 0 ∧ fieldNat r0 12 2 ≠ 3 ∧ r0.getLsbD 15 = false ∧ fieldNat r0 18 46 = 0
  sel : fieldNat r0 16 2 = fieldNat e.1 0 2 ∧ fieldNat r0 16 2 ≠ 3
  kind : r1.toNat < 2 ^ 16
  entry : r4.toNat < 2 ^ 53 ∧ r4.toNat % 2 = 0 ∧ r4 ≠ 0

end Sys2Proof.Spec

/-- R217, R220, R225, R222, R378, R224: IDEM opens a region at NPC with the live-ins it names; KLD reads the region's constants; BOP records its
operation, pushes the inverse call unless the kind is READ and opens a section; where an older firing holds the object, where no entry is
free and where the undo stack is full it aborts with reasons 1, 2 and 3, and where only younger ones hold it waits with OPEN 0 and they are
notified; BOP.end closes the section; RSPAWN activates a template of its own region and reports the outcome.
What a BOP pushes: the inverse call at the new top of the undo stack, with OPEN set.
R74, R66, R64: the activation that START and RSPAWN make: the reasons 1 to 7 of an RCB without a parent, in order; the region that a good RCB
with one PLAIN rule gives; and the fields of every region that an activation gives, its own or its parent's.
The order in which rule records are read, bits [63:32] of INHERIT, own fields in an inherited place, a parent found by function, process
and RCB, the count of DRAINING regions, a STATUS whose store was lost in check 5 and bytes 0xD0 to 0xFF of an RCB unchecked are the model's
choices or inferences (log entries 43, 44, 45, 34, 47, 72, 101). An RSPAWN whose refused child would deliver a tile out of its order in the cycle
(R389) waits as a whole, which is an inference (log entry 116). -/
def Obligations.RegionsAndChildren : Prop :=
  (∀ (s : State) (f : Firing) (g : Region) (kh : BitVec 1) (kn rb ra kl rd : BitVec 5) (stl : BitVec 2), Quiet s → s.plain ra →
     let a := s.me.reg ra.toNat;
     (s.me.isThread = false → s.me.undo = false → exec (.idem ra stl) s = .next (s.after 4 stl fun c =>
       { c with ient := c.pc, imask := a.setWidth 32 &&& 0xFFFFFFFE, ipc := c.pcnt, noDiscard := false, waitOpen := false,
                entry := { preds := c.preds, gens := c.gens, ctl := c.cr }, empty := true })) ∧
     (s.me.isThread = true → exec (.idem ra stl) s = .next (s.after 4 stl id)) ∧
     (s.mayWrite rd → s.regionOf s.cur = some g →
       exec (.kld kn rd stl) s = .next (s.wrote 4 stl rd (g.eff.kbank.getD kn.toNat 0) 0) ∧
       (a.toNat < 32 → exec (.kldX ra rd stl) s = .next (s.wrote 4 stl rd (g.eff.kbank.getD a.toNat 0) 0))) ∧
     (32 ≤ a.toNat → exec (.kldX ra rd stl) s = .next (s.takeTrap s.cur 1 a)) ∧
     (Spec.InBody s f → s.region? f.region = some g → s.classOf f = 2 → s.plain rb → s.me.arr.wf = true →
       let k := kh.toNat * 32 + kl.toNat
       let read : Bool := (g.eff.commInv.getD k 0).getLsbD 53
       let rivals := s.rivals f a (g.eff.commRows.getD k 0)
       let shut := (s.at 4).modCore s.cur fun c => c.setUndo false c.ucnt
       exec (.bopEnd stl) s = .next (s.after 4 stl fun c => Spec.closed (c.setUndo false c.ucnt)) ∧
       (g.eff.commRows.length ≤ k → exec (.bop kh rb ra kl stl) s = .next (s.takeTrap s.cur 1 (BitVec.ofNat 64 k))) ∧
       (k < g.eff.commRows.length → read = false → s.me.ucnt = 319 → exec (.bop kh rb ra kl stl) s = .next (shut.bopConf s.cur 3)) ∧
       (k < g.eff.commRows.length → (read = true ∨ s.me.ucnt ≠ 319) →
         ((∃ h ∈ rivals, h.stamp < f.stamp) → exec (.bop kh rb ra kl stl) s = .next (shut.bopConf s.cur 1)) ∧
         (rivals ≠ [] → (∀ h ∈ rivals, f.stamp ≤ h.stamp) → ∃ u, exec (.bop kh rb ra kl stl) s = .next u ∧ u.me.pc = s.me.pc ∧
           u.me.opened = false ∧ u.me.ucnt = s.me.ucnt ∧ u.filters = s.filters ∧
           ∀ h ∈ rivals, ∀ x, u.firing? h.id = some x → x.notified = true) ∧
         (rivals = [] → shut.recordOp f a k = none → exec (.bop kh rb ra kl stl) s = .next (shut.bopConf s.cur 2)) ∧
         (∀ u, rivals = [] → shut.recordOp f a k = some u →
           let v := if read then u else u.modCore s.cur fun c => c.pushUndo (g.eff.commInv.getD k 0) k a (s.me.reg rb.toNat)
           exec (.bop kh rb ra kl stl) s = .next (((v.acquireAt s.cur v.regionScope false).modCore s.cur fun c =>
             Spec.closed { c with ahead := [] }).past stl)))) ∧
     (Spec.InBody s f → s.region? f.region = some g → s.mayWrite rd →
       (a.toNat % 256 ≠ 0 → exec (.rspawn ra rd stl) s = .next (s.takeTrap s.cur 5 a)) ∧
       (∀ w s1, a.toNat % 256 = 0 → loadWordsM (a.toNat % 2 ^ 53) 32 (s.at 4) = .ok (w, s1) →
         ((w.getD 0 0).toNat % 2 ^ 53 ≠ g.rcb → exec (.rspawn ra rd stl) s =
           .next ((s1.modCore s.cur fun c => Spec.closed (c.putReg rd.toNat 16 0)).past stl)) ∧
         ((w.getD 0 0).toNat % 2 ^ 53 = g.rcb →
           let s2 := s1.release s.cur s1.regionScope
           let r := s2.activate g.func g.proc (a.toNat % 2 ^ 53) w false
           exec (.rspawn ra rd stl) s = if s2.tooSoon r.1 then .next s
             else .next ((r.1.modCore s.cur fun c => Spec.closed (c.putReg rd.toNat (BitVec.ofNat 64 r.2) 0)).past stl))))) ∧
  (∀ (c : Machine.Core) (e0 obj arg : Word) (k : Nat), c.arr.wf = true → c.ucnt < 319 → k < 64 →
     let d := c.pushUndo e0 k obj arg
     let b := 0x1800 + 32 * (c.ucnt + 1)
     d.ucnt = c.ucnt + 1 ∧ d.opened = true ∧ (d.arr.word b).toNat % 2 ^ 53 = e0.toNat % 2 ^ 53 ∧ (d.arr.word b).toNat / 2 ^ 53 = k ∧
     d.arr.word (b + 8) = obj ∧ d.arr.word (b + 16) = arg ∧ (∀ n, 8 ≤ n → n < 32 * (c.ucnt + 1) → d.arr.byte (0x1800 + n) = c.arr.byte (0x1800 + n))) ∧
  (∀ (s : State) (func proc rcb : Nat) (w : List Word) (hold : Bool),
     let r := s.activate func proc rcb w hold
     let space := func * 256 + proc
     let kinds := fieldNat (w.getD 3 0) 0 53
     let good : Prop := ∀ i, 1 ≤ i → i ≤ 6 → ¬ Spec.FailsCheck s func proc rcb w i;
     (fieldNat (w.getD 0 0) 0 53 = 0 →
       (∀ i, 1 ≤ i → i ≤ 6 → Spec.FailsCheck s func proc rcb w i → (∀ j, 1 ≤ j → j < i → ¬ Spec.FailsCheck s func proc rcb w j) → r.2 = i) ∧
       (∀ s1 e, good → s.devWords space kinds 2 = (s1, .error e) → r.2 = 15) ∧
       (∀ s1 h0 h1, good → s.devWords space kinds 2 = (s1, .ok [h0, h1]) → ¬ (2 ≤ h0.toNat ∧ h0.toNat ≤ 65536 ∧ h1 = 0) → r.2 = 7) ∧
       (r.2 ≠ 0 → r.1.regions.map (·.id) = s.regions.map (·.id) ∧ r.1.nextRegion = s.nextRegion) ∧
       (∀ s1 s2 s3 s4 h0 h1 r0 r1 r4 r6 e kb, good → fieldNat (w.getD 1 0) 48 9 = 1 → s.devWords space kinds 2 = (s1, .ok [h0, h1]) →
         2 ≤ h0.toNat → h0.toNat ≤ 65536 → h1 = 0 →
         s1.devWords space (fieldNat (w.getD 2 0) 0 53) 8 = (s2, .ok [r0, r1, 0, 0, r4, 0, r6, 0]) →
         s2.kindEntry space kinds r1.toNat = (s3, .ok (some e)) → Spec.PlainRule r0 r1 r4 e →
         s3.devWords space (fieldNat (w.getD 5 0) 0 53) 32 = (s4, .ok kb) →
         r.2 = 0 ∧ ((∀ x ∈ s.regions, x.id ≠ s.nextRegion) → ∃ g, r.1.region? s.nextRegion = some g ∧
           g.eff.rules = [[r0, r1, 0, 0, r4, 0, r6, 0]] ∧ g.eff.kbank = kb))) ∧
     (r.2 = 0 → (∀ x ∈ s.regions, x.id ≠ s.nextRegion) → r.1.nextRegion = s.nextRegion + 1 ∧
       ∃ g, r.1.region? s.nextRegion = some g ∧ g.func = func ∧ g.proc = proc ∧ Spec.Activated (Spec.parent s func proc w) rcb w hold g))

namespace Sys2Proof.Spec

/-- From `s`, undo entry `n` of core `k` is called in `t` (R226). -/
def Calls (s t : State) (k n : Nat) : Prop :=
  let w (i : Nat) : Word := (s.core k).arr.word (0x1800 + 32 * n + 8 * i)
  (t.core k).undo = true ∧ (t.core k).ucnt = n ∧ (t.core k).opened = false ∧ ((w 0).toNat % 2 = 0 → (t.core k).pc.toNat = (w 0).toNat % 2 ^ 53) ∧
  (t.core k).reg 3 = w 1 ∧ (t.core k).reg 4 = w 2 ∧ (t.core k).reg 5 = BitVec.ofNat 64 ((w 0).toNat / 2 ^ 53 % 64) ∧
  (t.core k).reg 1 = 0x1FFFFFFF001800 ∧ (∀ m, m < 32 → m ∉ [1, 3, 4, 5] → (t.core k).reg m = (s.core k).reg m) ∧
  (t.core k).run = (s.core k).run ∧ (t.core k).cr = (s.core k).cr

end Sys2Proof.Spec

/-- R209, R213, R215, R216, R178, R225: the ends of a firing. COMMIT waits for the firing's engine commands, then releases at the region's
scope and commits, or aborts in a killed region; ABORT ends the firing; in a handler inside an open section it faults the region. The
first core of a MATRIX firing to commit waits; the commit of the last takes the inputs away, counts the firing and its products, and hands
over the buffered descriptors in order. An abort gives the inputs back. Either way the cores are idle without lanes. COMMIT in a handler and
all of them without a firing trap ILLOP.
R226: a BOOSTED firing that aborts with undo entries calls the top one, in its own context, with w3, w4, w5 and lr; its return calls the
next, and after the last the firing ends and its conflict entries go. BOP, EMIT, EMITV, COMMIT, ABORT, IDEM, RSPAWN, QSEND and CTXSW trap ILLOP
in an undo routine; that cr.tval takes the instruction's bits there, and for CTXSW its operand, is an inference (log entry 21).
That a handler's ABORT in an open section does not run the undo stack, and the zero fields of its DETAIL word, are log entries 56 and 15. R110 puts
removals before the insertions of a cycle; that a COMMIT waits where an insertion of the cycle has gone before is the model's choice (log entries 5,
113). -/
def Obligations.FiringEnds : Prop :=
  ∀ (s : State) (f : Firing) (last kh : BitVec 1) (r : BitVec 3) (rb ra kl rd : BitVec 5) (stl : BitVec 2), Quiet s →
    let illop (l : List Instr) : Prop := ∀ i ∈ l, exec i s = .next (s.takeTrap s.cur 1 (instrBits i));
    (Spec.InBody s f → s.me.poisonAt = none → s.engineBusy f.id = false → s.insertTurn [] = true →
      let out (len : Nat) : Outcome State Fault Refusal :=
        let u := (s.at len).release s.cur s.regionScope
        .next (if u.isKilled f then u.abortFiring s.cur f else u.commitCore s.cur f)
      exec (.commit stl) s = out 4 ∧ exec .cCmt s = out 2) ∧
    (Spec.InBody s f → s.me.poisonAt = none → (s.engineBusy f.id = true ∨ s.insertTurn [] = false) →
      ∀ i ∈ [Instr.commit stl, Instr.cCmt], ∃ u, exec i s = .next u ∧
      u.me.pc = s.me.pc ∧ u.me.committing = true ∧ u.me.run = s.me.run ∧ u.tiles = s.tiles) ∧
    (s.firingOf s.cur = some f → s.me.undo = false →
      (¬ (s.classOf f = 2 ∧ s.me.inHandler = true ∧ s.me.opened = true) → exec (.abort stl) s = .next ((s.at 4).abortFiring s.cur f)) ∧
      (s.classOf f = 2 → s.me.inHandler = true → s.me.opened = true → exec (.abort stl) s =
        .next (((s.at 4).faultRegion f.region (BitVec.ofNat 64 (32 + 10 * 2 ^ 32))).dropFiring f))) ∧
    (s.me.poisonAt = none → s.firingOf s.cur = none ∨ s.me.inHandler = true → illop [.commit stl, .cCmt]) ∧
    (s.firingOf s.cur = none → illop [.abort stl]) ∧
    (s.firingOf s.cur = some f → s.me.isThread = false → s.me.undo = true → s.me.poisonAt = none → illop [.bop kh rb ra kl stl, .bopEnd stl, .emit r stl,
      .emitv rb ra stl, .commit stl, .cCmt, .abort stl, .idem ra stl, .rspawn ra rd stl, .qsend last rb ra stl]) ∧
    (s.me.undo = true → s.plain ra → exec (.ctxsw ra stl) s = .next (s.takeTrap s.cur 1 (s.me.reg ra.toNat))) ∧
    (s.agenda = [] → s.me.run = .firing f.id → s.cur < 0x10000 → s.me.stopped = false → s.me.waitRecord = none → s.me.deliver = false →
      s.me.undo = true → s.me.pc = 0x1FFFFFFF001800 → step s = .next (s.undoReturned s.cur)) ∧
    (∀ k g, (∀ x ∈ f.cores, x < 0x10000) → k < 0x10000 → k ∈ f.cores → s.firing? f.id = some f → s.region? f.region = some g →
      let idle (t : State) : Prop := ∀ x ∈ f.cores, (t.core x).run = .idle ∧ (t.core x).grant = 0
      let other : Prop := s.classOf f = 1 ∧ ∃ x ∈ f.cores, x ≠ k ∧ x ∉ f.committed
      let n := (s.core ((f.cores.find? isIssuer).getD k)).pcnt
      let arr := (s.core ((f.cores.find? isIssuer).getD k)).arr
      let a := s.abortFiring k f
      let t := s.commitCore k f;
      let c := s.core k
      let ended (t : State) : Prop := idle t ∧ t.firing? f.id = none ∧ (∀ e ∈ t.filters, e.holder ≠ f.id) ∧
        t.tiles.map (·.id) = s.tiles.map (·.id) ∧ ∀ x ∈ t.tiles, x.id ∈ f.tiles → x.held = false
      let kept (t : State) : Prop := t.filters = s.filters ∧ t.tiles = s.tiles ∧ t.firing? f.id = some f;
      (s.classOf f = 2 → c.arr.wf = true → (∀ m, m < 32 → c.regOff m + 8 ≤ 0x1800 ∨ 0x1808 ≤ c.regOff m) →
        (c.undo = false → c.ucnt = 0 → ended a) ∧
        (c.undo = false → c.inHandler = false → 0 < c.ucnt → Spec.Calls s a k c.ucnt ∧ kept a ∧ (a.core k).pcnt = 0) ∧
        (c.run = .firing f.id → c.ucnt ≤ 1 → ended (s.undoReturned k)) ∧
        (1 < c.ucnt → Spec.Calls s (s.undoReturned k) k (c.ucnt - 1) ∧ kept (s.undoReturned k))) ∧
      (s.classOf f ≠ 2 → idle a ∧ a.firing? f.id = none ∧ (∀ e ∈ a.filters, e.holder ≠ f.id) ∧ a.tiles.map (·.id) = s.tiles.map (·.id) ∧
        (∀ x ∈ a.tiles, x.id ∈ f.tiles → x.held = false) ∧ a.tiles.map (·.d) = s.tiles.map (·.d)) ∧
      (other → (t.core k).run = .committed f.id ∧ t.tiles = s.tiles ∧ t.regions = s.regions ∧ t.filters = s.filters ∧
        ∃ f', t.firing? f.id = some f' ∧ k ∈ f'.committed ∧ f'.retired = f.retired) ∧
      (¬ other → idle t ∧ (∀ e ∈ t.filters, e.holder ≠ f.id) ∧
        t.tiles.map (·.id) = (s.tiles.map (·.id)).filter (fun i => !f.tiles.contains i) ∧
        (n = 0 → t.firing? f.id = none) ∧
        (0 < n → ∃ f', t.firing? f.id = some f' ∧ f'.retired = true ∧ f'.cores = [] ∧ f'.products.length = n ∧
          f'.products.map (·.index) = List.range n ∧ ∀ i, i < n → ∀ p ∈ f'.products, p.index = i →
            p.d = [arr.word (0x1000 + 32 * i), arr.word (0x1008 + 32 * i), arr.word (0x1010 + 32 * i), arr.word (0x1018 + 32 * i)]) ∧
        (f.copy = 0 → ∃ g', t.region? f.region = some g' ∧ g'.cnt.nfire = g.cnt.nfire + 1 ∧ g'.cnt.nprod = g.cnt.nprod + n)))

/-! ## Matrix cells and engines -/

namespace Sys2Proof.Spec

/-- A command of the current core has joined the staging or the matrix queue of its cell, in the order of arrival at the cluster
(R283); its firing has performed an MTX instruction (R298; log entry 132). -/
def joins (s : State) (staging : Bool) (op acc : Nat) (ops : List Word) (done : Nat) : State :=
  let cl := clusterOf s.cur
  let c : CellCmd := { who := s.whoIs s.cur, at_ := (s.cluster cl).arrivals, op := op, ops := ops, acc := acc, done := done, begun := false }
  (((s.at 4).modCell cl (cellOf s.cur) fun x =>
    if staging then { x with staging := x.staging ++ [c] } else { x with matrix := x.matrix ++ [c] }).modCluster cl fun x =>
      { x with arrivals := x.arrivals + 1 }).modCore s.cur fun c => { c with mtx := true }

/-- A report word that a command accepts (R300): a barrier object (bit 63), a sync word (61) where allowed, an event (62). -/
def Report (w : Word) (sync : Bool) : Prop :=
  fieldNat w 56 5 = 0 ∧ ¬ (bit w 63 = true ∧ bit w 61 = true) ∧ (bit w 61 = true → bit w 62 = true ∧ sync = true) ∧
  (bit w 63 = false → bit w 61 = false → w.toNat % 2 ^ 53 = 0) ∧ (bit w 63 = true → w.toNat % 32 = 0) ∧ (bit w 61 = true → w.toNat % 16 = 0)

/-- A command of the current core has joined an engine's queue (0 copy, 1 indirect copy, 2 merge), its core's dirty bytes written back
first and the open region closed (R304, R306, R218); behind a core of a later place in the arithmetic cycle it waits for the next one (log entry
8). -/
def enqueued (s : State) (stl : BitVec 2) (engine op : Nat) (ops : List Word) (report : Word) : Outcome State Fault Refusal :=
  if s.inTurn uENGINES = false then .next s else
  let u := ((s.at 4).serve uENGINES).releaseAt s.cur 2
  .next (((u.modCluster (clusterOf s.cur) fun x =>
    let c : EngCmd := { who := u.whoIs s.cur, at_ := x.arrivals, op := op, ops := ops, report := report, begun := false, done := 0, pos := 0,
                        acc := [], note := none, code := none, lost := none }
    { (x.setQueue engine (x.queue engine ++ [c])) with arrivals := x.arrivals + 1 }).modCore s.cur closed).past stl)

end Sys2Proof.Spec

/-- R275, R277, R278, R283, R286 to R289, R294: the commands of the issuer. A product joins the matrix queue with its descriptor and tag as
they stand at issue; MZERO also sets the tag; a resume puts the parked product back at the head, with the tag as it stands now; a product or
resume whose accumulator's tag is neither FP32 nor FP64 traps FMTCHK; MZERO.g claims the three other
cells, all or none; the matrix instructions of a cell trap ILLOP on the other cores.
Cells whose staging queue holds commands are busy for a claim (log entry 66, the model's reading). That the accumulator's tag is checked before
operand words, alignment, claim and parked product is an inference (log entry 64), and so is that a firing which has performed an MTX instruction is
kept when it stops (log entry 132). -/
def Obligations.MatrixIssue : Prop :=
  ∀ (s : State) (f : Firing) (dbl grp srcf : BitVec 1) (pd hs : BitVec 3) (rb ra rd : BitVec 5) (ad stl : BitVec 2), Quiet s →
    let illop (l : List Instr) : Prop := ∀ i ∈ l, exec i s = .next (s.takeTrap s.cur 1 (instrBits i))
    let cl := clusterOf s.cur
    let ce := cellOf s.cur
    let x := s.cell cl ce
    let t := (tget 0 s.me.atags ad.toNat).toNat
    let d := s.me.reg ra.toNat
    let w := s.me.reg rb.toNat
    let wide : Prop := dbl = 0 ∨ cl % 32 < 16
    let tag : Nat := if dbl = 1 then 0x15 else 0x14
    let claimed : Prop := ∀ c, c < 4 → c ≠ ce → (s.cell cl c).claim = some f.id
    let valid : Prop := fieldNat d 40 24 = 0 ∧ d.getLsbD 15 = false ∧ fieldNat d 28 12 ≠ 0 ∧ fieldNat d 16 12 + fieldNat d 28 12 ≤ 2048;
    (isIssuer s.cur = true → s.firingOf s.cur = some f →
      (x.parked = none → x.matrix.length < 16 →
        (wide → exec (.mzero dbl ad stl) s = .next (((Spec.joins s false 2 ad.toNat [] 0).modCore s.cur fun c =>
          { c with atags := tset c.atags ad.toNat (BitVec.ofNat 8 tag) }).past stl)) ∧
        (s.plain ra → s.plain rb → t = 0x14 ∨ t = 0x15 → valid → w.toNat % 32 = 0 →
          exec (.mma rb ra ad stl) s =
            .next ((Spec.joins s false 3 ad.toNat [d, w, BitVec.ofNat 64 t] (fieldNat d 16 12)).past stl) ∧
          (claimed → exec (.mmag rb ra ad stl) s =
            .next ((Spec.joins s false 4 ad.toNat [d, w, BitVec.ofNat 64 t] (fieldNat d 16 12)).past stl)) ∧
          (¬ claimed → exec (.mmag rb ra ad stl) s = .next (s.takeTrap s.cur 1 (instrBits (.mmag rb ra ad stl)))))) ∧
      (¬ wide → exec (.mzero dbl ad stl) s = .next (s.takeTrap s.cur 3 (BitVec.ofNat 64 (ad.toNat + 0x15 * 256)))) ∧
      (∀ m, s.plain ra → s.plain rb → t = 0x14 ∨ t = 0x15 → x.parked = some m → x.reloading = none → m.acc = ad.toNat → m.ops.getD 0 0 = d →
        m.ops.getD 1 0 = w →
        let now : Word := BitVec.ofNat 64 (tget 0 (s.core m.who.core).atags m.acc).toNat
        let back (op : Nat) : Outcome State Fault Refusal := .next (((((s.at 4).modCell cl ce fun x =>
          { x with matrix := { m with op := op, ops := m.ops.take 2 ++ now :: m.ops.drop 3, at_ := (s.cluster cl).arrivals } :: x.matrix,
                   parked := none, reloading := none }).modCluster cl
            fun x => { x with arrivals := x.arrivals + 1 }).modCore s.cur fun c => { c with mtx := true }).past stl);
        (m.op = 3 ∨ m.op = 5 → exec (.mmaResume rb ra ad stl) s = back 5) ∧
        (m.op = 4 ∨ m.op = 6 → exec (.mmagResume rb ra ad stl) s = back 6)) ∧
      (t ≠ 0x14 → t ≠ 0x15 → ∀ i ∈ [Instr.mma rb ra ad stl, .mmag rb ra ad stl, .mmaResume rb ra ad stl, .mmagResume rb ra ad stl],
        exec i s = .next (s.takeTrap s.cur 3 (BitVec.ofNat 64 (ad.toNat + t * 256)))) ∧
      (s.plain ra → s.plain rb → t = 0x14 ∨ t = 0x15 → x.parked = none → exec (.mmaResume rb ra ad stl) s = .next (s.takeTrap s.cur 1 0) ∧
        exec (.mmagResume rb ra ad stl) s = .next (s.takeTrap s.cur 1 0)) ∧
      (wide → x.parked = none → x.matrix = [] →
        let free (c : Nat) : Prop := (s.core (cl * 16 + 8 + c)).run = .idle ∧ (s.core (cl * 16 + 12 + c)).run = .idle ∧
          (s.cell cl c).staging = [] ∧ ((s.cell cl c).claim = none ∨ (s.cell cl c).claim = some f.id)
        let taken (c : Nat) : Prop := (∃ n, (s.core (cl * 16 + 8 + c)).run = .firing n) ∨ (∃ n, (s.cell cl c).claim = some n ∧ n ≠ f.id);
        ((∀ c, c < 4 → c ≠ ce → free c) → ∃ u, exec (.mzeroG dbl pd ad stl) s = .next u ∧ u.me.pc = s.me.pc + 4 ∧
          u.me.pred pd.toNat = true ∧ (tget 0 u.me.atags ad.toNat).toNat = tag ∧
          (∀ c, c < 4 → tget [] (u.cell cl c).accs ad.toNat = [] ∧ (∀ b, b ≠ ad.toNat → tget [] (u.cell cl c).accs b = tget [] (s.cell cl c).accs b) ∧
            (c ≠ ce → (u.cell cl c).claim = some f.id)) ∧ u.me.arr = s.me.arr ∧ u.hbm = s.hbm) ∧
        ((∃ c, c < 4 ∧ c ≠ ce ∧ taken c) → ∃ u, exec (.mzeroG dbl pd ad stl) s = .next u ∧ u.me.pc = s.me.pc + 4 ∧
          (pd ≠ 0 → u.me.pred pd.toNat = false) ∧ u.me.atags = s.me.atags ∧
          (∀ c, c < 4 → (u.cell cl c).accs = (s.cell cl c).accs ∧ (u.cell cl c).claim = (s.cell cl c).claim ∧
            (c ≠ ce → (u.cell cl c).holdoff = some s.clock))))) ∧
    (isIssuer s.cur = false → illop [.mzero dbl ad stl, .mzeroG dbl pd ad stl, .mma rb ra ad stl, .mmag rb ra ad stl, .mmaResume rb ra ad stl,
      .mmagResume rb ra ad stl, .mdrain grp rb ra ad stl, .mfill rb ra ad stl]) ∧
    (isStager s.cur = false → illop [.astage rb ra rd stl, .pload rb ra rd stl, .pevict ra stl]) ∧
    (isGeneral s.cur = true → illop [.pstat srcf ra rd stl, .hspost hs stl, .hswait hs stl])

/-- R290 to R292, R305, R289, R251: with the matrix queue idle and no earlier command holding the tile, MDRAIN rounds each element of an
accumulator, or of the four of a claim, by its column's scale where SCALE is set, into the issuer's scratchpad and owes a machine check
where the checksums disagree; MFILL reads a tile exactly into an accumulator and sets its tag. -/
def Obligations.DrainAndFill : Prop :=
  ∀ (s : State) (f : Firing) (grp : BitVec 1) (rb ra : BitVec 5) (ad stl : BitVec 2), Quiet s → isIssuer s.cur = true → s.firingOf s.cur = some f →
    s.plain ra → s.plain rb → s.me.arr.wf = true → (∀ a, s.me.arr.isBad a = false) →
    let cl := clusterOf s.cur
    let ce := cellOf s.cur
    let x := s.cell cl ce
    let t := (tget 0 s.me.atags ad.toNat).toNat
    let va := (s.me.reg ra.toNat).toNat % 2 ^ 53
    let w := s.me.reg rb.toNat
    let fmt := w.toNat % 256
    let size := tagBits fmt / 8
    let pitch := fieldNat w 16 20
    let off (i j : Nat) : Nat := va - Spec.sysBase + i * pitch + j * size
    let acc (c : Machine.Cell) (i j : Nat) : Nat := (tget 0 (tget [] c.accs ad.toNat) (i * 128 + j)).toNat
    let side : Nat := if grp = 1 then 2 else 1
    let parts : List Nat := if grp = 1 then [0, 1, 2, 3] else [ce]
    let row (c : Nat) : Nat := if grp = 1 then c / 2 * 128 else 0
    let col (c : Nat) : Nat := if grp = 1 then c % 2 * 128 else 0
    let p0 (c : Nat) : Word := ((s.cell cl c).panel (fieldNat w 9 6)).1
    let scale (c j : Nat) : Machine.Num := bf16.decode (leNat ((s.cluster cl).store.read
      (c * 0x1000000 + j * 0x20000 + (fieldNat (p0 c) 32 8 + fieldNat (p0 c) 40 9 - 1) * 0x200) 2))
    let value (c i j : Nat) : Machine.Num :=
      let v := (if t = 0x15 then fp64 else fp32).decode (acc (s.cell cl c) i j)
      if w.getLsbD 8 then mulNum v (scale c j) else v
    x.parked = none → x.matrix = [] → w.toNat / 2 ^ 36 = 0 → pitch % 16 = 0 → va % 16 = 0 → Spec.sysBase + 0x8000 ≤ va →
    (w.getLsbD 15 = false → side * 128 * size ≤ pitch → Spec.inArray s va ((side * 128 - 1) * pitch + side * 128 * size) →
      (grp = 1 → ∀ c, c < 4 → c ≠ ce → (s.cell cl c).claim = some f.id) →
      (t = 0x15 ∧ w.getLsbD 8 = false ∧ (fmt = 0x15 ∨ fmt = 0x14) ∨ t = 0x14 ∧ (fmt = 0x14 ∨ fmt = 0x13 ∨ fmt = 0x11)) →
      (w.getLsbD 8 = true → ∀ c ∈ parts, fieldNat (p0 c) 0 2 = 2 ∧ fieldNat (p0 c) 8 8 = 0x12) →
      (s.at 4).heldBy cl (s.cluster cl).arrivals (tileRanges s.cur va pitch (side * 128) (side * 128 * size) true) = false →
      ∃ u, exec (.mdrain grp rb ra ad stl) s = .next u ∧ u.me.pc = s.me.pc + 4 ∧ (∀ c, u.cell cl c = s.cell cl c) ∧
        (∀ c ∈ parts, ∀ i j, i < 128 → j < 128 →
          leNat (u.me.arr.read (off (row c + i) (col c + j)) size) = (ciEncode 0 (fmt - 8) (value c i j)).1 % 256 ^ size) ∧
        (∀ a, (∀ i, i < side * 128 → a < off i 0 ∨ off i (side * 128) ≤ a) → u.me.arr.byte a = s.me.arr.byte a) ∧
        u.me.mchk = (match parts.find? (fun c => (s.cell cl c).accBad.contains ad.toNat) with
          | some c => some (BitVec.ofNat 64 (3 + ad.toNat * 2 ^ 8 + c * 2 ^ 14)) | none => s.me.mchk) ∧
        u.hbm = s.hbm ∧ u.me.atags = s.me.atags) ∧
    (fieldNat w 8 8 = 0 → 128 * size ≤ pitch → Spec.inArray s va (127 * pitch + 128 * size) → (fmt = 0x14 ∨ fmt = 0x15 ∧ cl % 32 < 16) →
      (s.at 4).heldBy cl (s.cluster cl).arrivals (tileRanges s.cur va pitch 128 (128 * size) false) = false →
      ∃ u, exec (.mfill rb ra ad stl) s = .next u ∧ u.me.pc = s.me.pc + 4 ∧ u.me.arr = s.me.arr ∧
        (tget 0 u.me.atags ad.toNat).toNat = fmt ∧
        (∀ i j, i < 128 → j < 128 → acc (u.cell cl ce) i j = leNat (s.me.arr.read (off i j) size)) ∧
        (∀ b, b ≠ ad.toNat → tget [] (u.cell cl ce).accs b = tget [] x.accs b) ∧ u.hbm = s.hbm)

/-- R280 to R282, R285, R250, R275: the stager's commands join its queue with their operand words; PEVICT makes an entry absent that no product
names; PSTAT reads an entry; the semaphores of a cell count up to 15 and down to 0, and an operation that would go beyond waits, or that comes
behind a core of a later place in the arithmetic cycle.
The value of the ILLOP for PLOAD's cell is the model's reading (log entry 65). R285 orders the cores of an arithmetic cycle; that one which comes
behind stays until the next is an inference (log entry 8), and that a firing which has performed an MTX instruction is kept when it stops is another
(log entry 132). -/
def Obligations.StagingAndSemaphores : Prop :=
  ∀ (s : State) (f : Firing) (srcf : BitVec 1) (hs : BitVec 3) (rb ra rd : BitVec 5) (stl : BitVec 2), Quiet s → isGeneral s.cur = false →
    let cl := clusterOf s.cur
    let ce := cellOf s.cur
    let a := s.me.reg ra.toNat
    let w := s.me.reg rb.toNat
    let o := s.me.reg rd.toNat
    let named (c : Nat) : Prop := c = ce ∨ (s.cell cl c).claim = some f.id
    let n := tget 0 (s.cell cl ce).sems hs.toNat
    let count (m : Nat) : Outcome State Fault Refusal :=
      if s.inTurn (uSEM ce hs.toNat) = false then .next s
      else .next (((((s.at 4).serve (uSEM ce hs.toNat)).modCell cl ce fun x => { x with sems := tset x.sems hs.toNat m }).modCore
        s.cur fun c => { c with mtx := true }).past stl);
    (isStager s.cur = true → s.firingOf s.cur = some f → s.plain ra → s.plain rb → s.plain rd →
      (s.cell cl ce).staging.length < 16 → o.toNat % 32 = 0 → a.toNat % 16 = 0 →
      (fieldNat w 52 12 = 0 → fieldNat w 9 7 = 0 → 1 ≤ fieldNat w 24 8 → fieldNat w 24 8 ≤ 128 →
        fieldNat w 16 8 ∈ [0x10, 0x11, 0x13, 0x14, 0x15] → fieldNat w 32 20 % 16 = 0 →
        fieldNat w 24 8 * 16 * tagBits (fieldNat w 16 8) ≤ fieldNat w 32 20 → fieldNat w 0 9 + fieldNat w 24 8 * tagBits (fieldNat w 16 8) ≤ 512 →
        exec (.astage rb ra rd stl) s = .next ((Spec.joins s true 0 0 [a, w, o] 0).past stl)) ∧
      (fieldNat w 36 28 = 0 → 1 ≤ fieldNat w 16 12 → fieldNat w 16 12 ≤ 2048 → fieldNat w 28 8 ∈ [0x10, 0x12, 0x13, 0x14, 0x15] →
        (named (fieldNat w 6 2) → exec (.pload rb ra rd stl) s = .next ((Spec.joins s true 1 0 [a, w, o] 0).past stl)) ∧
        (¬ named (fieldNat w 6 2) → exec (.pload rb ra rd stl) s = .next (s.takeTrap s.cur 1 (BitVec.ofNat 64 (w.toNat % 256)))))) ∧
    (isStager s.cur = true → s.firingOf s.cur = some f → s.plain ra → a.toNat < 256 → named (fieldNat a 6 2) →
      (s.cluster cl).panelNamed (fieldNat a 6 2) (fieldNat a 0 6) = false →
      panelState ((s.cell cl (fieldNat a 6 2)).panel (fieldNat a 0 6)).1 ≠ 1 →
      ∃ u, exec (.pevict ra stl) s = .next u ∧ u.me.pc = s.me.pc + 4 ∧ u.me.arr = s.me.arr ∧ u.hbm = s.hbm ∧
        panelState ((u.cell cl (fieldNat a 6 2)).panel (fieldNat a 0 6)).1 = 0 ∧
        (∀ m, m ≠ fieldNat a 0 6 → (u.cell cl (fieldNat a 6 2)).panel m = (s.cell cl (fieldNat a 6 2)).panel m)) ∧
    (s.plain ra → s.mayWrite rd → a.toNat < 256 → exec (.pstat srcf ra rd stl) s =
      let e := (s.cell cl (fieldNat a 6 2)).panel (fieldNat a 0 6)
      .next (s.after 4 stl fun c => { c.putReg rd.toNat (if srcf = 1 then e.2 else e.1) 0 with mtx := true })) ∧
    (s.semWaits s.cur = false → (n < 15 → exec (.hspost hs stl) s = count (n + 1)) ∧ (0 < n → exec (.hswait hs stl) s = count (n - 1))) ∧
    (s.me.isThread = false → (15 ≤ n → ∃ u, exec (.hspost hs stl) s = .next u ∧ Spec.Own s u ∧ u.me.pc = s.me.pc ∧ u.me.ient = s.me.pc) ∧
      (n = 0 → ∃ u, exec (.hswait hs stl) s = .next u ∧ Spec.Own s u ∧ u.me.pc = s.me.pc ∧ u.me.ient = s.me.pc))

/-- R299, R300, R303, R304, R307 to R309, R312, R313, R315: every engine command that passes its checks joins its engine's queue with its
operand words, and closes the region; QFENCE waits for the named queues, then acquires; EVWAIT reads an event line, clears it and acquires,
or waits while nothing has been posted. Commands of one arithmetic cycle join in ascending core number (R304); that one which comes behind a
higher core stays is an inference (log entry 8). That the issue writes back the core's two caches before the command joins is an inference (log
entry 58). -/
def Obligations.EngineCommands : Prop :=
  ∀ (s : State) (nb : BitVec 1) (evn q : BitVec 3) (md rb ra rd : BitVec 5) (stl : BitVec 2), Quiet s →
    let cl := clusterOf s.cur
    let x (i : Nat) : Word := s.me.reg (4 * q.toNat + i)
    let w := s.me.reg rb.toNat
    let a := s.me.reg ra.toNat
    let room (e : Nat) : Prop := ((s.cluster cl).queue e).length < 32
    let z := gathEsz (x 2);
    (s.plain rb → (∀ i, i < 4 → s.plain (quadReg q + BitVec.ofNat 5 i)) →
      (Spec.Report w true → room 0 → (x 2).toNat ≤ 2 ^ 32 → exec (.copy rb q stl) s = Spec.enqueued s stl 0 0 [x 0, x 1, x 2] w) ∧
      (Spec.Report w true → room 1 → gathOk false (x 2) = true → (x 0).toNat % 2 ^ 53 % gathIsz (x 2) = 0 → (x 1).toNat % 2 ^ 53 % z = 0 →
        (x 3).toNat % 2 ^ 53 % z = 0 →
        exec (.gath rb q stl) s = Spec.enqueued s stl 1 1 [x 0, x 1, x 2, x 3] w ∧
        exec (.scat rb q stl) s = Spec.enqueued s stl 1 3 [x 0, x 1, x 2, x 3] w) ∧
      (Spec.Report w true → room 1 → gathOk true (x 2) = true → (x 0).toNat % 2 ^ 53 % gathIsz (x 2) = 0 → (x 1).toNat % 16 = 0 →
        (x 3).toNat % 16 = 0 → exec (.gathCb rb q stl) s = Spec.enqueued s stl 1 2 [x 0, x 1, x 2, x 3] w) ∧
      (Spec.Report w false → room 2 → (x 2).toNat < 2 ^ 28 → (x 0).toNat % 256 = 0 → (x 1).toNat % 16 = 0 →
        exec (.mgfeed rb q stl) s = Spec.enqueued s stl 2 5 [x 0, x 1, x 2] w) ∧
      (2 ^ 32 < (x 2).toNat → exec (.copy rb q stl) s = .next (s.takeTrap s.cur 1 (x 2)))) ∧
    (s.plain ra → room 2 → a.toNat % 256 = 0 →
      (s.plain rb → Spec.Report w false → exec (.mgopen rb ra stl) s = Spec.enqueued s stl 2 4 [a] w) ∧
      exec (.mgclose ra stl) s = Spec.enqueued s stl 2 6 [a] 0) ∧
    (isGeneral s.cur = true → (let mine (q : List EngCmd) : Prop := ∃ c ∈ q, c.who.core = s.cur ∧ c.who.ended = false;
        (md.getLsbD 0 = true → ¬ mine (s.cluster cl).copyQ) ∧ (md.getLsbD 1 = true → ¬ mine (s.cluster cl).indQ) ∧
        (md.getLsbD 2 = true → ¬ mine (s.cluster cl).mergeQ)) →
      exec (.qfence md stl) s = .next ((((s.at 4).acquireAt s.cur 1 false).modCore s.cur Spec.closed).past stl)) ∧
    (s.mayWrite rd →
      let l := tget EvLine.zero s.me.evs evn.toNat;
      (0 < l.count → exec (.evwait nb evn rd stl) s = .next ((((s.at 4).modCore s.cur fun c =>
        { (c.putReg rd.toNat (BitVec.ofNat 64 (l.detail * 2 ^ 32 + l.count * 2 ^ 8 + l.code)) 0) with
          evs := tset c.evs evn.toNat EvLine.zero }).acquireAt s.cur s.regionScope false).past stl)) ∧
      (l.count = 0 → exec (.evwait 1 evn rd stl) s =
          .next ((((s.at 4).modCore s.cur fun c => c.putReg rd.toNat 0 0).acquireAt s.cur s.regionScope false).past stl) ∧
        ∃ t, exec (.evwait 0 evn rd stl) s = .next t ∧ Spec.Own s t ∧ t.me.pc = s.me.pc ∧ t.me.arr = s.me.arr ∧ t.me.evs = s.me.evs))

/-! ## Launch -/

namespace Sys2Proof.Spec

/-- A step of the device that gives `v`, or that waits for R389's order or for room in a notice ring (R443): as a whole, and nothing of it
happens until then, which is an inference (log entry 116). -/
def waitOr (s v : State) : Outcome State Fault Refusal := if s.tooSoon v then .next s else .next v

/-- A packet that starts now (R93 to R95): its queue is ready, fewer than 64 packets are in progress, R95 chooses the queue, its
process has the credit of R94, which it pays, no packet of the queue has started in this cycle (R86), and the packet reads as `w`, leaving
`u`. -/
structure Starts (s : State) (f p slot : Nat) (q : Queue) (w : List Word) (u : State) : Prop where
  queue : s.queue? f p slot = some q
  ready : s.queueReady f p q = true
  room : s.packetCount < 64
  chosen : chooseQueue ((s.func f).proc p).ptrs (s.nowQueues f p) = some slot
  paid : ∃ u0, s.chargeStart f p = some u0 ∧ u0.peekPacket f p q = (u, .ok w)

/-- The command that a stream has reached (R88 to R90): command `c` of stream `t` of packet `n`, on its function's slice, read in state
`u`, its fields in their ranges. -/
structure AtCmd (s : State) (f p slot : Nat) (n : Nat) (t : Machine.Stream) (c : List Word) (u : State) : Prop where
  stream : s.streamOf f p slot = some (n, t)
  slice : s.onSlice (f * 256) = true
  read : s.devWords (f * 256 + p) (t.va + 32 * t.idx) 4 = (u, .ok c)
  valid : cmdOk (s.vectors f) c = true

end Sys2Proof.Spec

/-- R78, R79, R455: NOTIFY reads the write index: one in range is taken, one below the last or more than the ring ahead halts the queue with
QERR 2, an unreadable one with QERR 4. R81 to R86: each packet that starts, by its TYPE; a malformed one gets RESULT code 2 and halts its
queue. R79: the read index passes a completed packet.
A step that would insert out of the order of R389, or lose a notice that finds no room in its ring (R443), waits; that it waits as a whole is an
inference (log entry 116). QAT of an unreadable slot, a
SEED, COPY or START as one step and the rounds of processes are the model's readings (log entries 67, 69, 105, 70); so is the order of a
SEED behind later insertions of its cycle (log entry 5). -/
def Obligations.QueuePackets : Prop :=
  ∀ (s : State) (f p slot : Nat) (q : Queue),
    (s.queue? f p slot = some q → q.qstate = 1 →
      (∀ u w, s.devWords (f * 256 + p) q.widxVa 1 = (u, .ok [w]) →
        (q.widx ≤ w.toNat → w.toNat ≤ q.ridx + 2 ^ q.log2n →
          exec (.notify f p slot) s = Spec.waitOr s (u.modQueue f p slot fun x => { x with widx := w.toNat })) ∧
        (w.toNat < q.widx ∨ q.ridx + 2 ^ q.log2n < w.toNat →
          exec (.notify f p slot) s = Spec.waitOr s (u.putQueueState f p slot 2 2 q.ridx))) ∧
      (∀ u e, s.devWords (f * 256 + p) q.widxVa 1 = (u, .error e) →
        exec (.notify f p slot) s = Spec.waitOr s (u.putQueueState f p slot 2 4 q.next))) ∧
    (∀ w u, Spec.Starts s f p slot q w u →
      let b := u.beginPacket f p slot q w
      let n := q.next
      let va := (w.getD 1 0).toNat % 2 ^ 53
      let flag := (w.getD 0 0).getLsbD 16
      let type := (w.getD 0 0).toNat % 256
      let ends (t : State) (code reason extra : Nat) : Outcome State Fault Refusal :=
        Spec.waitOr s (t.completePacket f p slot n code reason extra);
      (packetOk (s.vectors f) w = true →
        (type = 0 → exec (.nop f p slot) s = ends b 0 0 0) ∧
        (type = 1 → (∀ t e, b.devWords (f * 256 + p) va 32 = (t, .error e) → exec (.start f p slot) s = ends t 4 (engCode e.1) (e.2 % 2 ^ 32)) ∧
          (∀ t rcb, b.devWords (f * 256 + p) va 32 = (t, .ok rcb) → exec (.start f p slot) s =
            (let r := t.activate f p va rcb flag; ends r.1 (if r.2 = 0 then 0 else 1) r.2 0))) ∧
        (type = 2 → s.lastInsert.1 ≠ s.clock ∨ s.lastInsert.2 = [] ∨ s.lastInsert.2 = [0] → exec (.seed f p slot) s =
          (let r := b.runSeed f p va ((w.getD 2 0).toNat % 2 ^ 53) (w.getD 3 0).toNat flag; ends r.1 r.2.1 r.2.2.1 r.2.2.2)) ∧
        (type = 2 → s.lastInsert.1 = s.clock → (∃ n l, s.lastInsert.2 = (n + 1) :: l) → exec (.seed f p slot) s = .next s) ∧
        (type = 3 → exec (.await f p slot) s = Spec.waitOr s b) ∧
        (type = 4 → (∀ t, b.devWrite (f * 256 + p) va (leBytes 8 (w.getD 2 0).toNat) = (t, none) →
            exec (.signal f p slot) s = ends (if flag then t.raise f (w.getD 3 0).toNat else t) 0 0 0) ∧
          (∀ t e, b.devWrite (f * 256 + p) va (leBytes 8 (w.getD 2 0).toNat) = (t, some e) →
            exec (.signal f p slot) s = ends t 4 (engCode e) (va % 2 ^ 32))) ∧
        (type = 5 →
          let dst := (w.getD 2 0).toNat % 2 ^ 53
          let len := (w.getD 3 0).toNat;
          (va < dst + len → dst < va + len → exec (.copyPacket f p slot) s = ends b 1 17 0) ∧
          (¬ (va < dst + len ∧ dst < va + len) →
            let r := b.copyBytes (f * 256 + p) va dst len (2 * (len / 0x2000) + 3);
            (r.2 = none → exec (.copyPacket f p slot) s = ends r.1 0 0 0) ∧
            (∀ e, r.2 = some e → exec (.copyPacket f p slot) s = ends r.1 4 (engCode e.1) (e.2 % 2 ^ 32)))) ∧
        (type = 6 → exec (.cpjump f p slot) s = Spec.waitOr s (b.modQueue f p slot fun x => { x with packets := x.packets.map fun y =>
          if y.index = n then { y with stream := some { va := va, idx := 0, loops := [] } } else y }))) ∧
      (packetOk (s.vectors f) w = false →
        let start (i : Nat) : Instr := [.nop f p slot, .start f p slot, .seed f p slot, .await f p slot, .signal f p slot,
          .copyPacket f p slot].getD i (.cpjump f p slot)
        ∀ i, i < 7 → (i = type ∨ 6 < type) → (i = 2 → s.lastInsert.1 ≠ s.clock ∨ s.lastInsert.2 = []) →
          exec (start i) s = Spec.waitOr s ((u.devStore8 f p (q.slotVa n + 56) 2 none).putQueueState f p slot 2 2 n))) ∧
    (∀ x, s.queue? f p slot = some q → q.inProgress.find? (fun y => packetType y.words == 3) = some x →
      (∀ u v, s.statusSeen f p (packetVa x.words) = (u, .ok (some v)) →
        exec (.awaitCompletion f p slot) s = Spec.waitOr s (u.completePacket f p slot x.index 0 0 (v.toNat % 2 ^ 32))) ∧
      (∀ u, s.statusSeen f p (packetVa x.words) = (u, .ok none) → exec (.awaitCompletion f p slot) s = .next s)) ∧
    (∀ x code reason extra, s.queue? f p slot = some q → q.packets = [x] → q.off = false → ∃ q',
      (s.completePacket f p slot x.index code reason extra).queue? f p slot = some q' ∧ q'.ridx = q.ridx + 1 ∧ q'.packets = [] ∧
      q'.qstate = q.qstate)

/-- R89, R90: each command of a stream. A LOOP of n runs opens its body at the next command, one of 0 runs passes it; IF enters or passes its
body by its condition; START and SEED do what the packets do, and the stream goes on; WAIT holds until its condition or its region's
completion; SIGNAL stores and may interrupt; RET completes the packet.
A RESULT that the spec does not state is a free value (log entry 4); operands out of a packet's limits are log entry 50's; that a step which may not
go yet waits as a whole is an inference (log entry 116). -/
def Obligations.CommandStreams : Prop :=
  ∀ (s u : State) (f p slot n : Nat) (t : Machine.Stream) (c : List Word), Spec.AtCmd s f p slot n t c u →
    let op := (c.getD 0 0).toNat % 256
    let ind := (c.getD 0 0).getLsbD 8
    let span := (c.getD 0 0).toNat / 2 ^ 16 % 2 ^ 16
    let cond := (c.getD 0 0).toNat / 2 ^ 32 % 256
    let flag := (c.getD 0 0).getLsbD 40
    let va (i : Nat) : Nat := (c.getD i 0).toNat % 2 ^ 53
    let on (v : State) (t' : Machine.Stream) : Outcome State Fault Refusal := Spec.waitOr s (v.modQueue f p slot fun q =>
      { q with packets := q.packets.map fun x => if x.index = n then { x with stream := some t' } else x })
    let holds (w : Word) : Prop := if cond = 0 then w = c.getD 2 0 else if cond = 1 then w ≠ c.getD 2 0
      else if cond = 2 then w.toNat < (c.getD 2 0).toNat else (c.getD 2 0).toNat ≤ w.toNat;
    (op = 1 → ind = false → t.fits span = true → (t.loops.filter (fun e => e.2.2 != 0)).length < 4 →
      (c.getD 1 0 ≠ 0 → span ≠ 0 → exec (.cmdLoop f p slot) s =
        on u { t with loops := (t.idx + 1, t.idx + span, (c.getD 1 0).toNat) :: t.loops, idx := t.idx + 1 }) ∧
      (c.getD 1 0 = 0 → exec (.cmdLoop f p slot) s = on u (t.goTo t.loops (t.idx + 1 + span)))) ∧
    (op = 2 → t.fits span = true → ∀ v w, u.devWords (f * 256 + p) (va 1) 1 = (v, .ok [w]) →
      (holds (w &&& c.getD 3 0) → span ≠ 0 → exec (.cmdIf f p slot) s =
        on v (t.goTo ((t.idx + 1, t.idx + span, 0) :: t.loops) (t.idx + 1))) ∧
      (¬ holds (w &&& c.getD 3 0) → exec (.cmdIf f p slot) s = on v (t.goTo t.loops (t.idx + 1 + span)))) ∧
    (op = 3 → ind = false → (u.runStart f p (va 1) flag).2.1 ≠ 4 →
      exec (.cmdStart f p slot) s = on (u.runStart f p (va 1) flag).1 t.pass) ∧
    (op = 4 → ind = false → (c.getD 3 0).toNat ≤ 2 ^ 24 → s.lastInsert.1 ≠ s.clock ∨ s.lastInsert.2 = [] ∨ s.lastInsert.2 = [0] →
      (u.runSeed f p (va 1) (va 2) (c.getD 3 0).toNat flag).2.1 ≠ 4 →
      exec (.cmdSeed f p slot) s = on (u.runSeed f p (va 1) (va 2) (c.getD 3 0).toNat flag).1 t.pass) ∧
    (op = 5 →
      (cond ≠ 4 → ∀ v w, u.devWords (f * 256 + p) (va 1) 1 = (v, .ok [w]) →
        (holds (w &&& c.getD 3 0) → exec (.cmdWait f p slot) s = on v t.pass) ∧
        (¬ holds (w &&& c.getD 3 0) → exec (.cmdWait f p slot) s = Spec.waitOr s (v.cutStream f p slot n))) ∧
      (cond = 4 → ∀ v w, u.statusSeen f p (va 1) = (v, .ok (some w)) → w.toNat % 16 = 3 → exec (.cmdWait f p slot) s = on v t.pass)) ∧
    (op = 6 → ∀ v, u.devWrite (f * 256 + p) (va 1) (leBytes 8 (c.getD 2 0).toNat) = (v, none) →
      exec (.cmdSignal f p slot) s = on (if flag then v.raise f (c.getD 3 0).toNat else v) t.pass) ∧
    (op = 7 → exec (.cmdRet f p slot) s = Spec.waitOr s (u.completePacket f p slot n 0 0 0))

/-! ## Host, pool, waves, slices and units -/

/-- R443, R444, R442, R387, R77, R80, R447, R448: a register write of a function that answers, within the register's fields, has its register's
effect; a write of any of them that sets a bit outside its fields is ignored.
The process that NREL and CSTART act in, reserved bits of a queue descriptor, values out of a field's range, and a TFAULT of DELIVER that
stays owed while the core's trap waits are the model's readings (log entries 79, 85, 86, 55). -/
def Obligations.HostRegisters : Prop :=
  ∀ (s : State) (f : Nat) (v : Word), s.answers f = true →
    let p := (s.func f).psel
    let within (fields : Nat) : Prop := v.toNat &&& (2 ^ 64 - 1 - fields) = 0
    let va : Nat := 2 ^ 53 - 1
    let pa (n : Nat) : Nat := 2 ^ 46 - 2 ^ 13 + (2 ^ n - 1)
    let reg (off : Nat) (g : Func → Func) : Prop := exec (.registerWrite f off v) s = .next (s.modFunc f g);
    (within (pa 1) →
      ((∀ g ∈ s.regions, ¬ (g.func = f ∧ g.proc = p)) → exec (.root f v) s = .next (s.modProc f p fun x => { x with root := v })) ∧
      ((∃ g ∈ s.regions, g.func = f ∧ g.proc = p) → exec (.root f v) s = .next s)) ∧
    (∀ e ∈ [(Instr.root f v, pa 1), (.qva f v, 2 ^ 59 - 1), (.qoff f v, 63), (.ftail f v, 2 ^ 32 - 1), (.ntail f v, 2 ^ 32 - 1), (.nrel f v, va),
      (.cstart f v, va), (.freset f v, 1), (.registerWrite f 0x000 v, 0xFF), (.registerWrite f 0x010 v, 0xFF), (.registerWrite f 0x028 v, pa 4),
      (.registerWrite f 0x048 v, 0x7FF), (.registerWrite f 0x050 v, pa 4)], ¬ within e.2 → exec e.1 s = .next s) ∧
    (f = 0 → ∀ e ∈ [(Instr.registerWrite 0 0x1008 v, 0xF), (.slen v, 2 ^ 46 - 2 ^ 32 + 63), (.nvec v, 2 ^ 28 - 2 ^ 16 + 63), (.map v, pa 4)],
      ¬ within e.2 → exec e.1 s = .next s) ∧
    (within (2 ^ 59 - 1) →
      let slot := v.toNat / 2 ^ 53
      let free : Prop := ∀ q, s.queue? f p slot = some q → q.qstate = 0 ∨ q.qstate = 2 ∧ q.inProgress = []
      let answer (t : State) (n : Nat) : Outcome State Fault Refusal := .next (t.modFunc f fun x => { x with qslotResult := n });
      (¬ free → exec (.qva f v) s = answer s 2) ∧
      (∀ u, free → s.registerQueue f p slot (v.toNat % 2 ^ 53) = (u, false) → exec (.qva f v) s = answer u 1) ∧
      (∀ u, free → s.registerQueue f p slot (v.toNat % 2 ^ 53) = (u, true) → exec (.qva f v) s = answer u 0)) ∧
    (within 63 → ∀ q, s.queue? f p v.toNat = some q → q.qstate ≠ 0 →
      (q.inProgress ≠ [] → exec (.qoff f v) s = .next (s.modQueue f p v.toNat fun x => { x with off := true })) ∧
      (q.inProgress = [] → ∃ t q', exec (.qoff f v) s = .next t ∧ t.queue? f p v.toNat = some q' ∧ q'.qstate = 0 ∧ q'.off = true)) ∧
    (within (2 ^ 32 - 1) →
      exec (.ftail f v) s = .next (((s.func f).records.map fun (r : FaultRec) => r.id).foldl (fun t id => t.postRecord f id)
        (s.modFunc f fun x => { x with ftail := v.toNat })) ∧
      exec (.ntail f v) s = .next ((s.func f).noticesHeld.foldl (fun t n => t.postNotice f (n.1, n.2.1) n.2.2)
        (s.modFunc f fun x => { x with ntail := v.toNat, noticesHeld := [] }))) ∧
    (∀ (id : BitVec 32) (r : FaultRec), s.record? f id.toNat = some r →
      (∃ t, exec (.retry f id) s = .next t ∧ t.record? f id.toNat = none ∧
        (∀ k, ∀ e ∈ (t.core k).tlb, ¬ (e.space = r.space ∧ e.vpn ≤ r.vpn ∧ r.vpn < e.vpn + e.pages))) ∧
      ∀ k, r.cores = [k] → (s.core k).waitRecord = some id.toNat →
        let close (t : State) : Outcome State Fault Refusal := .next (t.modFunc f fun x => { x with records := x.records.filter (·.id != id.toNat) });
        (s.trapWaits k 6 = false → exec (.deliver f id) s = close (s.takeTrap k 6 (s.core k).waitVa)) ∧
        (s.trapWaits k 6 = true → exec (.deliver f id) s = close (s.modCore k fun c => { c with waitRecord := none, deliver := true }))) ∧
    (within va →
      let mine (e : Nat × Nat × Nat × Nat) : Prop := e.2.1 = f * 256 + p ∧ e.2.2.1 = v.toNat
      ∃ t, exec (.nrel f v) s = .next t ∧ (∀ e, e ∈ t.escalations ↔ e ∈ s.escalations ∧ ¬ mine e) ∧
        t.regions.map (·.id) = s.regions.map (·.id) ∧
        ∀ e ∈ s.escalations, mine e → ∀ d ∈ s.regions, s.isAncestor e.1 d.id 64 = true → d.eff.fdom = e.2.2.2 →
          ∀ g, t.region? d.id = some g → g.killed = true) ∧
    (within va →
      (v.toNat % 32 ≠ 0 → exec (.cstart f v) s = .next s) ∧
      (∀ u w, v.toNat % 32 = 0 → s.devWords (f * 256 + p) v.toNat 4 = (u, .ok w) →
        exec (.cstart f v) s = .next (u.modFunc f fun x => { x with starts := x.starts ++ [(p, w)] }))) ∧
    (v = 1 → ∃ t, exec (.freset f v) s = .next t ∧ (∀ g ∈ t.regions, g.func ≠ f) ∧ (t.func f).records = [] ∧ (t.func f).starts = [] ∧
      (t.func f).fhead = 0 ∧ (t.func f).nhead = 0 ∧ (t.func f).noticesHeld = [] ∧ ∀ e ∈ t.flags, e.1 % 64 ≠ f) ∧
    (v = 0 → exec (.freset f v) s = .next s) ∧
    (within 0xFF → reg 0x000 fun x => { x with psel := v.toNat }) ∧
    (within 0xFF → v ≠ 0 → exec (.registerWrite f 0x010 v) s = .next (s.modProc f p fun x => { x with weight := v.toNat })) ∧
    (within (pa 4) → 4 ≤ v.toNat % 16 → v.toNat % 16 ≤ 12 → reg 0x028 fun x => { x with fbase := v }) ∧
    (within 0x7FF → reg 0x048 fun x => { x with fvec := v.toNat }) ∧ (within (pa 4) → reg 0x050 fun x => { x with nbase := v }) ∧
    (f = 0 →
      (within 0xF → exec (.registerWrite 0 0x1008 v) s = .next { s with duty := v.setWidth 4 }) ∧
      (within (2 ^ 46 - 2 ^ 32 + 63) → 50 ≤ v.toNat / 2 ^ 32 → v.toNat / 2 ^ 32 ≤ 10000 →
        exec (.slen v) s = .next (s.modFunc (v.toNat % 64) fun x => { x with slen := v.toNat / 2 ^ 32 })) ∧
      (within (2 ^ 28 - 2 ^ 16 + 63) → 64 ≤ v.toNat / 2 ^ 16 → v.toNat / 2 ^ 16 ≤ 2048 → v.toNat % 64 ≠ 0 →
        exec (.nvec v) s = .next (s.modFunc (v.toNat % 64) fun x => { x with nvecNext := v.toNat / 2 ^ 16 })) ∧
      (within (pa 4) → ∀ u es, s.mapImage (v.toNat / 2 ^ 13 * 2 ^ 13) = (u, some es) →
        let n := v.toNat % 16
        let ok : Prop := n ≠ 0 ∧ (∀ g ∈ s.regions, g.eff.smap ≠ n) ∧ ∀ e ∈ es, e < 1024 ∧ u.bay0 ≤ e / 128 ∧ e / 128 < u.bay0 + u.bays;
        (¬ ok → exec (.map v) s = .next { u with mapResult := 3 }) ∧
        (ok → ∃ t, exec (.map v) s = .next t ∧ t.mapResult = 1 ∧ t.hbm = u.hbm ∧ t.cores = u.cores ∧
          (∀ l, l < es.length → l < 4096 → t.mapEntry n l = es.getD l 0) ∧ (∀ m l, m ≠ n → l < 4096 → t.mapEntry m l = u.mapEntry m l))) ∧
      (within (pa 4) → ∀ u, s.mapImage (v.toNat / 2 ^ 13 * 2 ^ 13) = (u, none) → exec (.map v) s = .next { u with mapResult := 3 }) ∧
      (∀ g, 1 ≤ g → g ≤ 63 → exec (.vfEnable g) s = .next (s.modFunc g fun x => { x with enabled := true, nvec := x.nvecNext })))

/-- R447: a start record of the function on its slice is loaded onto its free core, from its images, in compatibility mode. R449, R450, R402,
R451: power-on accepts the first image that verifies or fails; each change of state wipes the device; RESET returns it to BOOT; an
attestation signs the digests, the state and the nonce, and changes nothing else.
Images that cannot be loaded, EN in the handler's image and the arguments of the life-cycle steps are the model's (log entries 87, 88, 89). -/
def Obligations.ThreadsAndLifeCycle : Prop :=
  (∀ (s : State) (f p core : Nat) (w : List Word) (u : State) (a h : List Byte), s.slice = some f → core < 0x10000 → isGeneral core = true →
    s.coreFree core = true → (s.bay0 * 32 ≤ clusterOf core ∧ clusterOf core < (s.bay0 + s.bays) * 32) →
      (s.func f).starts.find? (fun e => startCoreOf e.2 == core) = some (p, w) →
    ((s.modFunc f fun x => { x with starts := x.starts.erase (p, w) }).freshPad core f).readImages (f * 256 + p) w = (u, some (a, h)) →
    let endWord := (w.getD 1 0).toNat % 2 ^ 53
    let c := ((((u.core core).threadStart f p endWord (fieldNat (w.getD 3 0) 0 53 != 0)).putImage 0 a).putImage 0x200 h)
    c.blockBad 0 = none → (u.core core).arr.wf = true → ∃ t, exec (.compatThreadLoad core) s = .next t ∧
      (t.core core).run = .thread f p endWord (fieldNat (w.getD 3 0) 0 53 != 0) ∧
      (t.core core).pc = ((c.arr.word 8).setWidth 53 : BitVec 53) &&& ~~~1 ∧ (t.core core).cr.compat.getLsbD 0 = true ∧
      (t.core core).cr.ctx = 0 ∧ t.hbm = u.hbm) ∧
  ∀ (s : State),
    (∀ i1 i2, s.life = .boot → s.image = none →
      (i1 = true → exec (.powerOn i1 i2) s = .next { s with image := some false }) ∧
      (i1 = false → i2 = true → exec (.powerOn i1 i2) s = .next { s with image := some true }) ∧
      (i1 = false → i2 = false → ∃ t, exec (.powerOn i1 i2) s = .next t ∧ t.life = .failed ∧ t.hbm = .empty ∧ t.regions = [])) ∧
    (∀ b0 nb, (nb = 1 ∨ nb = 2 ∨ nb = 4 ∨ nb = 8) → b0 % nb = 0 → b0 + nb ≤ 8 →
      let wiped (t : State) (l : Life) : Prop := t.life = l ∧ t.bay0 = b0 ∧ t.bays = nb ∧ t.hbm = .empty ∧ t.homes = [] ∧ t.clusters = [] ∧
        t.regions = [] ∧ t.tiles = [] ∧ t.funcs = [] ∧ t.host = s.host ∧ t.image = s.image;
      (s.life = .boot ∧ s.image ≠ none ∨ s.life = .run → ∃ t, exec (.lifecycleChange 1 b0 nb) s = .next t ∧ wiped t .config) ∧
      (s.life = .config → ∃ t, exec (.lifecycleChange 2 b0 nb) s = .next t ∧ wiped t .run) ∧
      (s.life = .config ∨ s.life = .failed → exec (.lifecycleChange 1 b0 nb) s = .next s) ∧
      (s.life ≠ .config → exec (.lifecycleChange 2 b0 nb) s = .next s)) ∧
    (∃ t, exec .reset s = .next t ∧ t.life = .boot ∧ t.hbm = .empty ∧ t.cores = [] ∧ t.clusters = [] ∧ t.regions = [] ∧ t.image = none) ∧
    (∀ nonce : BitVec 512, ∃ a : Attestation, exec (.attestation nonce) s = .next { s with attestations := a :: s.attestations } ∧
      a.life = s.life ∧ a.nonce = nonce)

/-- R107, R109, R112, R117, R105, R113 to R116, R397, R32: a sieve serves its pairs from its pointer on, which moves past a pair with an enabled
group; a gang for which a match has found no further group takes none, and waits for the room to be offered; an offer goes to its nearest cluster
and is accepted there or returned to the head; an accepted offer's groups become firings on the lowest-numbered units, each started at its
rule's entry with the slots that its tiles fill, but not where that would pass BCORE; a lost dispatch is offered again; a destroyed descriptor
faults its region, or repeats the step.
Which pairs the pointer skips, what ROLLBACK does before the first boundary, where BCORE is tested and that the tile destroyed by a third event is
gone are the model's choices and readings (log entries 51, 73, 75, 100). -/
def Obligations.MatchingAndDispatch : Prop :=
  ∀ (s : State) (sl group cl region lslice age : Nat) (o : Offer) (g : Region),
    (∀ k u, tget 0 s.matchAt sl ≤ s.clock → (rotated (s.pairsAt sl) (tget 0 s.matchPtr sl)).head? = some k → s.servePair sl k = some u →
      exec (.sieveMatch sl) s = .next (if s.pairEnabled k then
        { u with matchPtr := tset u.matchPtr sl (k + 1), matchAt := tset u.matchAt sl (s.clock + 1) } else u)) ∧
    (∀ k x, s.region? (k / 8192) = some x → (s.pairEnabled k = true ↔
      (x.matchAll (k / 4096 % 2) (k % 4096) (s.visible x (k / 4096 % 2) (k % 4096) false false)).isSome = true)) ∧
    (o.ended = true → ∀ ts, s.nextOfGang g o ts = none ∧ (s.offerRoom g sl o.groups.length = false → s.growGang g sl o ts = none)) ∧
    (s.clock < tget 0 s.matchAt sl → exec (.sieveMatch sl) s = .next s) ∧
    (s.pairsAt sl = [] → exec (.sieveMatch sl) s = .next s) ∧
    (∀ copy l m, s.region? region = some g → copy < 2 → l < 4096 → region * 8192 + copy * 4096 + l ∈ s.pairsAt sl → g.eff.stepped = false →
      s.noticeWaits region = false → s.formingAt region copy l = none → g.matchAll copy l (s.visible g copy l false false) = some m → g.fireSpent copy = false →
      s.offersFull g sl = false → s.fireFull g copy = false →
      s.servePair sl (region * 8192 + copy * 4096 + l) = some (s.reserve g copy l m) ∧
      (let t := s.reserve g copy l m;
        t.offers.length = s.offers.length + 1 ∧ (∀ x ∈ t.tiles, x.id ∈ m.2.1.map (fun (y : Tile) => y.id) → x.held = true))) ∧
    (∀ copy l, lslice = copy * 4096 + l → copy < 2 → l < 4096 → s.region? region = some g → g.state = .active → g.held = false →
      s.onSlice g.space = true → ((s.tilesAt region copy l).any fun (t : Tile) => t.overflow) = true → g.swept.contains lslice = false →
      s.reservedAt region copy l g.eff.stepped = false → s.noticeWaits region = false →
      (g.eff.stepped = true ∨ g.matchAll copy l (s.visible g copy l false true) = none) → s.formingAt region copy l = none →
      g.matchAll copy l (s.visible g copy l true false) = none →
      exec (.overflowSweep region lslice) s = .next (if (s.tilesAt region copy l).any fun (t : Tile) => decide (s.clock < t.from_) then s
        else s.modRegion region fun x => { x with swept := numPut x.swept lslice })) ∧
    (∀ u, s.offers.find? (fun x => x.id == group) = some o → s.targetOf s.fresh o = some cl → s.offerBehind s.fresh o = false →
      (let rivals := s.offers.filter fun x => s.targetOf s.fresh x == some cl && !s.offerBehind s.fresh x;
        s.bestOffer cl (rivals.filter fun x => (s.offerOf x).2.1 == (s.offerOf o).2.1) = some group ∧
        s.chargeDispatch (s.offerOf o).1 (s.offerOf o).2.1 rivals = some u) →
      (s.unitFree cl o = true → s.keptIn cl = false → ∃ t, exec (.groupArrival group cl) s = .next t ∧
        t.offers = s.offers.map (fun x => if x.id = group then { x with cluster := some cl } else x) ∧ t.tiles = s.tiles ∧ t.cores = s.cores) ∧
      (s.unitFree cl o = false ∨ s.keptIn cl = true → exec (.groupArrival group cl) s =
        .next { s.tick with offers := o :: s.offers.filter (fun (x : Offer) => x.id != group) })) ∧
    (s.offers.find? (fun x => x.id == group) = some o → o.cluster = some cl → s.region? o.region = some g → s.keptIn cl = false →
      g.state = .active → g.held = false →
      s.noticeWaits g.id = false →
      (s.corePassed g o 0 = true → exec (.dispatch group) s = .next s) ∧ (s.corePassed g o 0 = false →
      let left : State := { s with offers := s.offers.filter fun x => x.id != group };
      (∀ grp k r, ruleClass (g.rule o.rule) = 0 → o.groups = [grp] → s.freeCores cl = k :: r → k < 0x10000 →
        ∃ t, exec (.dispatch group) s = .next t ∧ (t.core k).run = .firing s.nextFiring ∧ t.nextFiring = s.nextFiring + 1 ∧
          (t.core k).pc = BitVec.ofNat 53 (ruleEntry (g.rule o.rule)) ∧ (t.core k).cr.frm = g.eff.frmi ∧ (t.core k).cr.ctx = 0 ∧
          (t.core k).cr.wp.toNat = 0x400 ∧ (t.core k).preds = 0 ∧ (t.core k).pcnt = 0 ∧ (t.core k).ient = (t.core k).pc ∧
          (t.core k).imask = 0 ∧ (∃ x ∈ t.firings, x.id = s.nextFiring ∧ x.tiles = grp.tiles ∧ x.cores = [k] ∧ x.rule = o.rule) ∧
          t.offers = left.offers) ∧
      (∀ grp gs ce r, ruleClass (g.rule o.rule) = 1 → o.groups = grp :: gs → s.freeCells cl = ce :: r →
        exec (.dispatch group) s = .next ((left.modCell cl ce Cell.dispatched).startGroup g o grp 0 [cl * 16 + 8 + ce, cl * 16 + 12 + ce])))) ∧
    (∃ t, exec (.dispatchLost group) s = .next t ∧ t.offers = s.offers.map (fun x => if x.id = group then { x with cluster := none } else x) ∧
      t.tiles = s.tiles ∧ t.cores = s.cores ∧ t.firings = s.firings ∧ t.hbm = s.hbm) ∧
    (let hit := (s.tilesAt region (lslice / 4096 % 2) (lslice % 4096)).filter fun (t : Tile) => t.age == age;
      2 ≤ hit.length → ∃ t ∈ hit, exec (.descriptorEccError region lslice age) s = .next (s.tick.destroyTile t)) ∧
    (∀ t, s.region? region = some g → (s.tilesAt region (lslice / 4096 % 2) (lslice % 4096)).filter (fun t => t.age == age) = [t] →
      (g.rolls = true → g.repeats < 2 → exec (.descriptorEccError region lslice age) s = .next (s.repeatStep region)) ∧
      (g.rolls = true → 2 ≤ g.repeats → ∃ u, exec (.descriptorEccError region lslice age) s = .next u ∧ ∀ x ∈ u.tiles, x.id ≠ t.id) ∧
      (g.rolls = false → ∃ u g', exec (.descriptorEccError region lslice age) s = .next u ∧ u.region? region = some g' ∧ g'.faulted = true ∧
        (∀ x ∈ u.tiles, x.id ≠ t.id)))

/-- R388 to R390, R19, R391 to R395, R67, R70, R71: a product is inserted at its slice with the next age, or pending in a stepped region, and an
acknowledged committed firing leaves flight; a wave samples every slice once; a region that two waves find idle drains, or ends its
step; a drained region completes, by way of its completion tile where it has one.
A completion that would insert out of the order of R389, or lose a notice that finds no room in its ring (R443), waits; that it waits as a whole
is an inference (log entry 116), and so is BTIME between waves (log entry 77). KILLED above FAULT in CSTAT is the model's choice (log entry
36). The order of the events of one cycle is the agenda's within guards (log entry 5, the model's choice). -/
def Obligations.ProductsAndStability : Prop :=
  ∀ (s : State) (fi i r sl : Nat) (f : Firing) (p : Product) (g : Region),
    (s.firing? fi = some f → f.products = [p] → p.index = i →
      (p.inserted = false → s.region? f.region = some g → s.sieveFull (s.sliceOf g f.copy p.lslice) = false →
        ((s.tilesAt f.region f.copy p.lslice).any fun (x : Tile) => x.overflow) = false →
        tget 0 g.ages (f.copy * 4096 + p.lslice) < 2 ^ 32 - 1 → f.at_ + 16 ≤ s.clock + 1 → s.insertTurn (s.productTurn g f) = true →
        ∃ t x, exec (.productInsert fi i) s = .next t ∧ x ∈ t.tiles ∧ x.id = s.nextTile ∧ x.region = f.region ∧ x.copy = f.copy ∧
          x.lslice = p.lslice ∧ x.overflow = false ∧ x.held = false ∧ x.d.getD 0 0 = p.d.getD 0 0 ∧ x.d.getD 1 0 = p.d.getD 1 0 ∧
          (g.eff.stepped = false → x.pending = false ∧ x.age = tget 0 g.ages (f.copy * 4096 + p.lslice)) ∧
          (g.eff.stepped = true → x.pending = true) ∧ (∀ y ∈ s.tiles, ∃ y' ∈ t.tiles, y'.id = y.id)) ∧
      (s.clock + 1 < f.at_ + 16 → exec (.productInsert fi i) s = .next s) ∧
      (p.inserted = true → f.retired = true → (∀ x ∈ s.firings, x.id = fi → x = f) → ∃ t, exec (.productAck fi i) s = .next t ∧
        t.firing? fi = none ∧ t.tiles = s.tiles)) ∧
    (let due : Prop := s.waveDone ≠ [] ∨ s.waveAt + 4096 ≤ s.clock;
      (s.bay0 * 128 ≤ sl → sl < (s.bay0 + s.bays) * 128 → sl ∉ s.waveDone → due → ∃ t, exec (.stabilityWave sl) s = .next t ∧
        t.waveDone = sl :: s.waveDone ∧ t.tiles = s.tiles ∧ t.regions = s.regions.map fun g => if g.state ≠ .active then g else
          let w := g.wave.getD ([], true, false)
          { g with wave := some (sl :: w.1, w.2.1 && s.sliceIdle g sl, w.2.2 || g.dirty.contains sl), dirty := g.dirty.filter (· != sl) }) ∧
      (sl ∈ s.waveDone ∨ ¬ due ∨ sl < s.bay0 * 128 → exec (.stabilityWave sl) s = .next s)) ∧
    (s.waveDone.length < s.bays * 128 → exec .waveReport s = .next s) ∧
    (s.bays * 128 ≤ s.waveDone.length → exec .waveReport s =
      .next ((s.regions.map fun (g : Region) => g.id).foldl State.judge { s with waveDone := [] })) ∧
    (∀ ws idle dirty, s.region? r = some g → g.wave = some (ws, idle, dirty) → g.state = .active →
      let pass : Prop := ws.length = s.bays * 128 ∧ idle = true ∧ dirty = false ∧ g.lastIdle = some true ∧ (∀ c ∈ s.regions, c.parent ≠ some r) ∧
        s.noticeWaits r = false
      ∃ g', (s.judge r).region? r = some g' ∧ g'.wave = none ∧
        g'.lastIdle = some (decide (ws.length = s.bays * 128) && idle) ∧
        (¬ pass → g'.state = .active ∧ g'.step = g.step) ∧
        (pass → g.eff.stepped = false → g'.state = .draining) ∧
        (pass → g.eff.stepped = true → g.eff.rollback = false → (s.tiles.any fun x => x.region == r && x.pending) = true →
          g'.state = .active ∧ g'.step = g.step + 1 ∧ g'.cnt.nstep = g.cnt.nstep + 1)) ∧
    (s.region? r = some g →
      (g.state = .draining → g.cstat = 0 → (∀ f ∈ s.firings, f.region ≠ r) → g.eff.paired = false → s.noticeWaits r = false → g.doneDue = false →
        (∀ c ∈ s.regions, c.parent ≠ some r) →
        let cstat := if g.killed then 4 else if g.faulted then 3 else if g.spent = [] then 1 else 2
        let due : Prop := g.parent ≠ none ∧ g.cdesc.toNat % 2 ^ 16 ≠ 0 ∧ g.killed = false
        let t := s.completeRegion r
        exec (.regionComplete r) s = Spec.waitOr s t ∧ (∀ x ∈ t.tiles, x.region ≠ r) ∧
          (¬ due → t.region? r = none ∨ t.noticeWaits r = true ∧ ∃ g', t.region? r = some g' ∧ g'.doneDue = true) ∧
          (due → ∃ g', t.region? r = some g' ∧ g'.tileDue = true ∧ g'.cstat = cstat)) ∧
      (g.state = .active → g.doneDue = false → exec (.regionComplete r) s = .next s) ∧
      (g.tileDue = true → s.noticeWaits r = false → ∃ t, exec (.completionTile r) s = Spec.waitOr s t ∧
        (t.region? r = none ∨ t.noticeWaits r = true ∧ ∃ g', t.region? r = some g' ∧ g'.doneDue = true ∧ g'.tileDue = false)) ∧
      (g.doneDue = true → s.noticeWaits r = false → exec (.regionComplete r) s = Spec.waitOr s (s.finishRegion r)) ∧
      (g.tileDue = false → exec (.completionTile r) s = .next s) ∧
      (g.eff.btime ≠ 0 → g.eff.btime < g.cnt.trun → g.state = .active → g.cstat = 0 → s.waveDone = [] →
        exec (.btimeExpiry r) s = .next (s.spendBudget r 4)) ∧
      (g.cnt.trun ≤ g.eff.btime → exec (.btimeExpiry r) s = .next s))

/-- R92, R93, R382, R384, R385, R223, R377, R271, R384: a slice that is over asks its running cores to stop and ends when they have; the next
function with work takes the partition; a core that is asked to stop, and that nothing holds, runs no further instruction; a stopped
firing is released, or kept when it has passed a boundary, and resumes from the entry
of its region; conflict aborts, the end of a WAITI's time and of an open packet's.
Stop and resumption are stated for PLAIN firings and for threads. That a core which is asked to stop, and that nothing holds, runs no further
instruction is an inference (log entry 118), and so is that a firing which has performed an MTX instruction is kept (log entry 132). What a stop
and a resumption acquire, when a function yields, and that the fields beside the reason of the DETAIL word of an expired packet are 0 are the
model's choices and readings (log entries 80, 84, 15). -/
def Obligations.SlicesAndStops : Prop :=
  ∀ (s : State) (k fi fn : Nat) (f : Firing) (g : Region),
    (s.slice = some fn → s.sliceOver fn = true → s.ending = false →
      ((∃ e ∈ s.cores, e.1 < 0x10000 ∧ e.2.busy = true) → ∃ t, exec .sliceEnd s = .next t ∧ t.slice = none ∧ t.ending = true ∧
        t.lastSlice = fn ∧ ∀ j, j < 0x10000 → (s.core j).busy = true → (t.core j).preempt = true) ∧
      (s.allStopped = true → exec .sliceEnd s = .next (((s.beginSliceEnd fn).clusters.map fun (e : Nat × Cluster) => e.1).foldl
        (fun u cl => u.saveCluster u.lastSlice cl) { s.beginSliceEnd fn with ending := false }))) ∧
    (∀ cl, ((s.saveCluster fn cl).cluster cl).modes = [] ∧ ((s.saveCluster fn cl).cluster cl).bankMem = .empty ∧
      ((s.saveCluster fn cl).cluster cl).fifos = [] ∧ ((s.saveCluster fn cl).cluster cl).merge = none ∧
      ((s.saveCluster fn cl).cluster cl).copyQ = []) ∧
    (s.slice = some fn → s.sliceOver fn = false → s.ending = false → exec .sliceEnd s = .next s) ∧
    (s.slice = none → s.ending = false → s.life = .run → s.mayHold fn = true →
      (∀ n, n < 64 → s.mayHold n = true → (fn + 63 - s.lastSlice) % 64 ≤ (n + 63 - s.lastSlice) % 64) →
      ∃ t, exec (.sliceStart fn) s = .next t ∧ t.slice = some fn ∧ t.sliceStart = s.clock ∧ (t.func fn).saved = []) ∧
    (s.slice ≠ none → exec (.sliceStart fn) s = .next s) ∧
    (k < 0x10000 →
      ((s.core k).preempt = false → exec (.preemptStop k) s = .next s) ∧
      (∀ n, (s.core k).preempt = true → (s.core k).run = .firing n → s.firing? n = some f → f.id = n → f.cores = [k] →
        s.classOf f = 0 → (s.core k).stopped = false → (s.core k).inHandler = false → (s.core k).undo = false →
          (∀ d n, (s.core k).packet = some (d, n) → n = 0) →
        (s.core k).noDiscard = false → (s.core k).deliver = false → s.atBoundary k = true → s.sfuBusy k = false → (s.core k).passed = false →
          (s.core k).mtx = false →
        ∃ t, exec (.preemptStop k) s = .next t ∧ t.firing? n = none ∧ (t.core k).run = .idle ∧ (∀ x ∈ t.tiles, x.id ∈ f.tiles → x.held = false)) ∧
      (∀ n, (s.core k).preempt = true → (s.core k).run = .firing n → s.firing? n = some f → f.id = n → f.cores = [k] →
        s.classOf f = 0 → (s.core k).stopped = false → (s.core k).inHandler = false → (s.core k).undo = false →
          (∀ d n, (s.core k).packet = some (d, n) → n = 0) →
        (s.core k).noDiscard = false → (s.core k).deliver = false → s.atBoundary k = true → s.sfuBusy k = false →
          (s.core k).passed = true ∨ (s.core k).mtx = true →
        ∃ t f', exec (.preemptStop k) s = .next t ∧ t.firing? n = some f' ∧ f'.kept = true ∧ f'.tiles = f.tiles ∧ (t.core k).run = .idle ∧
          t.tiles = s.tiles) ∧
      (∀ n, s.agenda = [] → s.cur = k → (s.core k).preempt = true → (s.core k).run = .firing n → s.firing? n = some f → f.doomed = false →
        f.notified = false → s.classOf f = 0 → (s.core k).waitRecord = none → (s.core k).deliver = false → (s.core k).inHandler = false →
        (s.core k).undo = false → (∀ d n, (s.core k).packet = some (d, n) → n = 0) → (s.core k).noDiscard = false → s.atBoundary k = true →
          (s.core k).mchk = none →
        step s = .next s) ∧
      ((s.core k).preempt = true → (s.core k).isThread = true → (∀ d n, (s.core k).packet = some (d, n) → n = 0) → (s.core k).deliver = false →
        s.sfuBusy k = false → s.recordWaits k = false →
        ∃ t, exec (.preemptStop k) s = .next t ∧ (t.core k).run = .idle)) ∧
    (s.firing? fi = some f → f.kept = true → f.notified = true ∨ f.doomed = true →
      (s.classOf f ≠ 2 → exec (.firingResume fi) s = .next (s.dropFiring f)) ∧
      (s.classOf f = 2 → (∀ j ∈ f.cores, (s.core j).opened = false ∧ (s.core j).ucnt = 0) →
        exec (.firingResume fi) s = .next ((s.release (f.cores.headD 0) s.regionScope).dropFiring f))) ∧
    (∀ j n, s.firing? fi = some f → f.kept = true → f.notified = false → f.doomed = false → f.cores = [j] → f.cells = [] → s.classOf f = 0 →
      s.region? f.region = some g →
      s.onSlice g.space = true → (s.core j).mchk = none → (s.core j).run = .firing n → 0x10000 ≤ j → k < 0x10000 →
      s.firings.filter (fun x => x.region == f.region && x.gang == f.gang && !x.retired) = [f] →
      ((s.rangesAt (clusterOf j)).any fun e => namesSpan e.2 j padWindow 0x40000) = false →
      (s.freeCores (clusterOf j)).head? = some k → (s.core j).grant = 0 →
      ∃ t f', exec (.firingResume fi) s = .next t ∧ t.firing? fi = some f' ∧ f'.kept = false ∧ f'.cores = [k] ∧ (t.core k).run = .firing n ∧
        (t.core k).pc = (((s.core j).arr.word ((s.core j).cr.ctx.toNat % 0x8000 + 0x108)).setWidth 53 : BitVec 53) &&& ~~~1) ∧
    (s.firing? fi = some f → f.notified = true → f.retired = false →
      (f.kept = true → s.classOf f ≠ 2 → exec (.conflictAbort fi) s = .next (s.dropFiring f)) ∧
      (f.kept = true → s.classOf f = 2 →
        ((∀ j ∈ f.cores, (s.core j).opened = false ∧ (s.core j).ucnt = 0) →
          exec (.conflictAbort fi) s = .next ((s.release (f.cores.headD 0) s.regionScope).dropFiring f)) ∧
        ((∃ j ∈ f.cores, (s.core j).opened = true ∨ 0 < (s.core j).ucnt) → exec (.conflictAbort fi) s = .next s)) ∧
      (∀ r, f.kept = false → f.cores = k :: r → (s.core k).opened = false → (s.core k).undo = false → (s.core k).committing = false →
        exec (.conflictAbort fi) s = .next (s.abortFiring k f)) ∧
      (∀ r, f.kept = false → f.cores = k :: r → (s.core k).opened = true ∨ (s.core k).committing = true → exec (.conflictAbort fi) s = .next s)) ∧
    (∀ j c, s.cores.find? (fun e => isSaved e.1 && e.1 % 0x10000 == k && e.2.isThread && s.onSlice (s.spaceOf e.1)) = some (j, c) →
      ((s.rangesAt (clusterOf k)).any fun e => namesSpan e.2 j padWindow 0x40000) = false → k < 0x10000 → s.coreFree k = true →
      (s.core j).grant = 0 → ∃ t, exec (.compatThreadResume k) s = .next t ∧ (t.core k).run = (s.core j).run ∧
        (t.core k).pc = (((s.core j).arr.word 0x808).setWidth 53 : BitVec 53) &&& ~~~1) ∧
    (∀ t, (s.core k).waitFrom = some t →
      (t + 4096 ≤ s.clock → exec (.waitiTimeout k) s = .next (s.modCore k fun c => { c with waitOver := true })) ∧
      (s.clock < t + 4096 → exec (.waitiTimeout k) s = .next s)) ∧
    (∀ d, (s.core k).packet = some (d, 0) → exec (.qsendBoundExpiry k) s = .next s) ∧
    (∀ d n t, (s.core k).packet = some (d, n + 1) → (s.core k).packetStop = some t →
      (s.clock < t + 2 ^ 24 → exec (.qsendBoundExpiry k) s = .next s) ∧
      (t + 2 ^ 24 ≤ s.clock → s.firingOf k = some f → exec (.qsendBoundExpiry k) s =
        .next (((s.closePacket k).faultRegion f.region 37).abortFiring k f)) ∧
      (t + 2 ^ 24 ≤ s.clock → s.firingOf k = none → exec (.qsendBoundExpiry k) s = .next ((s.closePacket k).endThread k 2)))

namespace Sys2Proof.Spec

/-- A k-group of a product accumulated (R51): the exact sum of its exact products rounded once, and added with one rounding. -/
def kgroup (f : Fmt) (g : Nat) (prod : Nat → Machine.Num) (acc n : Nat) : Nat :=
  (f.addNum 0 (f.decode acc) (f.decode (f.ofNum 0 (sumNum ((List.range g).map fun i => prod (n * g + i)))).1)).1

/-- Block `b` of a product accumulated into an element: its k-groups in ascending order (R51, R287). -/
def kblock (f : Fmt) (g : Nat) (prod : Nat → Machine.Num) (acc : Word) (b : Nat) : Word :=
  BitVec.ofNat 64 ((List.range (128 / g)).foldl (kgroup f g fun k => prod (128 * b + k)) acc.toNat)

end Sys2Proof.Spec

/-- R302, R304, R305, R308, R346, R397, R280, R281, R283, R284, R286, R287, R51, R279, R251, R288, R293, R295, R254: the units of a cluster, and
soft errors. A command begins when no earlier one holds its ranges, is performed piece by piece, reports and leaves its queue; a piece of a COPY
moves the bytes of one destination line; an internal error makes it begin again. The staging and matrix queues perform their heads: ASTAGE
puts its rows into blocks of the A buffer, a PLOAD its rows into column slices; an accumulator receives, block by block, its k-groups each
rounded once; a product whose panel is absent parks; a resumed one takes its object out of the error phase in a step before it is performed (R294,
R441). That a command waits until an earlier one that holds a byte of its ranges has left is the model's choice, narrower than R305 (log entry
60). -/
def Obligations.UnitEvents : Prop :=
  ∀ (s : State) (cl e ce : Nat) (c : EngCmd) (r : List EngCmd) (m : CellCmd) (ms : List CellCmd),
    ((s.cluster cl).queue e = c :: r →
      (c.begun = false → s.onSlice c.who.space = true → s.cmdHeld cl c.at_ = false →
        (∀ c' u, (beginCmd cl c).run.run s = (.ok c', u) → exec (.enginePerform cl e) s =
          .next (u.setHead cl e { c' with begun := true, code := if c'.total ≤ c'.done then some (0, 0) else none })) ∧
        (∀ x u, (beginCmd cl c).run.run s = (.error x, u) → exec (.enginePerform cl e) s =
          .next (u.setHead cl e { c with begun := true, code := some x })) ∧
        (c.op = 0 → 0 < (c.operand 2).toNat → (c.operand 0).toNat + (c.operand 2).toNat ≤ windowBase →
          (c.operand 1).toNat + (c.operand 2).toNat ≤ windowBase →
          exec (.enginePerform cl e) s = .next (s.setHead cl e { c with begun := true, code := some (6, 3) }))) ∧
      (s.cmdHeld cl c.at_ = true → exec (.enginePerform cl e) s = .next s) ∧
      (c.begun = true → c.code = none →
        (∀ c' n u, (pieceCmd cl c).run.run s = (.ok (c', n), u) →
          let q := u.raiseSync c' n
          exec (.enginePiece cl e) s = .next (q.1.setHead cl e { q.2 with code := if q.2.total ≤ q.2.done then some (0, 0) else none })) ∧
        (∀ x u, (pieceCmd cl c).run.run s = (.error x, u) → exec (.enginePiece cl e) s = .next (u.setHead cl e { c with code := some x })) ∧
        (∀ c' u, (beginCmd cl c).run.run s = (.ok c', u) → exec (.engineInternalError cl e) s =
          .next (u.setHead cl e { c' with begun := true, code := if c'.total ≤ c'.done then some (0, 0) else none })) ∧
        (∀ x u, (beginCmd cl c).run.run s = (.error x, u) → exec (.engineInternalError cl e) s =
          .next (u.setHead cl e { c with begun := true, code := some x })) ∧
        exec (.engineReport cl e) s = .next s) ∧
      (c.begun = true → c.code = none → c.op = 0 → c.report.getLsbD 61 = false → s.memOk = true →
        let src := (c.operand 0).toNat % 2 ^ 53 + c.done
        let dst := (c.operand 1).toNat % 2 ^ 53 + c.done
        let n := (c.operand 2).toNat
        let len := min (n - c.done) (128 - dst % 128)
        ∀ p q, c.done < n → src + len < 2 ^ 53 → dst + len < 2 ^ 53 → src % 0x2000 + len ≤ 0x2000 → windowBase ≤ src → windowBase ≤ dst →
          s.window c.who.core src true = some p → s.window c.who.core dst true = some q →
          (∀ i, i < len → s.seenBad 0 .so (p.add i) = false) →
          ∃ u, exec (.enginePiece cl e) s = .next u ∧ (∀ i, i < len → u.homeByte (q.add i) = s.homeByte (p.add i)) ∧
            (u.cluster cl).queue e = { c with done := c.done + len, code := if n ≤ c.done + len then some (0, 0) else none } :: r) ∧
      (∀ code d, c.code = some (code, d) → exec (.engineReport cl e) s =
        .next (((((s.report c code d).noteIdle cl (c.who.core % 0x10000)).modCluster cl fun x => x.setQueue e r).poisonRolls c.who
          (code == 4 || c.note.isSome)).dropGhost c.who.core))) ∧
    ((s.cell cl ce).staging = m :: ms →
      let w := m.ops.getD 1 0
      let n := fieldNat w 0 6
      let tce := fieldNat w 6 2
      let pop (t : State) : State := (t.noteIdle cl m.who.core).modCell cl ce fun x => { x with staging := ms };
      (m.op = 0 → s.cmdHeld cl m.at_ = false →
        (∀ q ∈ (s.cell cl ce).matrix, 3 ≤ q.op → q.at_ < m.at_ → spansMeet (stageRange m) ((s.cell cl ce).aRange q) = false) →
        exec (.stagingPerform cl ce) s = .next ((pop s).performStage cl ce m) ∧
        (let k := m.who.core
          let t := fieldNat w 16 8
          let kc := fieldNat w 24 8
          let rb := 16 * matBits t
          let va (i x : Nat) : Nat := ((m.ops.getD 0 0).toNat % 2 ^ 53 + i * fieldNat w 32 20 + x) % 2 ^ 53
          (if cl % 32 < 16 then t = 0x13 ∨ t = 0x14 ∨ t = 0x15 else t = 0x10 ∨ t = 0x11) → (s.cell cl ce).abuf.wf = true →
          (∀ i x, i < 128 → x < kc * rb → ∃ p, s.localPlace k (va i x) = some p ∧ s.seenBad k .rc p = false) →
          (∀ i blk x p, i < 128 → blk < kc → x < rb → s.localPlace k (va i (blk * rb + x)) = some p →
            (((pop s).performStage cl ce m).cell cl ce).abuf.byte ((fieldNat w 0 9 + blk * matBits t) * 2048 + i * rb + x) = s.seenByte k .rc p) ∧
          (∀ n, fieldNat w 0 9 ≤ n → n < fieldNat w 0 9 + kc * matBits t →
            (tget 0 (((pop s).performStage cl ce m).cell cl ce).utags n).toNat = t))) ∧
      (m.op = 1 → m.done = 0 → s.cmdHeld cl m.at_ = false → (s.cluster cl).panelBusy tce n = false →
        ∀ u, s.beginPanel cl tce n (fieldNat w 28 8) (fieldNat w 16 12) (fieldNat w 8 8) (vaOf (m.ops.getD 0 0)) = (u, none) →
        exec (.stagingPerform cl ce) s = .next (u.modCell cl ce fun x => { x with staging := { m with done := 1 } :: ms })) ∧
      (m.op = 1 → m.done = 1 → ∀ u x, s.copyPanel m.who cl tce n = (u, x) →
        exec (.stagingPerform cl ce) s = .next ((pop u).cellReport m (vaOf (m.ops.getD 2 0)) (x.getD (0, 0)).1 (x.getD (0, 0)).2)) ∧
      (s.cmdHeld cl m.at_ = true → ¬ (m.op = 1 ∧ m.done = 1) → exec (.stagingPerform cl ce) s = .next s)) ∧
    (∀ (w : Who) (pc n : Nat) (bs : List Byte) (u : State),
      let p := (s.cell cl pc).panel n
      let z := matBits (panelFmt p.1) / 8
      let len := panelKb p.1 * 2048 * matBits (panelFmt p.1) + if panelFmt p.1 = 0x12 then 256 else 0
      let t := (s.copyPanel w cl pc n).1
      (loadParts w 0 (pagesOf (p.2.toNat % 2 ^ 53) len (len / 0x2000 + 2))).run.run s = (.ok bs, u) → (u.cluster cl).store.wf = true →
      1 ≤ z → panelBase p.1 + panelUnits (panelFmt p.1) (panelKb p.1) ≤ 256 → (s.copyPanel w cl pc n).2 = none ∧
        (∀ j k i, j < 128 → k < 128 * panelKb p.1 → i < z → (t.cluster cl).store.byte
          (pc * 0x1000000 + j * 0x20000 + panelBase p.1 * 0x200 + k * z + i) = bs.getD ((k * 128 + j) * z + i) 0)) ∧
    ((s.cell cl ce).matrix = m :: ms →
      ((s.cell cl ce).parked ≠ none → exec (.matrixPerform cl ce) s = .next s) ∧
      ((s.cell cl ce).parked = none →
        (m.op = 2 → ∃ t, exec (.matrixPerform cl ce) s = .next t ∧ (t.cell cl ce).matrix = ms ∧ tget [] (t.cell cl ce).accs m.acc = [] ∧
          (∀ a, a ≠ m.acc → tget [] (t.cell cl ce).accs a = tget [] (s.cell cl ce).accs a) ∧ t.cores = s.cores) ∧
        (m.op = 3 → (∀ q ∈ (s.cell cl ce).staging, q.op = 0 → q.at_ < m.at_ → spansMeet (stageRange q) ((s.cell cl ce).aRange m) = false) →
          panelState ((s.cell cl ce).panel m.panelNo).1 ≠ 1 →
          exec (.matrixPerform cl ce) s = .next (s.performProduct cl ce m) ∧
          (let x := s.cluster cl
            let y := s.cell cl ce
            let g := if cl % 32 < 16 then 32 else 64
            let u := (tget 0 y.utags m.abase).toNat
            let p := (y.panel m.panelNo).1
            let a (i k : Nat) : Machine.Num := matDecode u
              (elemOf y.abuf ((m.abase + k / 128 * matBits u) * 2048) (matBits u) (i * 128 + k % 128))
            let b (j k : Nat) : Machine.Num := matDecode (panelFmt p) (elemOf x.store
              (ce * 0x1000000 + j * 0x20000 + panelBase p * 0x200) (matBits (panelFmt p)) (128 * m.koff + k))
            m.done = m.koff → x.productCheck (decide (cl % 32 < 16)) ce ce m = none →
            (∀ n, m.koff ≤ n → n < m.koff + m.kcnt → x.blockBad ce ce m n = false) →
            ((s.performProduct cl ce m).cell cl ce).matrix = ms ∧ ((s.performProduct cl ce m).cell cl ce).parked = none ∧
            ∀ i j, i < 128 → j < 128 →
              tget 0 (tget [] ((s.performProduct cl ce m).cell cl ce).accs m.acc) (i * 128 + j) = (List.range m.kcnt).foldl
                (Spec.kblock (matFmt (m.ops.getD 2 0).toNat) g fun k => mulNum (a i k) (b j k)) (tget 0 (tget [] y.accs m.acc) (i * 128 + j))) ∧
          (panelState ((s.cell cl ce).panel m.panelNo).1 = 0 → s.performProduct cl ce m =
            (s.modCell cl ce fun x => { x with
              matrix := ms, parked := some m,
              reloading := if s.duty.getLsbD 0 = false ∧ panelKb ((s.cell cl ce).panel m.panelNo).1 ≠ 0 ∧ m.ops.getD 3 0 = 0
                then some (ce * 64 + m.panelNo) else none }).cellReport m m.objVa 1 (m.panelNo * 2 ^ 16 + ce * 2 ^ 14 + m.acc * 2 ^ 12 + m.done))))) ∧
    ((s.cell cl ce).matrix = m :: ms → (s.cell cl ce).parked = none → m.op = 5 →
      (∀ q ∈ (s.cell cl ce).staging, q.op = 0 → q.at_ < m.at_ → spansMeet (stageRange q) ((s.cell cl ce).aRange m) = false) →
      panelState ((s.cell cl ce).panel m.panelNo).1 ≠ 1 →
      exec (.matrixPerform cl ce) s = .next ((s.resumeObj m).modCell cl ce fun x => { x with matrix := { m with op := 3, begun := true } :: ms }) ∧
      (∀ u pa, s.reach m.who m.objVa 32 = (u, .ok pa) → s.resumeObj m = u.modObj otherParty pa BarObj.resume)) ∧
    (∀ sel u v, (s.cell cl ce).reloading = some sel → (s.cell cl ce).parked = some m →
      (s.cluster cl).panelBusy (sel / 64) (sel % 64) = false →
      (let p := (s.cell cl (sel / 64)).panel (sel % 64);
        s.beginPanel cl (sel / 64) (sel % 64) (panelFmt p.1) (panelKb p.1) (panelBase p.1) (vaOf p.2) = (u, none)) →
      u.copyPanel { m.who with core := cl * 16 + 8 + ce, handler := false } cl (sel / 64) (sel % 64) = (v, none) →
      exec (.panelReload cl ce) s = .next ((v.modCell cl ce fun x => { x with
        matrix := { m with op := if m.op = 4 ∨ m.op = 6 then 6 else 5, at_ := (v.cluster cl).arrivals,
                           ops := m.ops.take 2 ++ BitVec.ofNat 64 (tget 0 (v.core m.who.core).atags m.acc).toNat :: m.ops.drop 3 } :: x.matrix, parked := none,
        reloading := none }).modCluster cl fun x => { x with arrivals := x.arrivals + 1 })) ∧
    (∀ t, (s.cell cl ce).holdoff = some t →
      (t + 4096 ≤ s.clock → exec (.claimHoldoffExpiry cl ce) s = .next ((s.noteUnit cl).modCell cl ce fun x => { x with holdoff := none })) ∧
      (s.clock < t + 4096 → exec (.claimHoldoffExpiry cl ce) s = .next s)) ∧
    (∀ h n, exec (.uncorrectableError 0 h n) s = .next { s with hbm := s.hbm.setBad n true } ∧
      (n < 0xC0 ∨ 0xD0 ≤ n → exec (.uncorrectableError 5 h n) s = .next (s.modCore h fun x => { x with arr := x.arr.setBad n true })) ∧
      (∀ f i t, 0xC0 ≤ n → n < 0xD0 → s.firingOf h = some f → f.tiles[(n - 0xC0) / 4]? = some i → s.tiles.find? (fun t => t.id == i) = some t →
        exec (.uncorrectableError 5 h n) s = .next (State.destroyTile (s.modCore h fun x => { x with arr := x.arr.setBad n true }) t)) ∧
      exec (.uncorrectableError 6 h n) s = .next (s.modCluster h fun x => { x with bankMem := x.bankMem.setBad n true }) ∧
      exec (.uncorrectableError 7 h n) s = .next (s.modCluster h fun x => { x with store := x.store.setBad n true }) ∧
      (∀ l, lineFind s.homes (n / 16) = some l → ∃ t l', exec (.uncorrectableError 1 h n) s = .next t ∧ lineFind t.homes (n / 16) = some l' ∧
        l'.poison.getLsbD (n % 16) = true ∧ l'.data = l.data))

/-! ## Encoding, fetching and reset -/

namespace Sys2Proof.Spec

/-- The current core runs one instruction at its next turn: it has work and nothing is owed at its boundary (R372, R226, R396). -/
structure Runs (s : State) : Prop where
  work : (∃ n, s.me.run = .firing n) ∨ s.me.isThread = true
  here : s.cur < 0x10000
  stopped : s.me.stopped = false
  record : s.me.waitRecord = none
  deliver : s.me.deliver = false
  undo : s.me.undo = false
  doomed : ∀ f, s.firingOf s.cur = some f → f.doomed = false ∧ f.notified = false
  mchk : s.me.mchk = none
  budget : s.me.budget = none
  note : s.me.resumeNote = false
  preempt : s.me.preempt = false

end Sys2Proof.Spec

/-- R135, R138 to R154: decoding the encoding of a well-formed instruction gives back that instruction and leaves the bytes after it,
whatever its fields hold. -/
def Obligations.EncodeDecode : Prop :=
  ∀ (i : Instr) (n w : Nat) (rest : List Byte), wf i = true → encode i = some (n, w) → decode (leBytes n w ++ rest) = .ok (i, rest)

/-- R135, R154: no bit of an encoding is ignored: bytes that decode to an instruction are that instruction's own encoding, so that a
reserved bit, field or value never passes, and the instruction is well formed. -/
def Obligations.DecodeEncode : Prop :=
  ∀ (i : Instr) (bs rest : List Byte), decode bs = .ok (i, rest) → wf i = true ∧ bs = encodeBytes i ++ rest ∧ instrLen i ∈ [2, 4, 8]

/-- R135, R138 to R154: worked words of the encoding tables decode to the instructions that they stand for, and reserved ones are
refused: MAJ 0xF, an unassigned function, a set reserved bit, L with K, and a reserved field value. -/
def Obligations.WordsDecode : Prop :=
  ([0x00083181, 0x518662ED, 0x0416220B, 0x400002A5, 0xFFFFA209, 0x00DE3483, 0x100E62ED, 0xC35662ED] : List Nat).map (decodeTableWord 32) =
    [some (.add 0 0 4 3 3 0), some (.fmad 1 1 3 6 5 3), some (.ld 1 0 1 3 2 4 0), some (.fli 0x40000 5), some (.loop 0x3FFFE 4 0),
     some (.cmpi 13 3 1 1 0), some (.fadd 0 1 7 6 5 3), some (.fcvt 12 11 6 5 3)] ∧
  ([0x00000211, 0x00E83091, 0x03001111, 0x004A4093, 0x08588015, 0x100A3317, 0x18000019, 0x0B862319, 0x014A301B, 0x0000029D] : List Nat).map
      (decodeTableWord 32) =
    [some (.vclaim 0 4 0), some (.vld 0 0x14 3 1 0), some (.vred 0 0 1 2 0), some (.mma 5 4 1 0), some (.gathCb 12 2 0),
     some (.aadd 0 4 5 3 6 0), some (.fence 3 0), some (.qpop 1 3 2 6 0), some (.bop 0 5 3 0 0), some (.trap 0 0 5 0)] ∧
  ([0x0000000C96003281, 0x400000009180_62ED] : List Nat).map (decodeTableWord 64) =
    [some (.selL 1 3 5 0 12), some (.fmadL 1 6 5 3 0x40000000)] ∧
  ([0x0000001F, 0x07C00001, 0x20083181, 0xC0083181, 0x0418228B, 0x28000019, 0x18001015] : List Nat).map (decodeTableWord 32) =
    [none, none, none, none, none, none, none]

/-- R135, R136, R137, R154, R150: a step of a core with work and nothing owed runs the instruction that its fetch gives, in the state
that the fetch leaves. Where the core's own system area holds the bytes at the PC, that is the instruction that they decode to, and nothing
else changes; bits that are no instruction trap ILLOP. With an agenda the step is its first turn (the model's own: log entry 1). -/
def Obligations.StepRunsDecoded : Prop :=
  ∀ (s : State), (s.agenda = [] → Spec.Runs s →
      (∀ t i, s.fetch s.cur = .instr t i → step s = exec i t) ∧
      (∀ o i rest, s.me.pc.toNat = Spec.sysBase + o → o + 8 ≤ 0x8000 → s.me.hide = [] → (∀ a, s.me.arr.isBad a = false) →
        decode (s.me.arr.read o 8) = .ok (i, rest) → wf i = true ∧ step s = exec i s) ∧
      (∀ o, s.me.pc.toNat = Spec.sysBase + o → o + 8 ≤ 0x8000 → s.me.hide = [] → (∀ a, s.me.arr.isBad a = false) →
        (∀ r, decode (s.me.arr.read o 8) ≠ .ok r) → step s = .next (s.takeTrap s.cur 1
          (BitVec.ofNat 64 (leNat (s.me.arr.read o (if leNat (s.me.arr.read o 2) % 2 = 0 then 2 else 4))))))) ∧
    (∀ k r, s.agenda = .core k :: r → step s = State.coreTurn { s with agenda := r, cur := k }) ∧
    (∀ i r, s.agenda = .ev i :: r → encode i = none → step s = if wf i = true then exec i { s with agenda := r } else .next { s with agenda := r }) ∧
    (∀ k g r, s.agenda = .ahead k g :: r → step s = .next (State.readAhead { s with agenda := r } k g)) ∧
    (∀ n r, s.agenda = .elapse n :: r → ∃ t, step s = .next t ∧ t.clock = s.clock + n ∧
      (s.stillSieves = true → t.cores = s.cores ∧ t.hbm = s.hbm ∧ t.tiles = s.tiles))

/-- The canonical form of memory (the model's invariant, log entry 2): every step that answers a next state keeps it. -/
def Obligations.MemoryFormKept : Prop :=
  ∀ (s t : State), s.memOk = true → step s = .next t → t.memOk = true

/-- R402, R450: after reset the device is in BOOT with every memory wiped and zero, no translation, replica, tile, region, firing or offer,
and every core idle; memory has its canonical form. The values of registers are the model's choice where the spec gives none (log entry 3). -/
def Obligations.ResetState : Prop :=
  State.reset.memOk = true ∧ State.reset.life = .boot ∧ State.reset.slice = none ∧ State.reset.tiles = [] ∧ State.reset.offers = [] ∧
  State.reset.regions = [] ∧ State.reset.firings = [] ∧ State.reset.filters = [] ∧ State.reset.homes = [] ∧
  (∀ a, State.reset.hbm.byte a = 0 ∧ State.reset.hbm.isBad a = false) ∧
  (∀ k, (State.reset.core k).run = .idle ∧ (State.reset.core k).l1 = [] ∧ (State.reset.core k).tlb = [] ∧
    (∀ a, (State.reset.core k).arr.byte a = 0 ∧ (State.reset.core k).arr.isBad a = false) ∧ ∀ n, (State.reset.core k).reg n = 0) ∧
  (∀ cl, (State.reset.cluster cl).cache = [] ∧ (∀ a, (State.reset.cluster cl).bankMem.byte a = 0 ∧ (State.reset.cluster cl).store.byte a = 0) ∧
    (∀ b, (State.reset.cluster cl).mode b = .cacheWay) ∧ ∀ ce n, panelState (((State.reset.cluster cl).cell ce).panel n).1 = 0) ∧
  (∀ s : State, ∃ t, exec .reset s = .next t ∧ t.life = .boot ∧ t.hbm = .empty ∧ t.cores = [] ∧ t.host = s.host)
end

