-- ==== Sys2Proof/Laws/Tables.lean ====
section
/-! SUPPORT. What reading a table after an update gives. -/

namespace Sys2Proof.Machine

@[simp] theorem tget_tset_same {α : Type} (d : α) (t : Tbl α) (k : Nat) (a : α) : tget d (tset t k a) k = a := by
  induction t with
  | nil => simp [tset, tget]
  | cons e r ih => by_cases h : e.1 = k <;> simp [tset, tget, h, ih]

theorem tget_tset_other {α : Type} (d : α) (t : Tbl α) {k j : Nat} (a : α) (h : j ≠ k) : tget d (tset t k a) j = tget d t j := by
  induction t with
  | nil => simp [tset, tget, Ne.symm h]
  | cons e r ih =>
    by_cases hk : e.1 = k
    · simp [tset, tget, hk, Ne.symm h]
    · by_cases hj : e.1 = j <;> simp [tset, tget, hk, hj, ih, h]

theorem tget_tset {α : Type} (d : α) (t : Tbl α) (k j : Nat) (a : α) :
    tget d (tset t k a) j = if j = k then a else tget d t j := by
  by_cases h : j = k
  · subst h; simp
  · simp [tget_tset_other d t a h, h]

@[simp] theorem tset_tset {α : Type} (t : Tbl α) (k : Nat) (a b : α) : tset (tset t k a) k b = tset t k b := by
  induction t with
  | nil => simp [tset]
  | cons e r ih => by_cases h : e.1 = k <;> simp [tset, h, ih]

@[simp] theorem tfind_tset_same {α : Type} (t : Tbl α) (k : Nat) (a : α) : tfind (tset t k a) k = some a := by
  induction t with
  | nil => simp [tset, tfind]
  | cons e r ih => by_cases h : e.1 = k <;> simp [tset, tfind, h, ih]

theorem tfind_tset_other {α : Type} (t : Tbl α) {k j : Nat} (a : α) (h : j ≠ k) : tfind (tset t k a) j = tfind t j := by
  induction t with
  | nil => simp [tset, tfind, Ne.symm h]
  | cons e r ih =>
    by_cases hk : e.1 = k
    · simp [tset, tfind, hk, Ne.symm h]
    · by_cases hj : e.1 = j <;> simp [tset, tfind, hk, hj, ih, h]

theorem tget_tdel_same {α : Type} (d : α) (t : Tbl α) (k : Nat) : tget d (tdel t k) k = d := by
  induction t with
  | nil => simp [tdel, tget]
  | cons e r ih =>
    by_cases h : e.1 = k
    · simpa [tdel, h] using ih
    · simpa [tdel, tget, h] using ih

theorem tget_eq_tfind {α : Type} (d : α) (t : Tbl α) (k : Nat) : tget d t k = (tfind t k).getD d := by
  induction t with
  | nil => rfl
  | cons e r ih => by_cases h : e.1 = k <;> simp [tget, tfind, h, ih]

theorem mem_numPut (ns : List Nat) (n m : Nat) : m ∈ numPut ns n ↔ m = n ∨ m ∈ ns := by
  induction ns with
  | nil => simp [numPut]
  | cons k r ih =>
    simp only [numPut]
    split
    · simp
    · split
      · simp_all
      · simp [ih]; tauto

end Sys2Proof.Machine
end

