-- ==== Sys2Proof/Laws/State.lean ====
section
/-! SUPPORT. What each accessor of a state reads after each update of Machine/Regs.lean. -/

namespace Sys2Proof.Machine

variable (s : State)

/-! ## setCore -/

@[simp] theorem State.setCore_agenda (k : Nat) (c : Core) : (s.setCore k c).agenda = s.agenda := rfl
@[simp] theorem State.setCore_sync (k : Nat) (c : Core) : (s.setCore k c).sync = s.sync := rfl
@[simp] theorem State.setCore_matchAt (k : Nat) (c : Core) : (s.setCore k c).matchAt = s.matchAt := rfl
@[simp] theorem State.setCore_lastInsert (k : Nat) (c : Core) : (s.setCore k c).lastInsert = s.lastInsert := rfl
@[simp] theorem State.setCore_escalations (k : Nat) (c : Core) : (s.setCore k c).escalations = s.escalations := rfl
@[simp] theorem State.setCore_cur (k : Nat) (c : Core) : (s.setCore k c).cur = s.cur := rfl
@[simp] theorem State.setCore_clock (k : Nat) (c : Core) : (s.setCore k c).clock = s.clock := rfl
@[simp] theorem State.setCore_fresh (k : Nat) (c : Core) : (s.setCore k c).fresh = s.fresh := rfl
@[simp] theorem State.setCore_clusters (k : Nat) (c : Core) : (s.setCore k c).clusters = s.clusters := rfl
@[simp] theorem State.setCore_hbm (k : Nat) (c : Core) : (s.setCore k c).hbm = s.hbm := rfl
@[simp] theorem State.setCore_homes (k : Nat) (c : Core) : (s.setCore k c).homes = s.homes := rfl
@[simp] theorem State.setCore_flags (k : Nat) (c : Core) : (s.setCore k c).flags = s.flags := rfl
@[simp] theorem State.setCore_predictor (k : Nat) (c : Core) : (s.setCore k c).predictor = s.predictor := rfl
@[simp] theorem State.setCore_host (k : Nat) (c : Core) : (s.setCore k c).host = s.host := rfl
@[simp] theorem State.setCore_filters (k : Nat) (c : Core) : (s.setCore k c).filters = s.filters := rfl
@[simp] theorem State.setCore_maps (k : Nat) (c : Core) : (s.setCore k c).maps = s.maps := rfl
@[simp] theorem State.setCore_tiles (k : Nat) (c : Core) : (s.setCore k c).tiles = s.tiles := rfl
@[simp] theorem State.setCore_nextTile (k : Nat) (c : Core) : (s.setCore k c).nextTile = s.nextTile := rfl
@[simp] theorem State.setCore_offers (k : Nat) (c : Core) : (s.setCore k c).offers = s.offers := rfl
@[simp] theorem State.setCore_nextOffer (k : Nat) (c : Core) : (s.setCore k c).nextOffer = s.nextOffer := rfl
@[simp] theorem State.setCore_nextGroup (k : Nat) (c : Core) : (s.setCore k c).nextGroup = s.nextGroup := rfl
@[simp] theorem State.setCore_firings (k : Nat) (c : Core) : (s.setCore k c).firings = s.firings := rfl
@[simp] theorem State.setCore_nextFiring (k : Nat) (c : Core) : (s.setCore k c).nextFiring = s.nextFiring := rfl
@[simp] theorem State.setCore_stamp (k : Nat) (c : Core) : (s.setCore k c).stamp = s.stamp := rfl
@[simp] theorem State.setCore_regions (k : Nat) (c : Core) : (s.setCore k c).regions = s.regions := rfl
@[simp] theorem State.setCore_nextRegion (k : Nat) (c : Core) : (s.setCore k c).nextRegion = s.nextRegion := rfl
@[simp] theorem State.setCore_matchPtr (k : Nat) (c : Core) : (s.setCore k c).matchPtr = s.matchPtr := rfl
@[simp] theorem State.setCore_refillPtr (k : Nat) (c : Core) : (s.setCore k c).refillPtr = s.refillPtr := rfl
@[simp] theorem State.setCore_groups (k : Nat) (c : Core) : (s.setCore k c).groups = s.groups := rfl
@[simp] theorem State.setCore_funcs (k : Nat) (c : Core) : (s.setCore k c).funcs = s.funcs := rfl
@[simp] theorem State.setCore_slice (k : Nat) (c : Core) : (s.setCore k c).slice = s.slice := rfl
@[simp] theorem State.setCore_sliceStart (k : Nat) (c : Core) : (s.setCore k c).sliceStart = s.sliceStart := rfl
@[simp] theorem State.setCore_ending (k : Nat) (c : Core) : (s.setCore k c).ending = s.ending := rfl
@[simp] theorem State.setCore_duty (k : Nat) (c : Core) : (s.setCore k c).duty = s.duty := rfl
@[simp] theorem State.setCore_mapResult (k : Nat) (c : Core) : (s.setCore k c).mapResult = s.mapResult := rfl
@[simp] theorem State.setCore_nextRecord (k : Nat) (c : Core) : (s.setCore k c).nextRecord = s.nextRecord := rfl
@[simp] theorem State.setCore_irqs (k : Nat) (c : Core) : (s.setCore k c).irqs = s.irqs := rfl
@[simp] theorem State.setCore_life (k : Nat) (c : Core) : (s.setCore k c).life = s.life := rfl
@[simp] theorem State.setCore_bay0 (k : Nat) (c : Core) : (s.setCore k c).bay0 = s.bay0 := rfl
@[simp] theorem State.setCore_bays (k : Nat) (c : Core) : (s.setCore k c).bays = s.bays := rfl
@[simp] theorem State.setCore_image (k : Nat) (c : Core) : (s.setCore k c).image = s.image := rfl
@[simp] theorem State.setCore_attestations (k : Nat) (c : Core) : (s.setCore k c).attestations = s.attestations := rfl
@[simp] theorem State.setCore_waveAt (k : Nat) (c : Core) : (s.setCore k c).waveAt = s.waveAt := rfl
@[simp] theorem State.setCore_waveDone (k : Nat) (c : Core) : (s.setCore k c).waveDone = s.waveDone := rfl
@[simp] theorem State.setCore_lastSlice (k : Nat) (c : Core) : (s.setCore k c).lastSlice = s.lastSlice := rfl
@[simp] theorem State.setCore_lineage (k : Nat) (c : Core) : (s.setCore k c).lineage = s.lineage := rfl
@[simp] theorem State.setCore_lostStatus (k : Nat) (c : Core) : (s.setCore k c).lostStatus = s.lostStatus := rfl

/-! ## modCore -/

@[simp] theorem State.modCore_agenda (k : Nat) (f : Core → Core) : (s.modCore k f).agenda = s.agenda := rfl
@[simp] theorem State.modCore_sync (k : Nat) (f : Core → Core) : (s.modCore k f).sync = s.sync := rfl
@[simp] theorem State.modCore_matchAt (k : Nat) (f : Core → Core) : (s.modCore k f).matchAt = s.matchAt := rfl
@[simp] theorem State.modCore_lastInsert (k : Nat) (f : Core → Core) : (s.modCore k f).lastInsert = s.lastInsert := rfl
@[simp] theorem State.modCore_escalations (k : Nat) (f : Core → Core) : (s.modCore k f).escalations = s.escalations := rfl
@[simp] theorem State.modCore_cur (k : Nat) (f : Core → Core) : (s.modCore k f).cur = s.cur := rfl
@[simp] theorem State.modCore_clock (k : Nat) (f : Core → Core) : (s.modCore k f).clock = s.clock := rfl
@[simp] theorem State.modCore_fresh (k : Nat) (f : Core → Core) : (s.modCore k f).fresh = s.fresh := rfl
@[simp] theorem State.modCore_clusters (k : Nat) (f : Core → Core) : (s.modCore k f).clusters = s.clusters := rfl
@[simp] theorem State.modCore_hbm (k : Nat) (f : Core → Core) : (s.modCore k f).hbm = s.hbm := rfl
@[simp] theorem State.modCore_homes (k : Nat) (f : Core → Core) : (s.modCore k f).homes = s.homes := rfl
@[simp] theorem State.modCore_flags (k : Nat) (f : Core → Core) : (s.modCore k f).flags = s.flags := rfl
@[simp] theorem State.modCore_predictor (k : Nat) (f : Core → Core) : (s.modCore k f).predictor = s.predictor := rfl
@[simp] theorem State.modCore_host (k : Nat) (f : Core → Core) : (s.modCore k f).host = s.host := rfl
@[simp] theorem State.modCore_filters (k : Nat) (f : Core → Core) : (s.modCore k f).filters = s.filters := rfl
@[simp] theorem State.modCore_maps (k : Nat) (f : Core → Core) : (s.modCore k f).maps = s.maps := rfl
@[simp] theorem State.modCore_tiles (k : Nat) (f : Core → Core) : (s.modCore k f).tiles = s.tiles := rfl
@[simp] theorem State.modCore_nextTile (k : Nat) (f : Core → Core) : (s.modCore k f).nextTile = s.nextTile := rfl
@[simp] theorem State.modCore_offers (k : Nat) (f : Core → Core) : (s.modCore k f).offers = s.offers := rfl
@[simp] theorem State.modCore_nextOffer (k : Nat) (f : Core → Core) : (s.modCore k f).nextOffer = s.nextOffer := rfl
@[simp] theorem State.modCore_nextGroup (k : Nat) (f : Core → Core) : (s.modCore k f).nextGroup = s.nextGroup := rfl
@[simp] theorem State.modCore_firings (k : Nat) (f : Core → Core) : (s.modCore k f).firings = s.firings := rfl
@[simp] theorem State.modCore_nextFiring (k : Nat) (f : Core → Core) : (s.modCore k f).nextFiring = s.nextFiring := rfl
@[simp] theorem State.modCore_stamp (k : Nat) (f : Core → Core) : (s.modCore k f).stamp = s.stamp := rfl
@[simp] theorem State.modCore_regions (k : Nat) (f : Core → Core) : (s.modCore k f).regions = s.regions := rfl
@[simp] theorem State.modCore_nextRegion (k : Nat) (f : Core → Core) : (s.modCore k f).nextRegion = s.nextRegion := rfl
@[simp] theorem State.modCore_matchPtr (k : Nat) (f : Core → Core) : (s.modCore k f).matchPtr = s.matchPtr := rfl
@[simp] theorem State.modCore_refillPtr (k : Nat) (f : Core → Core) : (s.modCore k f).refillPtr = s.refillPtr := rfl
@[simp] theorem State.modCore_groups (k : Nat) (f : Core → Core) : (s.modCore k f).groups = s.groups := rfl
@[simp] theorem State.modCore_funcs (k : Nat) (f : Core → Core) : (s.modCore k f).funcs = s.funcs := rfl
@[simp] theorem State.modCore_slice (k : Nat) (f : Core → Core) : (s.modCore k f).slice = s.slice := rfl
@[simp] theorem State.modCore_sliceStart (k : Nat) (f : Core → Core) : (s.modCore k f).sliceStart = s.sliceStart := rfl
@[simp] theorem State.modCore_ending (k : Nat) (f : Core → Core) : (s.modCore k f).ending = s.ending := rfl
@[simp] theorem State.modCore_duty (k : Nat) (f : Core → Core) : (s.modCore k f).duty = s.duty := rfl
@[simp] theorem State.modCore_mapResult (k : Nat) (f : Core → Core) : (s.modCore k f).mapResult = s.mapResult := rfl
@[simp] theorem State.modCore_nextRecord (k : Nat) (f : Core → Core) : (s.modCore k f).nextRecord = s.nextRecord := rfl
@[simp] theorem State.modCore_irqs (k : Nat) (f : Core → Core) : (s.modCore k f).irqs = s.irqs := rfl
@[simp] theorem State.modCore_life (k : Nat) (f : Core → Core) : (s.modCore k f).life = s.life := rfl
@[simp] theorem State.modCore_bay0 (k : Nat) (f : Core → Core) : (s.modCore k f).bay0 = s.bay0 := rfl
@[simp] theorem State.modCore_bays (k : Nat) (f : Core → Core) : (s.modCore k f).bays = s.bays := rfl
@[simp] theorem State.modCore_image (k : Nat) (f : Core → Core) : (s.modCore k f).image = s.image := rfl
@[simp] theorem State.modCore_attestations (k : Nat) (f : Core → Core) : (s.modCore k f).attestations = s.attestations := rfl
@[simp] theorem State.modCore_waveAt (k : Nat) (f : Core → Core) : (s.modCore k f).waveAt = s.waveAt := rfl
@[simp] theorem State.modCore_waveDone (k : Nat) (f : Core → Core) : (s.modCore k f).waveDone = s.waveDone := rfl
@[simp] theorem State.modCore_lastSlice (k : Nat) (f : Core → Core) : (s.modCore k f).lastSlice = s.lastSlice := rfl
@[simp] theorem State.modCore_lineage (k : Nat) (f : Core → Core) : (s.modCore k f).lineage = s.lineage := rfl
@[simp] theorem State.modCore_lostStatus (k : Nat) (f : Core → Core) : (s.modCore k f).lostStatus = s.lostStatus := rfl

/-! ## setCluster -/

@[simp] theorem State.setCluster_agenda (n : Nat) (c : Cluster) : (s.setCluster n c).agenda = s.agenda := rfl
@[simp] theorem State.setCluster_sync (n : Nat) (c : Cluster) : (s.setCluster n c).sync = s.sync := rfl
@[simp] theorem State.setCluster_matchAt (n : Nat) (c : Cluster) : (s.setCluster n c).matchAt = s.matchAt := rfl
@[simp] theorem State.setCluster_lastInsert (n : Nat) (c : Cluster) : (s.setCluster n c).lastInsert = s.lastInsert := rfl
@[simp] theorem State.setCluster_escalations (n : Nat) (c : Cluster) : (s.setCluster n c).escalations = s.escalations := rfl
@[simp] theorem State.setCluster_cur (n : Nat) (c : Cluster) : (s.setCluster n c).cur = s.cur := rfl
@[simp] theorem State.setCluster_clock (n : Nat) (c : Cluster) : (s.setCluster n c).clock = s.clock := rfl
@[simp] theorem State.setCluster_fresh (n : Nat) (c : Cluster) : (s.setCluster n c).fresh = s.fresh := rfl
@[simp] theorem State.setCluster_cores (n : Nat) (c : Cluster) : (s.setCluster n c).cores = s.cores := rfl
@[simp] theorem State.setCluster_hbm (n : Nat) (c : Cluster) : (s.setCluster n c).hbm = s.hbm := rfl
@[simp] theorem State.setCluster_homes (n : Nat) (c : Cluster) : (s.setCluster n c).homes = s.homes := rfl
@[simp] theorem State.setCluster_flags (n : Nat) (c : Cluster) : (s.setCluster n c).flags = s.flags := rfl
@[simp] theorem State.setCluster_predictor (n : Nat) (c : Cluster) : (s.setCluster n c).predictor = s.predictor := rfl
@[simp] theorem State.setCluster_host (n : Nat) (c : Cluster) : (s.setCluster n c).host = s.host := rfl
@[simp] theorem State.setCluster_filters (n : Nat) (c : Cluster) : (s.setCluster n c).filters = s.filters := rfl
@[simp] theorem State.setCluster_maps (n : Nat) (c : Cluster) : (s.setCluster n c).maps = s.maps := rfl
@[simp] theorem State.setCluster_tiles (n : Nat) (c : Cluster) : (s.setCluster n c).tiles = s.tiles := rfl
@[simp] theorem State.setCluster_nextTile (n : Nat) (c : Cluster) : (s.setCluster n c).nextTile = s.nextTile := rfl
@[simp] theorem State.setCluster_offers (n : Nat) (c : Cluster) : (s.setCluster n c).offers = s.offers := rfl
@[simp] theorem State.setCluster_nextOffer (n : Nat) (c : Cluster) : (s.setCluster n c).nextOffer = s.nextOffer := rfl
@[simp] theorem State.setCluster_nextGroup (n : Nat) (c : Cluster) : (s.setCluster n c).nextGroup = s.nextGroup := rfl
@[simp] theorem State.setCluster_firings (n : Nat) (c : Cluster) : (s.setCluster n c).firings = s.firings := rfl
@[simp] theorem State.setCluster_nextFiring (n : Nat) (c : Cluster) : (s.setCluster n c).nextFiring = s.nextFiring := rfl
@[simp] theorem State.setCluster_stamp (n : Nat) (c : Cluster) : (s.setCluster n c).stamp = s.stamp := rfl
@[simp] theorem State.setCluster_regions (n : Nat) (c : Cluster) : (s.setCluster n c).regions = s.regions := rfl
@[simp] theorem State.setCluster_nextRegion (n : Nat) (c : Cluster) : (s.setCluster n c).nextRegion = s.nextRegion := rfl
@[simp] theorem State.setCluster_matchPtr (n : Nat) (c : Cluster) : (s.setCluster n c).matchPtr = s.matchPtr := rfl
@[simp] theorem State.setCluster_refillPtr (n : Nat) (c : Cluster) : (s.setCluster n c).refillPtr = s.refillPtr := rfl
@[simp] theorem State.setCluster_groups (n : Nat) (c : Cluster) : (s.setCluster n c).groups = s.groups := rfl
@[simp] theorem State.setCluster_funcs (n : Nat) (c : Cluster) : (s.setCluster n c).funcs = s.funcs := rfl
@[simp] theorem State.setCluster_slice (n : Nat) (c : Cluster) : (s.setCluster n c).slice = s.slice := rfl
@[simp] theorem State.setCluster_sliceStart (n : Nat) (c : Cluster) : (s.setCluster n c).sliceStart = s.sliceStart := rfl
@[simp] theorem State.setCluster_ending (n : Nat) (c : Cluster) : (s.setCluster n c).ending = s.ending := rfl
@[simp] theorem State.setCluster_duty (n : Nat) (c : Cluster) : (s.setCluster n c).duty = s.duty := rfl
@[simp] theorem State.setCluster_mapResult (n : Nat) (c : Cluster) : (s.setCluster n c).mapResult = s.mapResult := rfl
@[simp] theorem State.setCluster_nextRecord (n : Nat) (c : Cluster) : (s.setCluster n c).nextRecord = s.nextRecord := rfl
@[simp] theorem State.setCluster_irqs (n : Nat) (c : Cluster) : (s.setCluster n c).irqs = s.irqs := rfl
@[simp] theorem State.setCluster_life (n : Nat) (c : Cluster) : (s.setCluster n c).life = s.life := rfl
@[simp] theorem State.setCluster_bay0 (n : Nat) (c : Cluster) : (s.setCluster n c).bay0 = s.bay0 := rfl
@[simp] theorem State.setCluster_bays (n : Nat) (c : Cluster) : (s.setCluster n c).bays = s.bays := rfl
@[simp] theorem State.setCluster_image (n : Nat) (c : Cluster) : (s.setCluster n c).image = s.image := rfl
@[simp] theorem State.setCluster_attestations (n : Nat) (c : Cluster) : (s.setCluster n c).attestations = s.attestations := rfl
@[simp] theorem State.setCluster_waveAt (n : Nat) (c : Cluster) : (s.setCluster n c).waveAt = s.waveAt := rfl
@[simp] theorem State.setCluster_waveDone (n : Nat) (c : Cluster) : (s.setCluster n c).waveDone = s.waveDone := rfl
@[simp] theorem State.setCluster_lastSlice (n : Nat) (c : Cluster) : (s.setCluster n c).lastSlice = s.lastSlice := rfl
@[simp] theorem State.setCluster_lineage (n : Nat) (c : Cluster) : (s.setCluster n c).lineage = s.lineage := rfl
@[simp] theorem State.setCluster_lostStatus (n : Nat) (c : Cluster) : (s.setCluster n c).lostStatus = s.lostStatus := rfl

/-! ## modCluster -/

@[simp] theorem State.modCluster_agenda (n : Nat) (f : Cluster → Cluster) : (s.modCluster n f).agenda = s.agenda := rfl
@[simp] theorem State.modCluster_sync (n : Nat) (f : Cluster → Cluster) : (s.modCluster n f).sync = s.sync := rfl
@[simp] theorem State.modCluster_matchAt (n : Nat) (f : Cluster → Cluster) : (s.modCluster n f).matchAt = s.matchAt := rfl
@[simp] theorem State.modCluster_lastInsert (n : Nat) (f : Cluster → Cluster) : (s.modCluster n f).lastInsert = s.lastInsert := rfl
@[simp] theorem State.modCluster_escalations (n : Nat) (f : Cluster → Cluster) : (s.modCluster n f).escalations = s.escalations := rfl
@[simp] theorem State.modCluster_cur (n : Nat) (f : Cluster → Cluster) : (s.modCluster n f).cur = s.cur := rfl
@[simp] theorem State.modCluster_clock (n : Nat) (f : Cluster → Cluster) : (s.modCluster n f).clock = s.clock := rfl
@[simp] theorem State.modCluster_fresh (n : Nat) (f : Cluster → Cluster) : (s.modCluster n f).fresh = s.fresh := rfl
@[simp] theorem State.modCluster_cores (n : Nat) (f : Cluster → Cluster) : (s.modCluster n f).cores = s.cores := rfl
@[simp] theorem State.modCluster_hbm (n : Nat) (f : Cluster → Cluster) : (s.modCluster n f).hbm = s.hbm := rfl
@[simp] theorem State.modCluster_homes (n : Nat) (f : Cluster → Cluster) : (s.modCluster n f).homes = s.homes := rfl
@[simp] theorem State.modCluster_flags (n : Nat) (f : Cluster → Cluster) : (s.modCluster n f).flags = s.flags := rfl
@[simp] theorem State.modCluster_predictor (n : Nat) (f : Cluster → Cluster) : (s.modCluster n f).predictor = s.predictor := rfl
@[simp] theorem State.modCluster_host (n : Nat) (f : Cluster → Cluster) : (s.modCluster n f).host = s.host := rfl
@[simp] theorem State.modCluster_filters (n : Nat) (f : Cluster → Cluster) : (s.modCluster n f).filters = s.filters := rfl
@[simp] theorem State.modCluster_maps (n : Nat) (f : Cluster → Cluster) : (s.modCluster n f).maps = s.maps := rfl
@[simp] theorem State.modCluster_tiles (n : Nat) (f : Cluster → Cluster) : (s.modCluster n f).tiles = s.tiles := rfl
@[simp] theorem State.modCluster_nextTile (n : Nat) (f : Cluster → Cluster) : (s.modCluster n f).nextTile = s.nextTile := rfl
@[simp] theorem State.modCluster_offers (n : Nat) (f : Cluster → Cluster) : (s.modCluster n f).offers = s.offers := rfl
@[simp] theorem State.modCluster_nextOffer (n : Nat) (f : Cluster → Cluster) : (s.modCluster n f).nextOffer = s.nextOffer := rfl
@[simp] theorem State.modCluster_nextGroup (n : Nat) (f : Cluster → Cluster) : (s.modCluster n f).nextGroup = s.nextGroup := rfl
@[simp] theorem State.modCluster_firings (n : Nat) (f : Cluster → Cluster) : (s.modCluster n f).firings = s.firings := rfl
@[simp] theorem State.modCluster_nextFiring (n : Nat) (f : Cluster → Cluster) : (s.modCluster n f).nextFiring = s.nextFiring := rfl
@[simp] theorem State.modCluster_stamp (n : Nat) (f : Cluster → Cluster) : (s.modCluster n f).stamp = s.stamp := rfl
@[simp] theorem State.modCluster_regions (n : Nat) (f : Cluster → Cluster) : (s.modCluster n f).regions = s.regions := rfl
@[simp] theorem State.modCluster_nextRegion (n : Nat) (f : Cluster → Cluster) : (s.modCluster n f).nextRegion = s.nextRegion := rfl
@[simp] theorem State.modCluster_matchPtr (n : Nat) (f : Cluster → Cluster) : (s.modCluster n f).matchPtr = s.matchPtr := rfl
@[simp] theorem State.modCluster_refillPtr (n : Nat) (f : Cluster → Cluster) : (s.modCluster n f).refillPtr = s.refillPtr := rfl
@[simp] theorem State.modCluster_groups (n : Nat) (f : Cluster → Cluster) : (s.modCluster n f).groups = s.groups := rfl
@[simp] theorem State.modCluster_funcs (n : Nat) (f : Cluster → Cluster) : (s.modCluster n f).funcs = s.funcs := rfl
@[simp] theorem State.modCluster_slice (n : Nat) (f : Cluster → Cluster) : (s.modCluster n f).slice = s.slice := rfl
@[simp] theorem State.modCluster_sliceStart (n : Nat) (f : Cluster → Cluster) : (s.modCluster n f).sliceStart = s.sliceStart := rfl
@[simp] theorem State.modCluster_ending (n : Nat) (f : Cluster → Cluster) : (s.modCluster n f).ending = s.ending := rfl
@[simp] theorem State.modCluster_duty (n : Nat) (f : Cluster → Cluster) : (s.modCluster n f).duty = s.duty := rfl
@[simp] theorem State.modCluster_mapResult (n : Nat) (f : Cluster → Cluster) : (s.modCluster n f).mapResult = s.mapResult := rfl
@[simp] theorem State.modCluster_nextRecord (n : Nat) (f : Cluster → Cluster) : (s.modCluster n f).nextRecord = s.nextRecord := rfl
@[simp] theorem State.modCluster_irqs (n : Nat) (f : Cluster → Cluster) : (s.modCluster n f).irqs = s.irqs := rfl
@[simp] theorem State.modCluster_life (n : Nat) (f : Cluster → Cluster) : (s.modCluster n f).life = s.life := rfl
@[simp] theorem State.modCluster_bay0 (n : Nat) (f : Cluster → Cluster) : (s.modCluster n f).bay0 = s.bay0 := rfl
@[simp] theorem State.modCluster_bays (n : Nat) (f : Cluster → Cluster) : (s.modCluster n f).bays = s.bays := rfl
@[simp] theorem State.modCluster_image (n : Nat) (f : Cluster → Cluster) : (s.modCluster n f).image = s.image := rfl
@[simp] theorem State.modCluster_attestations (n : Nat) (f : Cluster → Cluster) : (s.modCluster n f).attestations = s.attestations := rfl
@[simp] theorem State.modCluster_waveAt (n : Nat) (f : Cluster → Cluster) : (s.modCluster n f).waveAt = s.waveAt := rfl
@[simp] theorem State.modCluster_waveDone (n : Nat) (f : Cluster → Cluster) : (s.modCluster n f).waveDone = s.waveDone := rfl
@[simp] theorem State.modCluster_lastSlice (n : Nat) (f : Cluster → Cluster) : (s.modCluster n f).lastSlice = s.lastSlice := rfl
@[simp] theorem State.modCluster_lineage (n : Nat) (f : Cluster → Cluster) : (s.modCluster n f).lineage = s.lineage := rfl
@[simp] theorem State.modCluster_lostStatus (n : Nat) (f : Cluster → Cluster) : (s.modCluster n f).lostStatus = s.lostStatus := rfl

/-! ## modCell -/

@[simp] theorem State.modCell_agenda (n ce : Nat) (f : Cell → Cell) : (s.modCell n ce f).agenda = s.agenda := rfl
@[simp] theorem State.modCell_sync (n ce : Nat) (f : Cell → Cell) : (s.modCell n ce f).sync = s.sync := rfl
@[simp] theorem State.modCell_matchAt (n ce : Nat) (f : Cell → Cell) : (s.modCell n ce f).matchAt = s.matchAt := rfl
@[simp] theorem State.modCell_lastInsert (n ce : Nat) (f : Cell → Cell) : (s.modCell n ce f).lastInsert = s.lastInsert := rfl
@[simp] theorem State.modCell_escalations (n ce : Nat) (f : Cell → Cell) : (s.modCell n ce f).escalations = s.escalations := rfl
@[simp] theorem State.modCell_cur (n ce : Nat) (f : Cell → Cell) : (s.modCell n ce f).cur = s.cur := rfl
@[simp] theorem State.modCell_clock (n ce : Nat) (f : Cell → Cell) : (s.modCell n ce f).clock = s.clock := rfl
@[simp] theorem State.modCell_fresh (n ce : Nat) (f : Cell → Cell) : (s.modCell n ce f).fresh = s.fresh := rfl
@[simp] theorem State.modCell_cores (n ce : Nat) (f : Cell → Cell) : (s.modCell n ce f).cores = s.cores := rfl
@[simp] theorem State.modCell_hbm (n ce : Nat) (f : Cell → Cell) : (s.modCell n ce f).hbm = s.hbm := rfl
@[simp] theorem State.modCell_homes (n ce : Nat) (f : Cell → Cell) : (s.modCell n ce f).homes = s.homes := rfl
@[simp] theorem State.modCell_flags (n ce : Nat) (f : Cell → Cell) : (s.modCell n ce f).flags = s.flags := rfl
@[simp] theorem State.modCell_predictor (n ce : Nat) (f : Cell → Cell) : (s.modCell n ce f).predictor = s.predictor := rfl
@[simp] theorem State.modCell_host (n ce : Nat) (f : Cell → Cell) : (s.modCell n ce f).host = s.host := rfl
@[simp] theorem State.modCell_filters (n ce : Nat) (f : Cell → Cell) : (s.modCell n ce f).filters = s.filters := rfl
@[simp] theorem State.modCell_maps (n ce : Nat) (f : Cell → Cell) : (s.modCell n ce f).maps = s.maps := rfl
@[simp] theorem State.modCell_tiles (n ce : Nat) (f : Cell → Cell) : (s.modCell n ce f).tiles = s.tiles := rfl
@[simp] theorem State.modCell_nextTile (n ce : Nat) (f : Cell → Cell) : (s.modCell n ce f).nextTile = s.nextTile := rfl
@[simp] theorem State.modCell_offers (n ce : Nat) (f : Cell → Cell) : (s.modCell n ce f).offers = s.offers := rfl
@[simp] theorem State.modCell_nextOffer (n ce : Nat) (f : Cell → Cell) : (s.modCell n ce f).nextOffer = s.nextOffer := rfl
@[simp] theorem State.modCell_nextGroup (n ce : Nat) (f : Cell → Cell) : (s.modCell n ce f).nextGroup = s.nextGroup := rfl
@[simp] theorem State.modCell_firings (n ce : Nat) (f : Cell → Cell) : (s.modCell n ce f).firings = s.firings := rfl
@[simp] theorem State.modCell_nextFiring (n ce : Nat) (f : Cell → Cell) : (s.modCell n ce f).nextFiring = s.nextFiring := rfl
@[simp] theorem State.modCell_stamp (n ce : Nat) (f : Cell → Cell) : (s.modCell n ce f).stamp = s.stamp := rfl
@[simp] theorem State.modCell_regions (n ce : Nat) (f : Cell → Cell) : (s.modCell n ce f).regions = s.regions := rfl
@[simp] theorem State.modCell_nextRegion (n ce : Nat) (f : Cell → Cell) : (s.modCell n ce f).nextRegion = s.nextRegion := rfl
@[simp] theorem State.modCell_matchPtr (n ce : Nat) (f : Cell → Cell) : (s.modCell n ce f).matchPtr = s.matchPtr := rfl
@[simp] theorem State.modCell_refillPtr (n ce : Nat) (f : Cell → Cell) : (s.modCell n ce f).refillPtr = s.refillPtr := rfl
@[simp] theorem State.modCell_groups (n ce : Nat) (f : Cell → Cell) : (s.modCell n ce f).groups = s.groups := rfl
@[simp] theorem State.modCell_funcs (n ce : Nat) (f : Cell → Cell) : (s.modCell n ce f).funcs = s.funcs := rfl
@[simp] theorem State.modCell_slice (n ce : Nat) (f : Cell → Cell) : (s.modCell n ce f).slice = s.slice := rfl
@[simp] theorem State.modCell_sliceStart (n ce : Nat) (f : Cell → Cell) : (s.modCell n ce f).sliceStart = s.sliceStart := rfl
@[simp] theorem State.modCell_ending (n ce : Nat) (f : Cell → Cell) : (s.modCell n ce f).ending = s.ending := rfl
@[simp] theorem State.modCell_duty (n ce : Nat) (f : Cell → Cell) : (s.modCell n ce f).duty = s.duty := rfl
@[simp] theorem State.modCell_mapResult (n ce : Nat) (f : Cell → Cell) : (s.modCell n ce f).mapResult = s.mapResult := rfl
@[simp] theorem State.modCell_nextRecord (n ce : Nat) (f : Cell → Cell) : (s.modCell n ce f).nextRecord = s.nextRecord := rfl
@[simp] theorem State.modCell_irqs (n ce : Nat) (f : Cell → Cell) : (s.modCell n ce f).irqs = s.irqs := rfl
@[simp] theorem State.modCell_life (n ce : Nat) (f : Cell → Cell) : (s.modCell n ce f).life = s.life := rfl
@[simp] theorem State.modCell_bay0 (n ce : Nat) (f : Cell → Cell) : (s.modCell n ce f).bay0 = s.bay0 := rfl
@[simp] theorem State.modCell_bays (n ce : Nat) (f : Cell → Cell) : (s.modCell n ce f).bays = s.bays := rfl
@[simp] theorem State.modCell_image (n ce : Nat) (f : Cell → Cell) : (s.modCell n ce f).image = s.image := rfl
@[simp] theorem State.modCell_attestations (n ce : Nat) (f : Cell → Cell) : (s.modCell n ce f).attestations = s.attestations := rfl
@[simp] theorem State.modCell_waveAt (n ce : Nat) (f : Cell → Cell) : (s.modCell n ce f).waveAt = s.waveAt := rfl
@[simp] theorem State.modCell_waveDone (n ce : Nat) (f : Cell → Cell) : (s.modCell n ce f).waveDone = s.waveDone := rfl
@[simp] theorem State.modCell_lastSlice (n ce : Nat) (f : Cell → Cell) : (s.modCell n ce f).lastSlice = s.lastSlice := rfl
@[simp] theorem State.modCell_lineage (n ce : Nat) (f : Cell → Cell) : (s.modCell n ce f).lineage = s.lineage := rfl
@[simp] theorem State.modCell_lostStatus (n ce : Nat) (f : Cell → Cell) : (s.modCell n ce f).lostStatus = s.lostStatus := rfl

/-! ## modFunc -/

@[simp] theorem State.modFunc_agenda (n : Nat) (f : Func → Func) : (s.modFunc n f).agenda = s.agenda := rfl
@[simp] theorem State.modFunc_sync (n : Nat) (f : Func → Func) : (s.modFunc n f).sync = s.sync := rfl
@[simp] theorem State.modFunc_matchAt (n : Nat) (f : Func → Func) : (s.modFunc n f).matchAt = s.matchAt := rfl
@[simp] theorem State.modFunc_lastInsert (n : Nat) (f : Func → Func) : (s.modFunc n f).lastInsert = s.lastInsert := rfl
@[simp] theorem State.modFunc_escalations (n : Nat) (f : Func → Func) : (s.modFunc n f).escalations = s.escalations := rfl
@[simp] theorem State.modFunc_cur (n : Nat) (f : Func → Func) : (s.modFunc n f).cur = s.cur := rfl
@[simp] theorem State.modFunc_clock (n : Nat) (f : Func → Func) : (s.modFunc n f).clock = s.clock := rfl
@[simp] theorem State.modFunc_fresh (n : Nat) (f : Func → Func) : (s.modFunc n f).fresh = s.fresh := rfl
@[simp] theorem State.modFunc_cores (n : Nat) (f : Func → Func) : (s.modFunc n f).cores = s.cores := rfl
@[simp] theorem State.modFunc_clusters (n : Nat) (f : Func → Func) : (s.modFunc n f).clusters = s.clusters := rfl
@[simp] theorem State.modFunc_hbm (n : Nat) (f : Func → Func) : (s.modFunc n f).hbm = s.hbm := rfl
@[simp] theorem State.modFunc_homes (n : Nat) (f : Func → Func) : (s.modFunc n f).homes = s.homes := rfl
@[simp] theorem State.modFunc_flags (n : Nat) (f : Func → Func) : (s.modFunc n f).flags = s.flags := rfl
@[simp] theorem State.modFunc_predictor (n : Nat) (f : Func → Func) : (s.modFunc n f).predictor = s.predictor := rfl
@[simp] theorem State.modFunc_host (n : Nat) (f : Func → Func) : (s.modFunc n f).host = s.host := rfl
@[simp] theorem State.modFunc_filters (n : Nat) (f : Func → Func) : (s.modFunc n f).filters = s.filters := rfl
@[simp] theorem State.modFunc_maps (n : Nat) (f : Func → Func) : (s.modFunc n f).maps = s.maps := rfl
@[simp] theorem State.modFunc_tiles (n : Nat) (f : Func → Func) : (s.modFunc n f).tiles = s.tiles := rfl
@[simp] theorem State.modFunc_nextTile (n : Nat) (f : Func → Func) : (s.modFunc n f).nextTile = s.nextTile := rfl
@[simp] theorem State.modFunc_offers (n : Nat) (f : Func → Func) : (s.modFunc n f).offers = s.offers := rfl
@[simp] theorem State.modFunc_nextOffer (n : Nat) (f : Func → Func) : (s.modFunc n f).nextOffer = s.nextOffer := rfl
@[simp] theorem State.modFunc_nextGroup (n : Nat) (f : Func → Func) : (s.modFunc n f).nextGroup = s.nextGroup := rfl
@[simp] theorem State.modFunc_firings (n : Nat) (f : Func → Func) : (s.modFunc n f).firings = s.firings := rfl
@[simp] theorem State.modFunc_nextFiring (n : Nat) (f : Func → Func) : (s.modFunc n f).nextFiring = s.nextFiring := rfl
@[simp] theorem State.modFunc_stamp (n : Nat) (f : Func → Func) : (s.modFunc n f).stamp = s.stamp := rfl
@[simp] theorem State.modFunc_regions (n : Nat) (f : Func → Func) : (s.modFunc n f).regions = s.regions := rfl
@[simp] theorem State.modFunc_nextRegion (n : Nat) (f : Func → Func) : (s.modFunc n f).nextRegion = s.nextRegion := rfl
@[simp] theorem State.modFunc_matchPtr (n : Nat) (f : Func → Func) : (s.modFunc n f).matchPtr = s.matchPtr := rfl
@[simp] theorem State.modFunc_refillPtr (n : Nat) (f : Func → Func) : (s.modFunc n f).refillPtr = s.refillPtr := rfl
@[simp] theorem State.modFunc_groups (n : Nat) (f : Func → Func) : (s.modFunc n f).groups = s.groups := rfl
@[simp] theorem State.modFunc_slice (n : Nat) (f : Func → Func) : (s.modFunc n f).slice = s.slice := rfl
@[simp] theorem State.modFunc_sliceStart (n : Nat) (f : Func → Func) : (s.modFunc n f).sliceStart = s.sliceStart := rfl
@[simp] theorem State.modFunc_ending (n : Nat) (f : Func → Func) : (s.modFunc n f).ending = s.ending := rfl
@[simp] theorem State.modFunc_duty (n : Nat) (f : Func → Func) : (s.modFunc n f).duty = s.duty := rfl
@[simp] theorem State.modFunc_mapResult (n : Nat) (f : Func → Func) : (s.modFunc n f).mapResult = s.mapResult := rfl
@[simp] theorem State.modFunc_nextRecord (n : Nat) (f : Func → Func) : (s.modFunc n f).nextRecord = s.nextRecord := rfl
@[simp] theorem State.modFunc_irqs (n : Nat) (f : Func → Func) : (s.modFunc n f).irqs = s.irqs := rfl
@[simp] theorem State.modFunc_life (n : Nat) (f : Func → Func) : (s.modFunc n f).life = s.life := rfl
@[simp] theorem State.modFunc_bay0 (n : Nat) (f : Func → Func) : (s.modFunc n f).bay0 = s.bay0 := rfl
@[simp] theorem State.modFunc_bays (n : Nat) (f : Func → Func) : (s.modFunc n f).bays = s.bays := rfl
@[simp] theorem State.modFunc_image (n : Nat) (f : Func → Func) : (s.modFunc n f).image = s.image := rfl
@[simp] theorem State.modFunc_attestations (n : Nat) (f : Func → Func) : (s.modFunc n f).attestations = s.attestations := rfl
@[simp] theorem State.modFunc_waveAt (n : Nat) (f : Func → Func) : (s.modFunc n f).waveAt = s.waveAt := rfl
@[simp] theorem State.modFunc_waveDone (n : Nat) (f : Func → Func) : (s.modFunc n f).waveDone = s.waveDone := rfl
@[simp] theorem State.modFunc_lastSlice (n : Nat) (f : Func → Func) : (s.modFunc n f).lastSlice = s.lastSlice := rfl
@[simp] theorem State.modFunc_lineage (n : Nat) (f : Func → Func) : (s.modFunc n f).lineage = s.lineage := rfl
@[simp] theorem State.modFunc_lostStatus (n : Nat) (f : Func → Func) : (s.modFunc n f).lostStatus = s.lostStatus := rfl

/-! ## modProc -/

@[simp] theorem State.modProc_agenda (n p : Nat) (f : Proc → Proc) : (s.modProc n p f).agenda = s.agenda := rfl
@[simp] theorem State.modProc_sync (n p : Nat) (f : Proc → Proc) : (s.modProc n p f).sync = s.sync := rfl
@[simp] theorem State.modProc_matchAt (n p : Nat) (f : Proc → Proc) : (s.modProc n p f).matchAt = s.matchAt := rfl
@[simp] theorem State.modProc_lastInsert (n p : Nat) (f : Proc → Proc) : (s.modProc n p f).lastInsert = s.lastInsert := rfl
@[simp] theorem State.modProc_escalations (n p : Nat) (f : Proc → Proc) : (s.modProc n p f).escalations = s.escalations := rfl
@[simp] theorem State.modProc_cur (n p : Nat) (f : Proc → Proc) : (s.modProc n p f).cur = s.cur := rfl
@[simp] theorem State.modProc_clock (n p : Nat) (f : Proc → Proc) : (s.modProc n p f).clock = s.clock := rfl
@[simp] theorem State.modProc_fresh (n p : Nat) (f : Proc → Proc) : (s.modProc n p f).fresh = s.fresh := rfl
@[simp] theorem State.modProc_cores (n p : Nat) (f : Proc → Proc) : (s.modProc n p f).cores = s.cores := rfl
@[simp] theorem State.modProc_clusters (n p : Nat) (f : Proc → Proc) : (s.modProc n p f).clusters = s.clusters := rfl
@[simp] theorem State.modProc_hbm (n p : Nat) (f : Proc → Proc) : (s.modProc n p f).hbm = s.hbm := rfl
@[simp] theorem State.modProc_homes (n p : Nat) (f : Proc → Proc) : (s.modProc n p f).homes = s.homes := rfl
@[simp] theorem State.modProc_flags (n p : Nat) (f : Proc → Proc) : (s.modProc n p f).flags = s.flags := rfl
@[simp] theorem State.modProc_predictor (n p : Nat) (f : Proc → Proc) : (s.modProc n p f).predictor = s.predictor := rfl
@[simp] theorem State.modProc_host (n p : Nat) (f : Proc → Proc) : (s.modProc n p f).host = s.host := rfl
@[simp] theorem State.modProc_filters (n p : Nat) (f : Proc → Proc) : (s.modProc n p f).filters = s.filters := rfl
@[simp] theorem State.modProc_maps (n p : Nat) (f : Proc → Proc) : (s.modProc n p f).maps = s.maps := rfl
@[simp] theorem State.modProc_tiles (n p : Nat) (f : Proc → Proc) : (s.modProc n p f).tiles = s.tiles := rfl
@[simp] theorem State.modProc_nextTile (n p : Nat) (f : Proc → Proc) : (s.modProc n p f).nextTile = s.nextTile := rfl
@[simp] theorem State.modProc_offers (n p : Nat) (f : Proc → Proc) : (s.modProc n p f).offers = s.offers := rfl
@[simp] theorem State.modProc_nextOffer (n p : Nat) (f : Proc → Proc) : (s.modProc n p f).nextOffer = s.nextOffer := rfl
@[simp] theorem State.modProc_nextGroup (n p : Nat) (f : Proc → Proc) : (s.modProc n p f).nextGroup = s.nextGroup := rfl
@[simp] theorem State.modProc_firings (n p : Nat) (f : Proc → Proc) : (s.modProc n p f).firings = s.firings := rfl
@[simp] theorem State.modProc_nextFiring (n p : Nat) (f : Proc → Proc) : (s.modProc n p f).nextFiring = s.nextFiring := rfl
@[simp] theorem State.modProc_stamp (n p : Nat) (f : Proc → Proc) : (s.modProc n p f).stamp = s.stamp := rfl
@[simp] theorem State.modProc_regions (n p : Nat) (f : Proc → Proc) : (s.modProc n p f).regions = s.regions := rfl
@[simp] theorem State.modProc_nextRegion (n p : Nat) (f : Proc → Proc) : (s.modProc n p f).nextRegion = s.nextRegion := rfl
@[simp] theorem State.modProc_matchPtr (n p : Nat) (f : Proc → Proc) : (s.modProc n p f).matchPtr = s.matchPtr := rfl
@[simp] theorem State.modProc_refillPtr (n p : Nat) (f : Proc → Proc) : (s.modProc n p f).refillPtr = s.refillPtr := rfl
@[simp] theorem State.modProc_groups (n p : Nat) (f : Proc → Proc) : (s.modProc n p f).groups = s.groups := rfl
@[simp] theorem State.modProc_slice (n p : Nat) (f : Proc → Proc) : (s.modProc n p f).slice = s.slice := rfl
@[simp] theorem State.modProc_sliceStart (n p : Nat) (f : Proc → Proc) : (s.modProc n p f).sliceStart = s.sliceStart := rfl
@[simp] theorem State.modProc_ending (n p : Nat) (f : Proc → Proc) : (s.modProc n p f).ending = s.ending := rfl
@[simp] theorem State.modProc_duty (n p : Nat) (f : Proc → Proc) : (s.modProc n p f).duty = s.duty := rfl
@[simp] theorem State.modProc_mapResult (n p : Nat) (f : Proc → Proc) : (s.modProc n p f).mapResult = s.mapResult := rfl
@[simp] theorem State.modProc_nextRecord (n p : Nat) (f : Proc → Proc) : (s.modProc n p f).nextRecord = s.nextRecord := rfl
@[simp] theorem State.modProc_irqs (n p : Nat) (f : Proc → Proc) : (s.modProc n p f).irqs = s.irqs := rfl
@[simp] theorem State.modProc_life (n p : Nat) (f : Proc → Proc) : (s.modProc n p f).life = s.life := rfl
@[simp] theorem State.modProc_bay0 (n p : Nat) (f : Proc → Proc) : (s.modProc n p f).bay0 = s.bay0 := rfl
@[simp] theorem State.modProc_bays (n p : Nat) (f : Proc → Proc) : (s.modProc n p f).bays = s.bays := rfl
@[simp] theorem State.modProc_image (n p : Nat) (f : Proc → Proc) : (s.modProc n p f).image = s.image := rfl
@[simp] theorem State.modProc_attestations (n p : Nat) (f : Proc → Proc) : (s.modProc n p f).attestations = s.attestations := rfl
@[simp] theorem State.modProc_waveAt (n p : Nat) (f : Proc → Proc) : (s.modProc n p f).waveAt = s.waveAt := rfl
@[simp] theorem State.modProc_waveDone (n p : Nat) (f : Proc → Proc) : (s.modProc n p f).waveDone = s.waveDone := rfl
@[simp] theorem State.modProc_lastSlice (n p : Nat) (f : Proc → Proc) : (s.modProc n p f).lastSlice = s.lastSlice := rfl
@[simp] theorem State.modProc_lineage (n p : Nat) (f : Proc → Proc) : (s.modProc n p f).lineage = s.lineage := rfl
@[simp] theorem State.modProc_lostStatus (n p : Nat) (f : Proc → Proc) : (s.modProc n p f).lostStatus = s.lostStatus := rfl

/-! ## modRegion -/

@[simp] theorem State.modRegion_agenda (n : Nat) (f : Region → Region) : (s.modRegion n f).agenda = s.agenda := rfl
@[simp] theorem State.modRegion_sync (n : Nat) (f : Region → Region) : (s.modRegion n f).sync = s.sync := rfl
@[simp] theorem State.modRegion_matchAt (n : Nat) (f : Region → Region) : (s.modRegion n f).matchAt = s.matchAt := rfl
@[simp] theorem State.modRegion_lastInsert (n : Nat) (f : Region → Region) : (s.modRegion n f).lastInsert = s.lastInsert := rfl
@[simp] theorem State.modRegion_escalations (n : Nat) (f : Region → Region) : (s.modRegion n f).escalations = s.escalations := rfl
@[simp] theorem State.modRegion_cur (n : Nat) (f : Region → Region) : (s.modRegion n f).cur = s.cur := rfl
@[simp] theorem State.modRegion_clock (n : Nat) (f : Region → Region) : (s.modRegion n f).clock = s.clock := rfl
@[simp] theorem State.modRegion_fresh (n : Nat) (f : Region → Region) : (s.modRegion n f).fresh = s.fresh := rfl
@[simp] theorem State.modRegion_cores (n : Nat) (f : Region → Region) : (s.modRegion n f).cores = s.cores := rfl
@[simp] theorem State.modRegion_clusters (n : Nat) (f : Region → Region) : (s.modRegion n f).clusters = s.clusters := rfl
@[simp] theorem State.modRegion_hbm (n : Nat) (f : Region → Region) : (s.modRegion n f).hbm = s.hbm := rfl
@[simp] theorem State.modRegion_homes (n : Nat) (f : Region → Region) : (s.modRegion n f).homes = s.homes := rfl
@[simp] theorem State.modRegion_flags (n : Nat) (f : Region → Region) : (s.modRegion n f).flags = s.flags := rfl
@[simp] theorem State.modRegion_predictor (n : Nat) (f : Region → Region) : (s.modRegion n f).predictor = s.predictor := rfl
@[simp] theorem State.modRegion_host (n : Nat) (f : Region → Region) : (s.modRegion n f).host = s.host := rfl
@[simp] theorem State.modRegion_filters (n : Nat) (f : Region → Region) : (s.modRegion n f).filters = s.filters := rfl
@[simp] theorem State.modRegion_maps (n : Nat) (f : Region → Region) : (s.modRegion n f).maps = s.maps := rfl
@[simp] theorem State.modRegion_tiles (n : Nat) (f : Region → Region) : (s.modRegion n f).tiles = s.tiles := rfl
@[simp] theorem State.modRegion_nextTile (n : Nat) (f : Region → Region) : (s.modRegion n f).nextTile = s.nextTile := rfl
@[simp] theorem State.modRegion_offers (n : Nat) (f : Region → Region) : (s.modRegion n f).offers = s.offers := rfl
@[simp] theorem State.modRegion_nextOffer (n : Nat) (f : Region → Region) : (s.modRegion n f).nextOffer = s.nextOffer := rfl
@[simp] theorem State.modRegion_nextGroup (n : Nat) (f : Region → Region) : (s.modRegion n f).nextGroup = s.nextGroup := rfl
@[simp] theorem State.modRegion_firings (n : Nat) (f : Region → Region) : (s.modRegion n f).firings = s.firings := rfl
@[simp] theorem State.modRegion_nextFiring (n : Nat) (f : Region → Region) : (s.modRegion n f).nextFiring = s.nextFiring := rfl
@[simp] theorem State.modRegion_stamp (n : Nat) (f : Region → Region) : (s.modRegion n f).stamp = s.stamp := rfl
@[simp] theorem State.modRegion_nextRegion (n : Nat) (f : Region → Region) : (s.modRegion n f).nextRegion = s.nextRegion := rfl
@[simp] theorem State.modRegion_matchPtr (n : Nat) (f : Region → Region) : (s.modRegion n f).matchPtr = s.matchPtr := rfl
@[simp] theorem State.modRegion_refillPtr (n : Nat) (f : Region → Region) : (s.modRegion n f).refillPtr = s.refillPtr := rfl
@[simp] theorem State.modRegion_groups (n : Nat) (f : Region → Region) : (s.modRegion n f).groups = s.groups := rfl
@[simp] theorem State.modRegion_funcs (n : Nat) (f : Region → Region) : (s.modRegion n f).funcs = s.funcs := rfl
@[simp] theorem State.modRegion_slice (n : Nat) (f : Region → Region) : (s.modRegion n f).slice = s.slice := rfl
@[simp] theorem State.modRegion_sliceStart (n : Nat) (f : Region → Region) : (s.modRegion n f).sliceStart = s.sliceStart := rfl
@[simp] theorem State.modRegion_ending (n : Nat) (f : Region → Region) : (s.modRegion n f).ending = s.ending := rfl
@[simp] theorem State.modRegion_duty (n : Nat) (f : Region → Region) : (s.modRegion n f).duty = s.duty := rfl
@[simp] theorem State.modRegion_mapResult (n : Nat) (f : Region → Region) : (s.modRegion n f).mapResult = s.mapResult := rfl
@[simp] theorem State.modRegion_nextRecord (n : Nat) (f : Region → Region) : (s.modRegion n f).nextRecord = s.nextRecord := rfl
@[simp] theorem State.modRegion_irqs (n : Nat) (f : Region → Region) : (s.modRegion n f).irqs = s.irqs := rfl
@[simp] theorem State.modRegion_life (n : Nat) (f : Region → Region) : (s.modRegion n f).life = s.life := rfl
@[simp] theorem State.modRegion_bay0 (n : Nat) (f : Region → Region) : (s.modRegion n f).bay0 = s.bay0 := rfl
@[simp] theorem State.modRegion_bays (n : Nat) (f : Region → Region) : (s.modRegion n f).bays = s.bays := rfl
@[simp] theorem State.modRegion_image (n : Nat) (f : Region → Region) : (s.modRegion n f).image = s.image := rfl
@[simp] theorem State.modRegion_attestations (n : Nat) (f : Region → Region) : (s.modRegion n f).attestations = s.attestations := rfl
@[simp] theorem State.modRegion_waveAt (n : Nat) (f : Region → Region) : (s.modRegion n f).waveAt = s.waveAt := rfl
@[simp] theorem State.modRegion_waveDone (n : Nat) (f : Region → Region) : (s.modRegion n f).waveDone = s.waveDone := rfl
@[simp] theorem State.modRegion_lastSlice (n : Nat) (f : Region → Region) : (s.modRegion n f).lastSlice = s.lastSlice := rfl
@[simp] theorem State.modRegion_lineage (n : Nat) (f : Region → Region) : (s.modRegion n f).lineage = s.lineage := rfl
@[simp] theorem State.modRegion_lostStatus (n : Nat) (f : Region → Region) : (s.modRegion n f).lostStatus = s.lostStatus := rfl

/-! ## modFiring -/

@[simp] theorem State.modFiring_agenda (n : Nat) (f : Firing → Firing) : (s.modFiring n f).agenda = s.agenda := rfl
@[simp] theorem State.modFiring_sync (n : Nat) (f : Firing → Firing) : (s.modFiring n f).sync = s.sync := rfl
@[simp] theorem State.modFiring_matchAt (n : Nat) (f : Firing → Firing) : (s.modFiring n f).matchAt = s.matchAt := rfl
@[simp] theorem State.modFiring_lastInsert (n : Nat) (f : Firing → Firing) : (s.modFiring n f).lastInsert = s.lastInsert := rfl
@[simp] theorem State.modFiring_escalations (n : Nat) (f : Firing → Firing) : (s.modFiring n f).escalations = s.escalations := rfl
@[simp] theorem State.modFiring_cur (n : Nat) (f : Firing → Firing) : (s.modFiring n f).cur = s.cur := rfl
@[simp] theorem State.modFiring_clock (n : Nat) (f : Firing → Firing) : (s.modFiring n f).clock = s.clock := rfl
@[simp] theorem State.modFiring_fresh (n : Nat) (f : Firing → Firing) : (s.modFiring n f).fresh = s.fresh := rfl
@[simp] theorem State.modFiring_cores (n : Nat) (f : Firing → Firing) : (s.modFiring n f).cores = s.cores := rfl
@[simp] theorem State.modFiring_clusters (n : Nat) (f : Firing → Firing) : (s.modFiring n f).clusters = s.clusters := rfl
@[simp] theorem State.modFiring_hbm (n : Nat) (f : Firing → Firing) : (s.modFiring n f).hbm = s.hbm := rfl
@[simp] theorem State.modFiring_homes (n : Nat) (f : Firing → Firing) : (s.modFiring n f).homes = s.homes := rfl
@[simp] theorem State.modFiring_flags (n : Nat) (f : Firing → Firing) : (s.modFiring n f).flags = s.flags := rfl
@[simp] theorem State.modFiring_predictor (n : Nat) (f : Firing → Firing) : (s.modFiring n f).predictor = s.predictor := rfl
@[simp] theorem State.modFiring_host (n : Nat) (f : Firing → Firing) : (s.modFiring n f).host = s.host := rfl
@[simp] theorem State.modFiring_filters (n : Nat) (f : Firing → Firing) : (s.modFiring n f).filters = s.filters := rfl
@[simp] theorem State.modFiring_maps (n : Nat) (f : Firing → Firing) : (s.modFiring n f).maps = s.maps := rfl
@[simp] theorem State.modFiring_tiles (n : Nat) (f : Firing → Firing) : (s.modFiring n f).tiles = s.tiles := rfl
@[simp] theorem State.modFiring_nextTile (n : Nat) (f : Firing → Firing) : (s.modFiring n f).nextTile = s.nextTile := rfl
@[simp] theorem State.modFiring_offers (n : Nat) (f : Firing → Firing) : (s.modFiring n f).offers = s.offers := rfl
@[simp] theorem State.modFiring_nextOffer (n : Nat) (f : Firing → Firing) : (s.modFiring n f).nextOffer = s.nextOffer := rfl
@[simp] theorem State.modFiring_nextGroup (n : Nat) (f : Firing → Firing) : (s.modFiring n f).nextGroup = s.nextGroup := rfl
@[simp] theorem State.modFiring_nextFiring (n : Nat) (f : Firing → Firing) : (s.modFiring n f).nextFiring = s.nextFiring := rfl
@[simp] theorem State.modFiring_stamp (n : Nat) (f : Firing → Firing) : (s.modFiring n f).stamp = s.stamp := rfl
@[simp] theorem State.modFiring_regions (n : Nat) (f : Firing → Firing) : (s.modFiring n f).regions = s.regions := rfl
@[simp] theorem State.modFiring_nextRegion (n : Nat) (f : Firing → Firing) : (s.modFiring n f).nextRegion = s.nextRegion := rfl
@[simp] theorem State.modFiring_matchPtr (n : Nat) (f : Firing → Firing) : (s.modFiring n f).matchPtr = s.matchPtr := rfl
@[simp] theorem State.modFiring_refillPtr (n : Nat) (f : Firing → Firing) : (s.modFiring n f).refillPtr = s.refillPtr := rfl
@[simp] theorem State.modFiring_groups (n : Nat) (f : Firing → Firing) : (s.modFiring n f).groups = s.groups := rfl
@[simp] theorem State.modFiring_funcs (n : Nat) (f : Firing → Firing) : (s.modFiring n f).funcs = s.funcs := rfl
@[simp] theorem State.modFiring_slice (n : Nat) (f : Firing → Firing) : (s.modFiring n f).slice = s.slice := rfl
@[simp] theorem State.modFiring_sliceStart (n : Nat) (f : Firing → Firing) : (s.modFiring n f).sliceStart = s.sliceStart := rfl
@[simp] theorem State.modFiring_ending (n : Nat) (f : Firing → Firing) : (s.modFiring n f).ending = s.ending := rfl
@[simp] theorem State.modFiring_duty (n : Nat) (f : Firing → Firing) : (s.modFiring n f).duty = s.duty := rfl
@[simp] theorem State.modFiring_mapResult (n : Nat) (f : Firing → Firing) : (s.modFiring n f).mapResult = s.mapResult := rfl
@[simp] theorem State.modFiring_nextRecord (n : Nat) (f : Firing → Firing) : (s.modFiring n f).nextRecord = s.nextRecord := rfl
@[simp] theorem State.modFiring_irqs (n : Nat) (f : Firing → Firing) : (s.modFiring n f).irqs = s.irqs := rfl
@[simp] theorem State.modFiring_life (n : Nat) (f : Firing → Firing) : (s.modFiring n f).life = s.life := rfl
@[simp] theorem State.modFiring_bay0 (n : Nat) (f : Firing → Firing) : (s.modFiring n f).bay0 = s.bay0 := rfl
@[simp] theorem State.modFiring_bays (n : Nat) (f : Firing → Firing) : (s.modFiring n f).bays = s.bays := rfl
@[simp] theorem State.modFiring_image (n : Nat) (f : Firing → Firing) : (s.modFiring n f).image = s.image := rfl
@[simp] theorem State.modFiring_attestations (n : Nat) (f : Firing → Firing) : (s.modFiring n f).attestations = s.attestations := rfl
@[simp] theorem State.modFiring_waveAt (n : Nat) (f : Firing → Firing) : (s.modFiring n f).waveAt = s.waveAt := rfl
@[simp] theorem State.modFiring_waveDone (n : Nat) (f : Firing → Firing) : (s.modFiring n f).waveDone = s.waveDone := rfl
@[simp] theorem State.modFiring_lastSlice (n : Nat) (f : Firing → Firing) : (s.modFiring n f).lastSlice = s.lastSlice := rfl
@[simp] theorem State.modFiring_lineage (n : Nat) (f : Firing → Firing) : (s.modFiring n f).lineage = s.lineage := rfl
@[simp] theorem State.modFiring_lostStatus (n : Nat) (f : Firing → Firing) : (s.modFiring n f).lostStatus = s.lostStatus := rfl

/-! ## tick -/

@[simp] theorem State.tick_agenda : s.tick.agenda = s.agenda := rfl
@[simp] theorem State.tick_sync : s.tick.sync = s.sync := rfl
@[simp] theorem State.tick_matchAt : s.tick.matchAt = s.matchAt := rfl
@[simp] theorem State.tick_lastInsert : s.tick.lastInsert = s.lastInsert := rfl
@[simp] theorem State.tick_escalations : s.tick.escalations = s.escalations := rfl
@[simp] theorem State.tick_cur : s.tick.cur = s.cur := rfl
@[simp] theorem State.tick_clock : s.tick.clock = s.clock := rfl
@[simp] theorem State.tick_cores : s.tick.cores = s.cores := rfl
@[simp] theorem State.tick_clusters : s.tick.clusters = s.clusters := rfl
@[simp] theorem State.tick_hbm : s.tick.hbm = s.hbm := rfl
@[simp] theorem State.tick_homes : s.tick.homes = s.homes := rfl
@[simp] theorem State.tick_flags : s.tick.flags = s.flags := rfl
@[simp] theorem State.tick_predictor : s.tick.predictor = s.predictor := rfl
@[simp] theorem State.tick_host : s.tick.host = s.host := rfl
@[simp] theorem State.tick_filters : s.tick.filters = s.filters := rfl
@[simp] theorem State.tick_maps : s.tick.maps = s.maps := rfl
@[simp] theorem State.tick_tiles : s.tick.tiles = s.tiles := rfl
@[simp] theorem State.tick_nextTile : s.tick.nextTile = s.nextTile := rfl
@[simp] theorem State.tick_offers : s.tick.offers = s.offers := rfl
@[simp] theorem State.tick_nextOffer : s.tick.nextOffer = s.nextOffer := rfl
@[simp] theorem State.tick_nextGroup : s.tick.nextGroup = s.nextGroup := rfl
@[simp] theorem State.tick_firings : s.tick.firings = s.firings := rfl
@[simp] theorem State.tick_nextFiring : s.tick.nextFiring = s.nextFiring := rfl
@[simp] theorem State.tick_stamp : s.tick.stamp = s.stamp := rfl
@[simp] theorem State.tick_regions : s.tick.regions = s.regions := rfl
@[simp] theorem State.tick_nextRegion : s.tick.nextRegion = s.nextRegion := rfl
@[simp] theorem State.tick_matchPtr : s.tick.matchPtr = s.matchPtr := rfl
@[simp] theorem State.tick_refillPtr : s.tick.refillPtr = s.refillPtr := rfl
@[simp] theorem State.tick_groups : s.tick.groups = s.groups := rfl
@[simp] theorem State.tick_funcs : s.tick.funcs = s.funcs := rfl
@[simp] theorem State.tick_slice : s.tick.slice = s.slice := rfl
@[simp] theorem State.tick_sliceStart : s.tick.sliceStart = s.sliceStart := rfl
@[simp] theorem State.tick_ending : s.tick.ending = s.ending := rfl
@[simp] theorem State.tick_duty : s.tick.duty = s.duty := rfl
@[simp] theorem State.tick_mapResult : s.tick.mapResult = s.mapResult := rfl
@[simp] theorem State.tick_nextRecord : s.tick.nextRecord = s.nextRecord := rfl
@[simp] theorem State.tick_irqs : s.tick.irqs = s.irqs := rfl
@[simp] theorem State.tick_life : s.tick.life = s.life := rfl
@[simp] theorem State.tick_bay0 : s.tick.bay0 = s.bay0 := rfl
@[simp] theorem State.tick_bays : s.tick.bays = s.bays := rfl
@[simp] theorem State.tick_image : s.tick.image = s.image := rfl
@[simp] theorem State.tick_attestations : s.tick.attestations = s.attestations := rfl
@[simp] theorem State.tick_waveAt : s.tick.waveAt = s.waveAt := rfl
@[simp] theorem State.tick_waveDone : s.tick.waveDone = s.waveDone := rfl
@[simp] theorem State.tick_lastSlice : s.tick.lastSlice = s.lastSlice := rfl
@[simp] theorem State.tick_lineage : s.tick.lineage = s.lineage := rfl
@[simp] theorem State.tick_lostStatus : s.tick.lostStatus = s.lostStatus := rfl
@[simp] theorem State.tick_fresh : s.tick.fresh = s.fresh + 1 := rfl

/-! ## Records -/

@[simp] theorem State.core_setCore_same (k : Nat) (c : Core) : (s.setCore k c).core k = c := tget_tset_same ..
theorem State.core_setCore_other {k j : Nat} (c : Core) (h : j ≠ k) : (s.setCore k c).core j = s.core j := tget_tset_other _ _ _ h
@[simp] theorem State.core_modCore_same (k : Nat) (f : Core → Core) : (s.modCore k f).core k = f (s.core k) := tget_tset_same ..
theorem State.core_modCore_other {k j : Nat} (f : Core → Core) (h : j ≠ k) : (s.modCore k f).core j = s.core j :=
  tget_tset_other _ _ _ h
@[simp] theorem State.setCore_setCore (k : Nat) (c d : Core) : (s.setCore k c).setCore k d = s.setCore k d := by simp [State.setCore]
theorem State.modCore_eq (k : Nat) (f : Core → Core) : s.modCore k f = s.setCore k (f (s.core k)) := rfl
@[simp] theorem State.modCore_setCore (k : Nat) (c : Core) (f : Core → Core) : (s.setCore k c).modCore k f = s.setCore k (f c) := by
  simp [State.modCore]
@[simp] theorem State.modCore_modCore (k : Nat) (f g : Core → Core) : (s.modCore k f).modCore k g = s.modCore k (fun c => g (f c)) := by
  simp [State.modCore]
@[simp] theorem State.core_setCluster (n k : Nat) (c : Cluster) : (s.setCluster n c).core k = s.core k := rfl
@[simp] theorem State.core_modCluster (n k : Nat) (f : Cluster → Cluster) : (s.modCluster n f).core k = s.core k := rfl
@[simp] theorem State.core_modCell (n ce k : Nat) (f : Cell → Cell) : (s.modCell n ce f).core k = s.core k := rfl
@[simp] theorem State.core_modFunc (n k : Nat) (f : Func → Func) : (s.modFunc n f).core k = s.core k := rfl
@[simp] theorem State.core_modRegion (n k : Nat) (f : Region → Region) : (s.modRegion n f).core k = s.core k := rfl
@[simp] theorem State.core_modFiring (n k : Nat) (f : Firing → Firing) : (s.modFiring n f).core k = s.core k := rfl
@[simp] theorem State.core_tick (k : Nat) : s.tick.core k = s.core k := rfl
@[simp] theorem State.cluster_setCore (k n : Nat) (c : Core) : (s.setCore k c).cluster n = s.cluster n := rfl
@[simp] theorem State.cluster_modCore (k n : Nat) (f : Core → Core) : (s.modCore k f).cluster n = s.cluster n := rfl
@[simp] theorem State.cluster_modFunc (n k : Nat) (f : Func → Func) : (s.modFunc n f).cluster k = s.cluster k := rfl
@[simp] theorem State.cluster_modRegion (n k : Nat) (f : Region → Region) : (s.modRegion n f).cluster k = s.cluster k := rfl
@[simp] theorem State.cluster_modFiring (n k : Nat) (f : Firing → Firing) : (s.modFiring n f).cluster k = s.cluster k := rfl
@[simp] theorem State.cluster_tick (n : Nat) : s.tick.cluster n = s.cluster n := rfl
@[simp] theorem State.cluster_setCluster_same (n : Nat) (c : Cluster) : (s.setCluster n c).cluster n = c := tget_tset_same ..
theorem State.cluster_setCluster_other {n m : Nat} (c : Cluster) (h : m ≠ n) : (s.setCluster n c).cluster m = s.cluster m :=
  tget_tset_other _ _ _ h
@[simp] theorem State.cluster_modCluster_same (n : Nat) (f : Cluster → Cluster) : (s.modCluster n f).cluster n = f (s.cluster n) :=
  tget_tset_same ..
theorem State.cluster_modCluster_other {n m : Nat} (f : Cluster → Cluster) (h : m ≠ n) : (s.modCluster n f).cluster m = s.cluster m :=
  tget_tset_other _ _ _ h
@[simp] theorem State.modCluster_modCluster (n : Nat) (f g : Cluster → Cluster) :
    (s.modCluster n f).modCluster n g = s.modCluster n (fun c => g (f c)) := by
  simp [State.modCluster, State.setCluster, State.cluster]
@[simp] theorem State.func_setCore (k n : Nat) (c : Core) : (s.setCore k c).func n = s.func n := rfl
@[simp] theorem State.func_modCore (k n : Nat) (f : Core → Core) : (s.modCore k f).func n = s.func n := rfl
@[simp] theorem State.func_modFunc_same (n : Nat) (f : Func → Func) : (s.modFunc n f).func n = f (s.func n) := tget_tset_same ..
theorem State.func_modFunc_other {n m : Nat} (f : Func → Func) (h : m ≠ n) : (s.modFunc n f).func m = s.func m := tget_tset_other _ _ _ h
@[simp] theorem State.region?_setCore (k r : Nat) (c : Core) : (s.setCore k c).region? r = s.region? r := rfl
@[simp] theorem State.region?_modCore (k r : Nat) (f : Core → Core) : (s.modCore k f).region? r = s.region? r := rfl
@[simp] theorem State.firing?_setCore (k f : Nat) (c : Core) : (s.setCore k c).firing? f = s.firing? f := rfl
@[simp] theorem State.firing?_modCore (k n : Nat) (f : Core → Core) : (s.modCore k f).firing? n = s.firing? n := rfl
@[simp] theorem State.me_setCore (c : Core) : (s.setCore s.cur c).me = c := tget_tset_same ..
theorem State.me_eq : s.me = s.core s.cur := rfl

/-- A change of core `k` that keeps what it runs leaves its firing. -/
theorem State.firingOf_setCore {k j : Nat} {c : Core} (h : c.run = (s.core k).run) : (s.setCore k c).firingOf j = s.firingOf j := by
  have hf : (s.setCore k c).firing? = s.firing? := rfl
  by_cases e : j = k
  · subst e; simp [State.firingOf, h, hf]
  · simp [State.firingOf, s.core_setCore_other c e, hf]

/-- The same of its region. -/
theorem State.regionOf_setCore {k j : Nat} {c : Core} (h : c.run = (s.core k).run) : (s.setCore k c).regionOf j = s.regionOf j := by
  simp only [State.regionOf, s.firingOf_setCore h, State.region?_setCore]

/-! ## Workspace registers and predicates (R123, R125) -/

@[simp] theorem Core.reg_zero (c : Core) : c.reg 0 = 0 := rfl
@[simp] theorem Core.setReg_zero (c : Core) (v : Word) : c.setReg 0 v = c := rfl
@[simp] theorem Core.pred_zero (c : Core) : c.pred 0 = true := rfl
@[simp] theorem Core.setPred_zero (c : Core) (b : Bool) : c.setPred 0 b = c := rfl
@[simp] theorem Core.seen_zero (c : Core) : c.seen 0 = 0 := rfl
@[simp] theorem Core.seenP_zero (c : Core) : c.seenP 0 = true := rfl

/-! ## The begin and the end of an instruction -/

@[simp] theorem Core.begin_arr (c : Core) (n : Nat) : (c.begin n).arr = c.arr := rfl
@[simp] theorem Core.begin_spN (c : Core) (n : Nat) : (c.begin n).spN = c.spN := rfl
@[simp] theorem Core.begin_preds (c : Core) (n : Nat) : (c.begin n).preds = c.preds := rfl
@[simp] theorem Core.begin_cr (c : Core) (n : Nat) : (c.begin n).cr = c.cr := rfl
@[simp] theorem Core.begin_ient (c : Core) (n : Nat) : (c.begin n).ient = c.ient := rfl
@[simp] theorem Core.begin_imask (c : Core) (n : Nat) : (c.begin n).imask = c.imask := rfl
@[simp] theorem Core.begin_ipc (c : Core) (n : Nat) : (c.begin n).ipc = c.ipc := rfl
@[simp] theorem Core.begin_pcnt (c : Core) (n : Nat) : (c.begin n).pcnt = c.pcnt := rfl
@[simp] theorem Core.begin_entry (c : Core) (n : Nat) : (c.begin n).entry = c.entry := rfl
@[simp] theorem Core.begin_noDiscard (c : Core) (n : Nat) : (c.begin n).noDiscard = c.noDiscard := rfl
@[simp] theorem Core.begin_waitOpen (c : Core) (n : Nat) : (c.begin n).waitOpen = c.waitOpen := rfl
@[simp] theorem Core.begin_outers (c : Core) (n : Nat) : (c.begin n).outers = c.outers := rfl
@[simp] theorem Core.begin_mtx (c : Core) (n : Nat) : (c.begin n).mtx = c.mtx := rfl
@[simp] theorem Core.begin_ahead (c : Core) (n : Nat) : (c.begin n).ahead = c.ahead := rfl
@[simp] theorem Core.begin_qwait (c : Core) (n : Nat) : (c.begin n).qwait = c.qwait := rfl
@[simp] theorem Core.begin_outerCtx (c : Core) (n : Nat) : (c.begin n).outerCtx = c.outerCtx := rfl
@[simp] theorem Core.begin_passed (c : Core) (n : Nat) : (c.begin n).passed = c.passed := rfl
@[simp] theorem Core.begin_req (c : Core) (n : Nat) : (c.begin n).req = c.req := rfl
@[simp] theorem Core.begin_grant (c : Core) (n : Nat) : (c.begin n).grant = c.grant := rfl
@[simp] theorem Core.begin_lane (c : Core) (n : Nat) : (c.begin n).lane = c.lane := rfl
@[simp] theorem Core.begin_vregs (c : Core) (n : Nat) : (c.begin n).vregs = c.vregs := rfl
@[simp] theorem Core.begin_masks (c : Core) (n : Nat) : (c.begin n).masks = c.masks := rfl
@[simp] theorem Core.begin_vtags (c : Core) (n : Nat) : (c.begin n).vtags = c.vtags := rfl
@[simp] theorem Core.begin_atags (c : Core) (n : Nat) : (c.begin n).atags = c.atags := rfl
@[simp] theorem Core.begin_gens (c : Core) (n : Nat) : (c.begin n).gens = c.gens := rfl
@[simp] theorem Core.begin_evs (c : Core) (n : Nat) : (c.begin n).evs = c.evs := rfl
@[simp] theorem Core.begin_bmask (c : Core) (n : Nat) : (c.begin n).bmask = c.bmask := rfl
@[simp] theorem Core.begin_chans (c : Core) (n : Nat) : (c.begin n).chans = c.chans := rfl
@[simp] theorem Core.begin_l1 (c : Core) (n : Nat) : (c.begin n).l1 = c.l1 := rfl
@[simp] theorem Core.begin_uoOld (c : Core) (n : Nat) : (c.begin n).uoOld = c.uoOld := rfl
@[simp] theorem Core.begin_tlb (c : Core) (n : Nat) : (c.begin n).tlb = c.tlb := rfl
@[simp] theorem Core.begin_hide (c : Core) (n : Nat) : (c.begin n).hide = c.hide := rfl
@[simp] theorem Core.begin_cycle (c : Core) (n : Nat) : (c.begin n).cycle = c.cycle := rfl
@[simp] theorem Core.begin_pend (c : Core) (n : Nat) : (c.begin n).pend = c.pend := rfl
@[simp] theorem Core.begin_vpend (c : Core) (n : Nat) : (c.begin n).vpend = c.vpend := rfl
@[simp] theorem Core.begin_run (c : Core) (n : Nat) : (c.begin n).run = c.run := rfl
@[simp] theorem Core.begin_waitFrom (c : Core) (n : Nat) : (c.begin n).waitFrom = c.waitFrom := rfl
@[simp] theorem Core.begin_waitOver (c : Core) (n : Nat) : (c.begin n).waitOver = c.waitOver := rfl
@[simp] theorem Core.begin_packet (c : Core) (n : Nat) : (c.begin n).packet = c.packet := rfl
@[simp] theorem Core.begin_packetStop (c : Core) (n : Nat) : (c.begin n).packetStop = c.packetStop := rfl
@[simp] theorem Core.begin_poisonAt (c : Core) (n : Nat) : (c.begin n).poisonAt = c.poisonAt := rfl
@[simp] theorem Core.begin_preempt (c : Core) (n : Nat) : (c.begin n).preempt = c.preempt := rfl
@[simp] theorem Core.begin_stopped (c : Core) (n : Nat) : (c.begin n).stopped = c.stopped := rfl
@[simp] theorem Core.begin_budget (c : Core) (n : Nat) : (c.begin n).budget = c.budget := rfl
@[simp] theorem Core.begin_resumeNote (c : Core) (n : Nat) : (c.begin n).resumeNote = c.resumeNote := rfl
@[simp] theorem Core.begin_mchk (c : Core) (n : Nat) : (c.begin n).mchk = c.mchk := rfl
@[simp] theorem Core.begin_sfuLost (c : Core) (n : Nat) : (c.begin n).sfuLost = c.sfuLost := rfl
@[simp] theorem Core.begin_undo (c : Core) (n : Nat) : (c.begin n).undo = c.undo := rfl
@[simp] theorem Core.begin_committing (c : Core) (n : Nat) : (c.begin n).committing = c.committing := rfl
@[simp] theorem Core.begin_waitRecord (c : Core) (n : Nat) : (c.begin n).waitRecord = c.waitRecord := rfl
@[simp] theorem Core.begin_waitVa (c : Core) (n : Nat) : (c.begin n).waitVa = c.waitVa := rfl
@[simp] theorem Core.begin_deliver (c : Core) (n : Nat) : (c.begin n).deliver = c.deliver := rfl
@[simp] theorem Core.begin_pc (c : Core) (n : Nat) : (c.begin n).pc = c.pc + BitVec.ofNat 53 n := rfl
@[simp] theorem Core.begin_empty (c : Core) (n : Nat) : (c.begin n).empty = false := rfl
@[simp] theorem Core.retired_arr (c : Core) (t : BitVec 2) : (c.retired t).arr = c.arr := rfl
@[simp] theorem Core.retired_spN (c : Core) (t : BitVec 2) : (c.retired t).spN = c.spN := rfl
@[simp] theorem Core.retired_preds (c : Core) (t : BitVec 2) : (c.retired t).preds = c.preds := rfl
@[simp] theorem Core.retired_pc (c : Core) (t : BitVec 2) : (c.retired t).pc = c.pc := rfl
@[simp] theorem Core.retired_cr (c : Core) (t : BitVec 2) : (c.retired t).cr = c.cr := rfl
@[simp] theorem Core.retired_ient (c : Core) (t : BitVec 2) : (c.retired t).ient = c.ient := rfl
@[simp] theorem Core.retired_imask (c : Core) (t : BitVec 2) : (c.retired t).imask = c.imask := rfl
@[simp] theorem Core.retired_ipc (c : Core) (t : BitVec 2) : (c.retired t).ipc = c.ipc := rfl
@[simp] theorem Core.retired_pcnt (c : Core) (t : BitVec 2) : (c.retired t).pcnt = c.pcnt := rfl
@[simp] theorem Core.retired_entry (c : Core) (t : BitVec 2) : (c.retired t).entry = c.entry := rfl
@[simp] theorem Core.retired_noDiscard (c : Core) (t : BitVec 2) : (c.retired t).noDiscard = c.noDiscard := rfl
@[simp] theorem Core.retired_waitOpen (c : Core) (t : BitVec 2) : (c.retired t).waitOpen = c.waitOpen := rfl
@[simp] theorem Core.retired_empty (c : Core) (t : BitVec 2) : (c.retired t).empty = c.empty := rfl
@[simp] theorem Core.retired_outers (c : Core) (t : BitVec 2) : (c.retired t).outers = c.outers := rfl
@[simp] theorem Core.retired_mtx (c : Core) (t : BitVec 2) : (c.retired t).mtx = c.mtx := rfl
@[simp] theorem Core.retired_ahead (c : Core) (t : BitVec 2) : (c.retired t).ahead = c.ahead := rfl
@[simp] theorem Core.retired_qwait (c : Core) (t : BitVec 2) : (c.retired t).qwait = none := rfl
@[simp] theorem Core.retired_outerCtx (c : Core) (t : BitVec 2) : (c.retired t).outerCtx = c.outerCtx := rfl
@[simp] theorem Core.retired_passed (c : Core) (t : BitVec 2) : (c.retired t).passed = c.passed := rfl
@[simp] theorem Core.retired_req (c : Core) (t : BitVec 2) : (c.retired t).req = c.req := rfl
@[simp] theorem Core.retired_grant (c : Core) (t : BitVec 2) : (c.retired t).grant = c.grant := rfl
@[simp] theorem Core.retired_lane (c : Core) (t : BitVec 2) : (c.retired t).lane = c.lane := rfl
@[simp] theorem Core.retired_vregs (c : Core) (t : BitVec 2) : (c.retired t).vregs = c.vregs := rfl
@[simp] theorem Core.retired_masks (c : Core) (t : BitVec 2) : (c.retired t).masks = c.masks := rfl
@[simp] theorem Core.retired_vtags (c : Core) (t : BitVec 2) : (c.retired t).vtags = c.vtags := rfl
@[simp] theorem Core.retired_atags (c : Core) (t : BitVec 2) : (c.retired t).atags = c.atags := rfl
@[simp] theorem Core.retired_gens (c : Core) (t : BitVec 2) : (c.retired t).gens = c.gens := rfl
@[simp] theorem Core.retired_evs (c : Core) (t : BitVec 2) : (c.retired t).evs = c.evs := rfl
@[simp] theorem Core.retired_bmask (c : Core) (t : BitVec 2) : (c.retired t).bmask = c.bmask := rfl
@[simp] theorem Core.retired_chans (c : Core) (t : BitVec 2) : (c.retired t).chans = c.chans := rfl
@[simp] theorem Core.retired_l1 (c : Core) (t : BitVec 2) : (c.retired t).l1 = c.l1 := rfl
@[simp] theorem Core.retired_uoOld (c : Core) (t : BitVec 2) : (c.retired t).uoOld = c.uoOld := rfl
@[simp] theorem Core.retired_tlb (c : Core) (t : BitVec 2) : (c.retired t).tlb = c.tlb := rfl
@[simp] theorem Core.retired_hide (c : Core) (t : BitVec 2) : (c.retired t).hide = c.hide := rfl
@[simp] theorem Core.retired_pend (c : Core) (t : BitVec 2) : (c.retired t).pend = c.pend := rfl
@[simp] theorem Core.retired_vpend (c : Core) (t : BitVec 2) : (c.retired t).vpend = c.vpend := rfl
@[simp] theorem Core.retired_run (c : Core) (t : BitVec 2) : (c.retired t).run = c.run := rfl
@[simp] theorem Core.retired_packet (c : Core) (t : BitVec 2) : (c.retired t).packet = c.packet := rfl
@[simp] theorem Core.retired_packetStop (c : Core) (t : BitVec 2) : (c.retired t).packetStop = c.packetStop := rfl
@[simp] theorem Core.retired_poisonAt (c : Core) (t : BitVec 2) : (c.retired t).poisonAt = c.poisonAt := rfl
@[simp] theorem Core.retired_preempt (c : Core) (t : BitVec 2) : (c.retired t).preempt = c.preempt := rfl
@[simp] theorem Core.retired_stopped (c : Core) (t : BitVec 2) : (c.retired t).stopped = c.stopped := rfl
@[simp] theorem Core.retired_budget (c : Core) (t : BitVec 2) : (c.retired t).budget = c.budget := rfl
@[simp] theorem Core.retired_resumeNote (c : Core) (t : BitVec 2) : (c.retired t).resumeNote = c.resumeNote := rfl
@[simp] theorem Core.retired_mchk (c : Core) (t : BitVec 2) : (c.retired t).mchk = c.mchk := rfl
@[simp] theorem Core.retired_sfuLost (c : Core) (t : BitVec 2) : (c.retired t).sfuLost = c.sfuLost := rfl
@[simp] theorem Core.retired_undo (c : Core) (t : BitVec 2) : (c.retired t).undo = c.undo := rfl
@[simp] theorem Core.retired_committing (c : Core) (t : BitVec 2) : (c.retired t).committing = c.committing := rfl
@[simp] theorem Core.retired_waitVa (c : Core) (t : BitVec 2) : (c.retired t).waitVa = c.waitVa := rfl
@[simp] theorem Core.retired_deliver (c : Core) (t : BitVec 2) : (c.retired t).deliver = c.deliver := rfl

end Sys2Proof.Machine
end

