-- ==== Sys2Proof/Laws/Flow.lean ====
section
/-! SUPPORT. How an instruction's body runs: the laws of `M`, readiness, operands, results and the end of an instruction for a
core on which nothing is outstanding. -/

namespace Sys2Proof.Machine

/-! ## The laws of M -/

theorem M.bind_run {α β : Type} (x : M α) (f : α → M β) (s : State) :
    (x >>= f) s = match x s with | .ok (a, t) => f a t | .error e => .error e := by
  simp only [bind, StateT.bind, Except.bind]
  cases x s with
  | error e => rfl
  | ok p => cases p; rfl

@[simp] theorem M.pure_run {α : Type} (a : α) (s : State) : (pure a : M α) s = .ok (a, s) := rfl
@[simp] theorem M.get_run (s : State) : (get : M State) s = .ok (s, s) := rfl
@[simp] theorem M.set_run (t s : State) : (set t : M Unit) s = .ok ((), t) := rfl
@[simp] theorem M.modify_run (f : State → State) (s : State) : (modify f : M Unit) s = .ok ((), f s) := rfl
@[simp] theorem M.throw_run {α : Type} (e : Stop) (s : State) : (throw e : M α) s = .error e := rfl
@[simp] theorem M.getC_run (s : State) : getC s = .ok (s.me, s) := rfl
@[simp] theorem M.modC_run (f : Core → Core) (s : State) : modC f s = .ok ((), s.modCore s.cur f) := rfl
@[simp] theorem M.curK_run (s : State) : curK s = .ok (s.cur, s) := rfl
@[simp] theorem M.trap_run {α : Type} (c : Nat) (v : Word) (s : State) : (trap c v : M α) s = .error (.trap c v) := rfl
@[simp] theorem M.freshM_run (s : State) : freshM s = .ok (s.fresh, s.tick) := rfl
theorem M.need_run (b : Bool) (c : Nat) (v : Word) (s : State) :
    need b c v s = if b then .ok ((), s) else .error (.trap c v) := by cases b <;> rfl
@[simp] theorem M.need_true (c : Nat) (v : Word) (s : State) : need true c v s = .ok ((), s) := rfl
@[simp] theorem M.need_false (c : Nat) (v : Word) (s : State) : need false c v s = .error (.trap c v) := rfl

/-! ## Readiness -/

/-- No request of the SFU is waited for. -/
theorem Quiet.sfuPending {s : State} (h : Quiet s) (c : Core) (l : Loc) : (s.setCore s.cur c).sfuPending s.cur l = false := by
  cases l with
  | p n => rfl
  | m n => rfl
  | g n => rfl
  | w off =>
    simp only [State.sfuPending, State.cluster_setCore, List.any_eq_false, Bool.and_eq_true, beq_iff_eq, not_and]
    exact fun r hr hc => absurd hc (h.sfu r hr)
  | v n =>
    simp only [State.sfuPending, State.cluster_setCore, List.any_eq_false, Bool.and_eq_true, beq_iff_eq, not_and]
    exact fun r hr hc => absurd hc (h.sfu r hr)

theorem Core.sfuLostAt_nil {c : Core} (h : c.sfuLost = []) (l : Loc) : c.sfuLostAt l = none := by
  cases l <;> simp [Core.sfuLostAt, h, tfind]

theorem Core.slow_quiet {c : Core} (hp : c.pend = []) (hv : c.vpend = []) (r w : List Loc) : c.slow r w = false := by
  simp [Core.slow, hp, hv]

theorem Core.waits_quiet {c : Core} (hp : c.pend = []) (hv : c.vpend = []) (free : Nat) (r w : List Loc) : c.waits free r w = c := by
  obtain ⟨⟩ := c
  simp only at hp hv
  subst hp; subst hv
  simp [Core.waits, Core.slow]

theorem Core.late_quiet {c : Core} (hp : c.pend = []) (l : Loc) : c.late l = none := by simp [Core.late, hp]

/-- With nothing outstanding, readiness changes nothing (R131, R132). -/
theorem readyLocsM_quiet {s : State} (h : Quiet s) {c : Core} (hp : c.pend = []) (hv : c.vpend = []) (hl : c.sfuLost = [])
    (reads writes : List Loc) : readyLocsM reads writes (s.setCore s.cur c) = .ok ((), s.setCore s.cur c) := by
  have e2 : ∀ l : List Loc, l.findSome? c.sfuLostAt = none := fun l => by
    rw [List.findSome?_eq_none_iff]; exact fun x _ => Core.sfuLostAt_nil hl x
  have e3 := Core.slow_quiet hp hv
  have e4 : ∀ l : List Loc, l.find? (fun l => (c.late l).isSome) = none := fun l => by simp [Core.late_quiet hp]
  have e1 : ∀ l : List Loc, l.any ((s.setCore s.cur c).sfuPending s.cur) = false := fun l => by
    rw [List.any_eq_false]; exact fun x _ => by simp [h.sfuPending c x]
  have hm : (s.setCore s.cur c).me = c := s.me_setCore c
  unfold readyLocsM
  simp only [M.bind_run, M.get_run, hm, State.setCore_cur, e1, e2, e3, Bool.false_eq_true, if_false, M.set_run,
    M.modC_run, State.modCore_setCore, Core.waits_quiet hp hv, M.getC_run, e4]
  split <;> rfl

theorem readyM_quiet {s : State} (h : Quiet s) {c : Core} (hp : c.pend = []) (hv : c.vpend = []) (hl : c.sfuLost = [])
    (rs : List (BitVec 5)) (ps : List (BitVec 3)) (wd : List (BitVec 5)) (pd : List (BitVec 3)) :
    readyM rs ps wd pd (s.setCore s.cur c) = .ok ((), s.setCore s.cur c) := by
  simp only [readyM, M.bind_run, M.getC_run]
  exact readyLocsM_quiet h hp hv hl _ _

/-! ## Operands and results -/

theorem Core.seen_quiet {c : Core} (hp : c.pend = []) (n : Nat) : c.seen n = c.reg n := by
  by_cases h : n = 0
  · subst h; rfl
  · simp [Core.seen, h, Core.late_quiet hp]

theorem Core.seenP_quiet {c : Core} (hp : c.pend = []) (n : Nat) : c.seenP n = c.pred n := by
  by_cases h : n = 0
  · subst h; rfl
  · simp [Core.seenP, h, Core.late_quiet hp]

/-- A register that no stream is bound to, as a source (R132). -/
theorem src_plain {s : State} {r : BitVec 5} (h : s.me.boundTo r.toNat = none) : src r s = .ok (s.me.seen r.toNat, s) := by
  simp [src, M.bind_run, h]

@[simp] theorem srcP_run (p : BitVec 3) (s : State) : srcP p s = .ok (s.me.seenP p.toNat, s) := rfl

/-- A result written to a register that may be written (R131, R219). -/
theorem putWith_plain {s : State} {r : BitVec 5} (chk : Bool) (v : Word) (lat : Nat) (h : s.mayWrite r) :
    putWith chk r v lat s = .ok ((), s.modCore s.cur fun c => c.putReg r.toNat v lat) := by
  obtain ⟨h1, h2⟩ := h
  have h1 : s.me.boundTo r.toNat = none := h1
  have h3 : (chk && s.me.idemOn && s.me.imask.getLsbD r.toNat) = false := by
    cases chk <;> cases hi : s.me.idemOn <;> cases hm : s.me.imask.getLsbD r.toNat <;> simp_all
  simp only [putWith, M.bind_run, M.getC_run, h1, h3, Bool.not_false, M.need_true, M.modC_run]

theorem put_plain {s : State} {r : BitVec 5} (v : Word) (lat : Nat) (h : s.mayWrite r) :
    put r v lat s = .ok ((), s.modCore s.cur fun c => c.putReg r.toNat v lat) := putWith_plain true v lat h

@[simp] theorem putP_run (p : BitVec 3) (b : Bool) (lat : Nat) (s : State) :
    putP p b lat s = .ok ((), s.modCore s.cur fun c => c.putPred p.toNat b lat) := rfl

/-- What a register holds after a result was written to another, or to it. -/
theorem Core.reg_setReg_same (c : Core) {n : Nat} (h : n ≠ 0) (v : Word) : (c.setReg n v).arr = c.arr.setWord (c.regOff n) v := by
  simp [Core.setReg, h]

/-! ## The end of an instruction -/

/-- An instruction whose body completes. -/
theorem issue_ok {len : Nat} {stl : BitVec 2} {body : M Unit} {s t : State} {u : Unit} (h : body (s.at len) = .ok (u, t)) :
    issue len stl body s = .next (t.modCore s.cur fun c => c.retired stl) := by
  have h' : body (s.setCore s.cur ((s.core s.cur).begin len)) = .ok (u, t) := h
  simp only [issue, h']

/-- An instruction whose body traps changes nothing before the trap (R137, R157). -/
theorem issue_trap {len : Nat} {stl : BitVec 2} {body : M Unit} {s : State} {c : Nat} {v : Word}
    (h : body (s.at len) = .error (.trap c v)) : issue len stl body s = .next (s.takeTrap s.cur c v) := by
  have h' : body (s.setCore s.cur ((s.core s.cur).begin len)) = .error (.trap c v) := h
  simp only [issue, h']

/-- An instruction that ends what the core was doing. -/
theorem issue_fin {len : Nat} {stl : BitVec 2} {body : M Unit} {s t : State} (h : body (s.at len) = .error (.fin t)) :
    issue len stl body s = .next t := by
  have h' : body (s.setCore s.cur ((s.core s.cur).begin len)) = .error (.fin t) := h
  simp only [issue, h']

/-- A core on which nothing is on its way waits at issue and nothing changes (R131). -/
theorem State.stalled_quiet {s : State} {k : Nat} (h : (s.core k).pend = []) : s.stalled k = s := by
  simp [State.stalled, h]

/-- An instruction that does not issue yet. -/
theorem issue_stall {len : Nat} {stl : BitVec 2} {body : M Unit} {s : State} (h : body (s.at len) = .error .stall) :
    issue len stl body s = .next (s.stalled s.cur) := by
  have h' : body (s.setCore s.cur ((s.core s.cur).begin len)) = .error .stall := h
  simp only [issue, h']

theorem State.at_eq (s : State) (len : Nat) : s.at len = s.setCore s.cur (s.me.begin len) := rfl

/-- An instruction whose whole effect is on its own core. -/
theorem issue_after {len : Nat} {stl : BitVec 2} {body : M Unit} {s : State} {u : Unit} {f : Core → Core}
    (h : body (s.at len) = .ok (u, s.setCore s.cur (f (s.me.begin len)))) :
    issue len stl body s = .next (s.after len stl f) := by
  rw [issue_ok h]
  simp [State.after]

end Sys2Proof.Machine
end

