-- ==== Sys2Proof/Laws/Issue.lean ====
section
/-! SUPPORT. Operands, results and jumps of an instruction that issues on a quiet core: what each shared operation does at
`s.at len`, where every instruction's body starts. -/

namespace Sys2Proof.Machine

variable {s : State} {len : Nat}

@[simp] theorem State.at_cur : (s.at len).cur = s.cur := rfl
@[simp] theorem State.at_me : (s.at len).me = s.me.begin len := s.me_setCore _

theorem plain_at {r : BitVec 5} (h : s.plain r) : (s.at len).plain r := by
  simp only [State.plain, State.at_me, Core.boundTo, Core.gen]
  exact h

theorem mayWrite_at {r : BitVec 5} (h : s.mayWrite r) : (s.at len).mayWrite r := by
  refine ⟨plain_at h.1, ?_⟩
  simp only [State.at_me, Core.idemOn, Core.isThread]
  exact h.2

theorem readyM_at (h : Quiet s) (rs ps wd pd) : readyM rs ps wd pd (s.at len) = .ok ((), s.at len) :=
  readyM_quiet h (c := s.me.begin len) h.pend h.vpend h.lost rs ps wd pd

theorem src_at (h : Quiet s) {r : BitVec 5} (hr : s.plain r) : src r (s.at len) = .ok (s.me.reg r.toNat, s.at len) := by
  rw [src_plain (plain_at hr), State.at_me, Core.seen_quiet (by exact h.pend)]
  rfl

theorem srcP_at (h : Quiet s) (p : BitVec 3) : srcP p (s.at len) = .ok (s.me.pred p.toNat, s.at len) := by
  rw [srcP_run, State.at_me, Core.seenP_quiet (by exact h.pend)]
  rfl

theorem regionOf_at (k : Nat) : (s.at len).regionOf k = s.regionOf k := by
  rw [State.at_eq]
  exact s.regionOf_setCore rfl

theorem opb_at (h : Quiet s) {k : BitVec 1} {rb : BitVec 5} (hb : s.hasB k rb) (bits : Word) :
    opb k rb bits (s.at len) = .ok (s.valB k rb, s.at len) := by
  unfold State.hasB at hb
  unfold opb State.valB
  by_cases hk : k = 1
  · simp only [hk, if_true, constM, M.bind_run, M.get_run, State.at_cur, regionOf_at] at hb ⊢
    cases hg : s.regionOf s.cur with
    | none => simp [hg] at hb
    | some g => rfl
  · simp only [hk, if_false] at hb ⊢
    exact src_at h hb

theorem put_at {r : BitVec 5} (v : Word) (lat : Nat) (h : s.mayWrite r) :
    put r v lat (s.at len) = .ok ((), s.setCore s.cur ((s.me.begin len).putReg r.toNat v lat)) := by
  rw [put_plain v lat (mayWrite_at h), State.at_cur, State.at_eq, State.modCore_setCore]

theorem putP_at (p : BitVec 3) (b : Bool) (lat : Nat) :
    putP p b lat (s.at len) = .ok ((), s.setCore s.cur ((s.me.begin len).putPred p.toNat b lat)) := by
  rw [putP_run, State.at_cur, State.at_eq, State.modCore_setCore]

theorem target_at (d : BitVec 53) : target len d (s.at len) = .ok (s.me.pc + d, s.at len) := by
  simp only [target, M.bind_run, M.getC_run, State.at_me, M.pure_run, Core.begin_pc]
  congr 2
  rw [BitVec.add_sub_cancel]

theorem linkWord_at : linkWord (s.at len) = .ok ((s.me.pc + BitVec.ofNat 53 len).setWidth 64, s.at len) := by
  simp only [linkWord, M.bind_run, M.getC_run, State.at_me, M.pure_run, Core.begin_pc]

theorem jump_run (t : BitVec 53) (s : State) :
    jump t s = .ok ((), s.tick.setCore s.cur { s.me with pc := t, cycle := s.me.cycle + Config.waitCycles s.fresh }) := rfl

theorem Quiet.sfuBusy (h : Quiet s) (c : Core) : (s.setCore s.cur c).sfuBusy s.cur = false := by
  simp only [State.sfuBusy, State.cluster_setCore, List.any_eq_false, beq_iff_eq]
  exact fun r hr => h.sfu r hr

theorem Core.settle_quiet {c : Core} (hp : c.pend = []) (hv : c.vpend = []) : c.settle = c := by
  obtain ⟨⟩ := c
  simp only at hp hv
  subst hp; subst hv
  rfl

/-- With nothing outstanding, a boundary's wait changes nothing (R380). -/
theorem settleM_at (h : Quiet s) : settleM (s.at len) = .ok ((), s.at len) := by
  have h1 : (s.me.begin len).settle = s.me.begin len :=
    Core.settle_quiet h.pend h.vpend
  have h2 : (s.at len).sfuBusy (s.at len).cur = false := h.sfuBusy _
  simp only [settleM, M.bind_run, M.get_run, h2, Bool.false_eq_true, if_false, State.at_me, Core.begin_sfuLost, h.lost, M.modC_run]
  rw [State.at_cur, State.at_eq, State.modCore_setCore, h1]

/-! ## Whole instructions -/

theorem aluM_at (h : Quiet s) (bits : Word) {k : BitVec 1} {rb ra rd : BitVec 5} (lat : Nat) (f : Word → Word → Word)
    (ha : s.plain ra) (hb : s.hasB k rb) (hd : s.mayWrite rd) :
    issue len stl (aluM bits k rb ra rd lat f) s = .next (s.wrote len stl rd (f (s.me.reg ra.toNat) (s.valB k rb)) lat) := by
  apply issue_after (u := ())
  simp only [aluM, M.bind_run, readyM_at h, src_at h ha, opb_at h hb, put_at _ _ hd]

theorem unaryM_at (h : Quiet s) {ra rd : BitVec 5} (lat : Nat) (f : Word → Word) (ha : s.plain ra) (hd : s.mayWrite rd) :
    issue len stl (unaryM ra rd lat f) s = .next (s.wrote len stl rd (f (s.me.reg ra.toNat)) lat) := by
  apply issue_after (u := ())
  simp only [unaryM, M.bind_run, readyM_at h, src_at h ha, put_at _ _ hd]

end Sys2Proof.Machine
end

