-- ==== Sys2Proof/Laws/Memory.lean ====
section
/-! SUPPORT. The laws of byte memories: the canonical form is kept by every operation, a read after a write gives what was
written, and a write leaves every other byte alone. -/

namespace Sys2Proof.Machine

/-! ## The canonical form -/

theorem cellsFrom_mono {lo lo' : Nat} (h : lo ≤ lo') {cs : List Host.Cell} (hc : cellsFrom lo' cs = true) : cellsFrom lo cs = true := by
  cases cs with
  | nil => rfl
  | cons e r =>
    simp only [cellsFrom, Bool.and_eq_true, decide_eq_true_eq] at hc ⊢
    exact ⟨⟨by omega, hc.1.2⟩, hc.2⟩

theorem cellsFrom_cellPut {lo : Nat} {cs : List Host.Cell} (hc : cellsFrom lo cs = true) (a : Nat) (b : Byte) (ha : lo ≤ a) :
    cellsFrom lo (cellPut cs a b) = true := by
  induction cs generalizing lo with
  | nil =>
    by_cases hb : b = 0
    · simp only [cellPut, if_pos hb, cellsFrom]
    · simp only [cellPut, if_neg hb, cellsFrom, Bool.and_eq_true, decide_eq_true_eq, bne_iff_ne, ne_eq]
      exact ⟨⟨ha, hb⟩, trivial⟩
  | cons e r ih =>
    obtain ⟨k, c⟩ := e
    simp only [cellsFrom, Bool.and_eq_true, decide_eq_true_eq] at hc
    obtain ⟨⟨h1, h2⟩, h3⟩ := hc
    simp only [cellPut]
    split
    · by_cases hb : b = 0
      · simp only [if_pos hb, cellsFrom, Bool.and_eq_true, decide_eq_true_eq]
        exact ⟨⟨h1, h2⟩, h3⟩
      · simp only [if_neg hb, cellsFrom, Bool.and_eq_true, decide_eq_true_eq, bne_iff_ne, ne_eq]
        exact ⟨⟨ha, hb⟩, ⟨by omega, by simpa using h2⟩, h3⟩
    · split
      · by_cases hb : b = 0
        · simpa [hb] using cellsFrom_mono (by omega) h3
        · subst_vars
          simp only [if_neg hb, cellsFrom, Bool.and_eq_true, decide_eq_true_eq, bne_iff_ne, ne_eq]
          exact ⟨⟨ha, hb⟩, h3⟩
      · simp only [cellsFrom, Bool.and_eq_true, decide_eq_true_eq]
        exact ⟨⟨h1, h2⟩, ih h3 (by omega)⟩

theorem cellsFrom_filter {lo : Nat} {cs : List Host.Cell} (hc : cellsFrom lo cs = true) (p : Host.Cell → Bool) :
    cellsFrom lo (cs.filter p) = true := by
  induction cs generalizing lo with
  | nil => rfl
  | cons e r ih =>
    obtain ⟨k, c⟩ := e
    simp only [cellsFrom, Bool.and_eq_true, decide_eq_true_eq] at hc
    obtain ⟨⟨h1, h2⟩, h3⟩ := hc
    by_cases hp : p (k, c) = true
    · simp only [List.filter_cons, hp, if_true, cellsFrom, Bool.and_eq_true, decide_eq_true_eq]
      exact ⟨⟨h1, h2⟩, ih h3⟩
    · simp only [List.filter_cons, hp, Bool.false_eq_true, if_false]
      exact cellsFrom_mono (by omega) (ih h3)

theorem risingFrom_mono {lo lo' : Nat} (h : lo ≤ lo') {ns : List Nat} (hc : risingFrom lo' ns = true) : risingFrom lo ns = true := by
  cases ns with
  | nil => rfl
  | cons e r =>
    simp only [risingFrom, Bool.and_eq_true, decide_eq_true_eq] at hc ⊢
    exact ⟨by omega, hc.2⟩

theorem risingFrom_numPut {lo : Nat} {ns : List Nat} (hc : risingFrom lo ns = true) (n : Nat) (hn : lo ≤ n) :
    risingFrom lo (numPut ns n) = true := by
  induction ns generalizing lo with
  | nil => simp [numPut, risingFrom, hn]
  | cons k r ih =>
    simp only [risingFrom, Bool.and_eq_true, decide_eq_true_eq] at hc
    simp only [numPut]
    split
    · simp only [risingFrom, Bool.and_eq_true, decide_eq_true_eq]
      exact ⟨hn, by omega, hc.2⟩
    · split
      · simp only [risingFrom, Bool.and_eq_true, decide_eq_true_eq]
        exact hc
      · simp only [risingFrom, Bool.and_eq_true, decide_eq_true_eq]
        exact ⟨hc.1, ih hc.2 (by omega)⟩

theorem risingFrom_numDel {lo : Nat} {ns : List Nat} (hc : risingFrom lo ns = true) (n : Nat) : risingFrom lo (numDel ns n) = true := by
  induction ns generalizing lo with
  | nil => rfl
  | cons k r ih =>
    simp only [risingFrom, Bool.and_eq_true, decide_eq_true_eq] at hc
    simp only [numDel]
    split
    · exact risingFrom_mono (by omega) hc.2
    · simp only [risingFrom, Bool.and_eq_true, decide_eq_true_eq]
      exact ⟨hc.1, ih hc.2⟩

theorem risingFrom_filter {lo : Nat} {ns : List Nat} (hc : risingFrom lo ns = true) (p : Nat → Bool) :
    risingFrom lo (ns.filter p) = true := by
  induction ns generalizing lo with
  | nil => rfl
  | cons k r ih =>
    simp only [risingFrom, Bool.and_eq_true, decide_eq_true_eq] at hc
    by_cases hp : p k = true
    · simp only [List.filter_cons, hp, if_true, risingFrom, Bool.and_eq_true, decide_eq_true_eq]
      exact ⟨hc.1, ih hc.2⟩
    · simp only [List.filter_cons, hp, Bool.false_eq_true, if_false]
      exact risingFrom_mono (by omega) (ih hc.2)

theorem Memory.wf_iff (m : Memory) : m.wf = true ↔ cellsFrom 0 m.cells = true ∧ risingFrom 0 m.bad = true := by
  simp [Memory.wf]

@[simp] theorem Memory.wf_empty : Memory.empty.wf = true := rfl

theorem Memory.wf_setByte {m : Memory} (h : m.wf = true) (a : Nat) (b : Byte) : (m.setByte a b).wf = true := by
  rw [Memory.wf_iff] at h ⊢
  exact ⟨cellsFrom_cellPut h.1 a b (Nat.zero_le _), h.2⟩

theorem Memory.wf_setBytes {m : Memory} (h : m.wf = true) (a : Nat) (bs : List Byte) : (m.setBytes a bs).wf = true := by
  induction bs generalizing m a with
  | nil => exact h
  | cons b r ih => exact ih (Memory.wf_setByte h a b) (a + 1)

theorem Memory.wf_write {m : Memory} (h : m.wf = true) (a : Nat) (bs : List Byte) : (m.write a bs).wf = true := by
  have := Memory.wf_setBytes h a bs
  rw [Memory.wf_iff] at this ⊢
  exact ⟨this.1, risingFrom_filter this.2 _⟩

theorem Memory.wf_setWord {m : Memory} (h : m.wf = true) (a : Nat) (v : Word) : (m.setWord a v).wf = true := Memory.wf_write h a _

theorem Memory.wf_setBad {m : Memory} (h : m.wf = true) (g : Nat) (b : Bool) : (m.setBad g b).wf = true := by
  rw [Memory.wf_iff] at h ⊢
  cases b
  · exact ⟨h.1, risingFrom_numDel h.2 g⟩
  · exact ⟨h.1, risingFrom_numPut h.2 g (Nat.zero_le _)⟩

theorem Memory.wf_zero {m : Memory} (h : m.wf = true) (a n : Nat) : (m.zero a n).wf = true := by
  rw [Memory.wf_iff] at h ⊢
  exact ⟨cellsFrom_filter h.1 _, risingFrom_filter h.2 _⟩

theorem Memory.wf_copyFrom {m : Memory} (h : m.wf = true) (src : Memory) (a b n : Nat) : (m.copyFrom src a b n).wf = true := by
  have fold1 : ∀ (l : List Host.Cell) (x : Memory), x.wf = true →
      (l.foldl (fun acc c => acc.setByte (c.1 - b + a) c.2) x).wf = true := by
    intro l
    induction l with
    | nil => exact fun x hx => hx
    | cons e r ih => exact fun x hx => ih _ (Memory.wf_setByte hx _ _)
  have fold2 : ∀ (l : List Nat) (x : Memory), x.wf = true →
      (l.foldl (fun acc g => acc.setBad ((8 * g - b + a) / 8) true) x).wf = true := by
    intro l
    induction l with
    | nil => exact fun x hx => hx
    | cons e r ih => exact fun x hx => ih _ (Memory.wf_setBad hx _ _)
  exact fold2 _ _ (fold1 _ _ (Memory.wf_zero h a n))

/-! ## Reading after writing -/

theorem cellAt_cellPut_same (cs : List Host.Cell) (lo a : Nat) (b : Byte) (h : cellsFrom lo cs = true) :
    cellAt (cellPut cs a b) a = b := by
  induction cs generalizing lo with
  | nil =>
    by_cases hb : b = 0
    · subst hb; rfl
    · simp only [cellPut, if_neg hb, cellAt, if_true]
  | cons e r ih =>
    obtain ⟨k, c⟩ := e
    simp only [cellsFrom, Bool.and_eq_true, decide_eq_true_eq] at h
    have low : ∀ (l : List Host.Cell) (n : Nat), cellsFrom n l = true → a < n → cellAt l a = 0 := by
      intro l
      induction l with
      | nil => intros; rfl
      | cons e r ih =>
        intro n hn han
        simp only [cellsFrom, Bool.and_eq_true, decide_eq_true_eq] at hn
        rw [cellAt, if_neg (by omega)]
        exact ih _ hn.2 (by omega)
    simp only [cellPut]
    split
    · by_cases hb : b = 0
      · simp only [hb, if_true, cellAt]
        rw [if_neg (by omega), low r _ h.2 (by omega)]
      · simp only [if_neg hb, cellAt, if_true]
    · split
      · by_cases hb : b = 0
        · simp only [hb, if_true]
          exact low r _ h.2 (by omega)
        · simp only [if_neg hb, cellAt, if_true]
      · rw [cellAt, if_neg (by omega)]
        exact ih _ h.2

theorem cellAt_cellPut_other (cs : List Host.Cell) {a x : Nat} (b : Byte) (h : x ≠ a) : cellAt (cellPut cs a b) x = cellAt cs x := by
  induction cs with
  | nil =>
    by_cases hb : b = 0
    · simp only [cellPut, if_pos hb]
    · simp only [cellPut, if_neg hb, cellAt, if_neg (Ne.symm h)]
  | cons e r ih =>
    obtain ⟨k, c⟩ := e
    simp only [cellPut]
    split
    · by_cases hb : b = 0
      · simp only [if_pos hb]
      · simp only [if_neg hb, cellAt, if_neg (Ne.symm h)]
    · split
      · subst_vars
        by_cases hb : b = 0
        · simp only [if_pos hb, cellAt, if_neg (Ne.symm h)]
        · simp only [if_neg hb, cellAt, if_neg (Ne.symm h)]
      · simp only [cellAt, ih]

@[simp] theorem Memory.byte_setByte_same {m : Memory} (h : m.wf = true) (a : Nat) (b : Byte) : (m.setByte a b).byte a = b :=
  cellAt_cellPut_same _ 0 a b ((Memory.wf_iff m).1 h).1

theorem Memory.byte_setByte_other (m : Memory) {a x : Nat} (b : Byte) (h : x ≠ a) : (m.setByte a b).byte x = m.byte x :=
  cellAt_cellPut_other _ b h

theorem Memory.byte_setBytes_other (m : Memory) (a : Nat) (bs : List Byte) {x : Nat} (h : x < a ∨ a + bs.length ≤ x) :
    (m.setBytes a bs).byte x = m.byte x := by
  induction bs generalizing m a with
  | nil => rfl
  | cons b r ih =>
    simp only [List.length_cons] at h
    rw [Memory.setBytes, ih _ _ (by omega), Memory.byte_setByte_other _ _ (by omega)]

theorem Memory.byte_setBytes {m : Memory} (hm : m.wf = true) (a : Nat) (bs : List Byte) (i : Nat) (h : i < bs.length) :
    (m.setBytes a bs).byte (a + i) = bs[i] := by
  induction bs generalizing m a i with
  | nil => simp at h
  | cons b r ih =>
    rw [Memory.setBytes]
    cases i with
    | zero =>
      rw [Memory.byte_setBytes_other _ _ _ (by omega)]
      exact Memory.byte_setByte_same hm a b
    | succ n =>
      simp only [List.length_cons] at h
      rw [show a + (n + 1) = a + 1 + n by omega, ih (Memory.wf_setByte hm a b) _ _ (by omega)]
      rfl

@[simp] theorem Memory.byte_write_eq (m : Memory) (a : Nat) (bs : List Byte) (x : Nat) : (m.write a bs).byte x = (m.setBytes a bs).byte x := rfl

theorem spanOf_congr {α : Type} {f g : Nat → α} {a b : Nat} (n : Nat) (h : ∀ i < n, f (a + i) = g (b + i)) : spanOf f a n = spanOf g b n := by
  induction n generalizing a b with
  | zero => rfl
  | succ n ih =>
    rw [spanOf, spanOf, show f a = g b from h 0 (by omega)]
    congr 1
    exact ih fun i hi => by
      have := h (i + 1) (by omega)
      rwa [show a + (i + 1) = a + 1 + i by omega, show b + (i + 1) = b + 1 + i by omega] at this

@[simp] theorem length_spanOf {α : Type} (f : Nat → α) (a n : Nat) : (spanOf f a n).length = n := by
  induction n generalizing a with
  | zero => rfl
  | succ n ih => simp [spanOf, ih]

theorem getElem_spanOf {α : Type} (f : Nat → α) (a n i : Nat) (h : i < (spanOf f a n).length) : (spanOf f a n)[i] = f (a + i) := by
  induction n generalizing a i with
  | zero => simp [spanOf] at h
  | succ n ih =>
    cases i with
    | zero => rfl
    | succ i =>
      simp only [spanOf, List.getElem_cons_succ]
      rw [ih]
      congr 1
      omega

/-- A read of bytes just written. -/
theorem Memory.read_write_same {m : Memory} (hm : m.wf = true) (a : Nat) (bs : List Byte) : (m.write a bs).read a bs.length = bs := by
  apply List.ext_getElem
  · simp [Memory.read]
  · intro i h1 h2
    simp only [Memory.read]
    rw [getElem_spanOf, Memory.byte_write_eq, Memory.byte_setBytes hm a bs i h2]

/-- A read of other bytes. -/
theorem Memory.read_write_other (m : Memory) (a : Nat) (bs : List Byte) {x n : Nat} (h : x + n ≤ a ∨ a + bs.length ≤ x) :
    (m.write a bs).read x n = m.read x n :=
  spanOf_congr n fun i hi => by rw [Memory.byte_write_eq, Memory.byte_setBytes_other _ _ _ (by omega)]

@[simp] theorem length_leBytes (n v : Nat) : (leBytes n v).length = n := by
  induction n generalizing v with
  | zero => rfl
  | succ n ih => simp [leBytes, ih]

theorem leNat_leBytes (n v : Nat) : leNat (leBytes n v) = v % 256 ^ n := by
  induction n generalizing v with
  | zero => simp [leBytes, leNat, Nat.mod_one]
  | succ n ih =>
    simp only [leBytes, leNat, ih, BitVec.toNat_ofNat]
    rw [show (256 : Nat) ^ (n + 1) = 256 * 256 ^ n by ring, Nat.mod_mul]

theorem leBytes_leNat (bs : List Byte) : leBytes bs.length (leNat bs) = bs := by
  induction bs with
  | nil => rfl
  | cons b r ih =>
    simp only [List.length_cons, leBytes, leNat]
    congr 1
    · apply BitVec.eq_of_toNat_eq
      have := b.isLt
      simp only [BitVec.toNat_ofNat]
      omega
    · rw [show (b.toNat + 256 * leNat r) / 256 = leNat r by have := b.isLt; omega, ih]

/-- A doubleword read after it was written (R1). -/
theorem Memory.word_setWord_same {m : Memory} (hm : m.wf = true) (a : Nat) (v : Word) : (m.setWord a v).word a = v := by
  have h := Memory.read_write_same hm a (leBytes 8 v.toNat)
  rw [length_leBytes] at h
  apply BitVec.eq_of_toNat_eq
  rw [Memory.word, Memory.setWord, h, leNat_leBytes, BitVec.toNat_ofNat]
  have := v.isLt
  omega

/-- A doubleword that does not overlap the one written. -/
theorem Memory.word_setWord_other (m : Memory) {a x : Nat} (v : Word) (h : x + 8 ≤ a ∨ a + 8 ≤ x) : (m.setWord a v).word x = m.word x := by
  rw [Memory.word, Memory.setWord, Memory.read_write_other _ _ _ (by simpa using h)]
  rfl

/-- A doubleword that does not overlap bytes written. -/
theorem Memory.word_write_other (m : Memory) {a x : Nat} (bs : List Byte) (h : x + 8 ≤ a ∨ a + bs.length ≤ x) :
    (m.write a bs).word x = m.word x := by
  rw [Memory.word, Memory.read_write_other _ _ _ h]
  rfl

theorem Memory.byte_setWord_other (m : Memory) {a x : Nat} (v : Word) (h : x < a ∨ a + 8 ≤ x) : (m.setWord a v).byte x = m.byte x := by
  rw [Memory.setWord, Memory.byte_write_eq, Memory.byte_setBytes_other _ _ _ (by simpa using h)]

/-- A register's write leaves every other register alone (R123). -/
theorem Core.reg_setReg_other (c : Core) {n m : Nat} (v : Word) (h : n ≠ m) : (c.setReg n v).reg m = c.reg m := by
  by_cases hn : n = 0
  · simp [Core.setReg, hn]
  · by_cases hm : m = 0
    · simp [Core.reg, hm]
    · simp only [Core.reg, if_neg hm, Core.setReg, if_neg hn]
      exact Memory.word_setWord_other _ _ (by simp only [Core.regOff]; omega)

/-- What a register holds after it was written (R123). -/
theorem Core.reg_setReg_same' (c : Core) {n : Nat} (v : Word) (h : n ≠ 0) (hm : c.arr.wf = true) : (c.setReg n v).reg n = v := by
  simp only [Core.reg, Core.setReg, if_neg h]
  exact Memory.word_setWord_same hm _ _

end Sys2Proof.Machine
end

