-- ==== Sys2Proof/Tests/Slice0.lean ====
section
/-! SUPPORT. Tests: terms that WellFormed refuses, words of the encoding tables, worked examples of the spec, and for each statement a
witness that its hypotheses can be met together. -/

namespace Sys2Proof.Tests
open Sys2Proof.Machine Host
set_option Elab.async false

/-! ## WellFormed: a term that each check refuses -/

theorem test_wf_refuses_1 : ([
      .ld 0 0 0 4 0 5 0, .st 0 0 0 5 0 0 0, .st 0 0 0 4 0 5 0, .fadd 0 3 0 0 0 0, .faddL 3 0 0 0 0, .fsub 0 3 0 0 0 0, .fsubL 3 0 0 0 0,
      .fmul 0 3 0 0 0 0, .fmulL 3 0 0 0 0, .fdiv 0 3 0 0 0 0, .fdivL 3 0 0 0 0, .fsqrt 3 0 0 0, .fma 0 3 0 0 0 0, .fmaL 3 0 0 0 0,
      .fmad 0 3 0 0 0 0, .fmadL 3 0 0 0 0, .fnma 0 3 0 0 0 0, .fnmaL 3 0 0 0 0, .fmin 0 3 0 0 0 0, .fminL 3 0 0 0 0, .fmax 0 3 0 0 0 0,
      .fmaxL 3 0 0 0 0, .fsgn 3 0 0 0 0 0, .fsgn 0 3 0 0 0 0, .fcmp 0 3 0 0 0 0 0, .fcmpL 3 0 0 0 0 0, .fclass 3 0 0 0, .fcvt 14 8 0 0 0,
      .fcvt 8 14 0 0 0, .fcvt 9 9 0 0 0, .fcvt 1 2 0 0 0, .vcvt 0 9 0 0 0, .vcvt 0 24 0 0 0, .vsfu 0 6 0 0 0, .vclaim 6 0 0,
      .vld 0 9 0 0 0, .vld 0 24 0 0 0, .vbc 0 9 0 0 0, .vbc 0 24 0 0 0, .vred 0 6 0 0 0, .vscan 0 6 0 0 0, .vtag 9 0 0, .vtag 24 0 0,
      .qfence 0 0, .sbind 0 4 0 0 0 0] : List Instr).all (fun i => !wf i) = true := by decide +kernel

theorem test_wf_refuses_2 : ([
      .sbind 1 5 0 0 0 0, .bankset 3 0 0 0, .aadd 0 5 0 0 0 0, .aadd 1 3 0 0 1 0, .aand 0 5 0 0 0 0, .aand 1 3 0 0 1 0, .aor 0 5 0 0 0 0,
      .aor 1 3 0 0 1 0, .axor 0 5 0 0 0 0, .axor 1 3 0 0 1 0, .amin 0 5 0 0 0 0, .amin 1 3 0 0 1 0, .amax 0 5 0 0 0 0, .amax 1 3 0 0 1 0,
      .aswap 0 5 0 0 0 0, .aswap 1 3 0 0 1 0, .acas 0 3 0 0 0 0, .afadd 0 18 0 0 0 0, .afadd 1 20 0 0 1 0, .afmin 0 18 0 0 0 0,
      .afmin 1 20 0 0 1 0, .afmax 0 18 0 0 0 0, .afmax 1 20 0 0 1 0, .atopk 1 0 0 1 0, .vatom 0 7 0 0 0 0, .vatom 0 12 0 0 0 0,
      .fence 5 0, .tfence 1 5 0 0, .tfence 0 0 1 0, .barv 15 0, .bwait 15 0, .btest 15 0 0, .mbarv 5 0 0 0, .mbwait 5 0 0 0 0,
      .mbtest 5 0 0 0, .swwait 5 0 0 0 0, .swtest 5 0 0 0, .qpush 0 0 0 1 0, .qpop 0 0 1 0 0, .indesc 1 1 0 0 0, .crr 11 0 0, .crw 11 0 0,
      .notify 64 0 0, .notify 0 256 0, .notify 0 0 64] : List Instr).all (fun i => !wf i) = true := by decide +kernel

theorem test_wf_refuses_3 : ([
      .nop 64 0 0, .nop 0 256 0, .nop 0 0 64, .start 64 0 0, .start 0 256 0, .start 0 0 64, .seed 64 0 0, .seed 0 256 0, .seed 0 0 64,
      .await 64 0 0, .await 0 256 0, .await 0 0 64, .awaitCompletion 64 0 0, .awaitCompletion 0 256 0, .awaitCompletion 0 0 64,
      .signal 64 0 0, .signal 0 256 0, .signal 0 0 64, .copyPacket 64 0 0, .copyPacket 0 256 0, .copyPacket 0 0 64, .cpjump 64 0 0,
      .cpjump 0 256 0, .cpjump 0 0 64, .cmdLoop 64 0 0, .cmdLoop 0 256 0, .cmdLoop 0 0 64, .cmdIf 64 0 0, .cmdIf 0 256 0, .cmdIf 0 0 64,
      .cmdStart 64 0 0, .cmdStart 0 256 0, .cmdStart 0 0 64, .cmdSeed 64 0 0, .cmdSeed 0 256 0, .cmdSeed 0 0 64, .cmdWait 64 0 0,
      .cmdWait 0 256 0, .cmdWait 0 0 64, .cmdSignal 64 0 0, .cmdSignal 0 256 0, .cmdSignal 0 0 64, .cmdRet 64 0 0, .cmdRet 0 256 0,
      .cmdRet 0 0 64] : List Instr).all (fun i => !wf i) = true := by decide +kernel

theorem test_wf_refuses_4 : ([
      .root 64 0, .qva 64 0, .qoff 64 0, .ftail 64 0, .ntail 64 0, .retry 64 0, .deliver 64 0, .nrel 64 0, .cstart 64 0,
      .compatThreadLoad 4096, .freset 64 0, .registerWrite 64 0 0, .lifecycleChange 1 1 2, .lifecycleChange 1 8 8, .lifecycleChange 1 0 3,
      .sieveMatch 1024, .overflowSweep 0 8192, .groupArrival 0 256, .productInsert 0 64, .productAck 0 64, .stabilityWave 1024,
      .sliceStart 64, .preemptStop 4096, .budget 4096, .sfuComplete 256, .enginePerform 256 0, .enginePerform 0 3, .enginePiece 256 0,
      .enginePiece 0 3, .engineReport 256 0, .engineReport 0 3, .stagingPerform 256 0, .stagingPerform 0 4, .matrixPerform 256 0,
      .matrixPerform 0 4, .panelReload 256 0, .panelReload 0 4, .phaseFlip 15 0 0 0, .phaseFlip 0 3 0 0, .bankModeChange 256 0,
      .bankModeChange 0 64, .qsendBoundExpiry 4096, .waitiTimeout 4096, .claimHoldoffExpiry 256 0, .claimHoldoffExpiry 0 4] : List Instr).all (fun i => !wf i) = true := by decide +kernel

theorem test_wf_refuses_5 : ([
      .descriptorEccError 0 8192 0, .engineInternalError 256 0, .engineInternalError 0 3, .vfEnable 64, .compatThreadResume 4096, .fetchFault 5 0, .fetchFault 9 0] : List Instr).all (fun i => !wf i) = true := by decide +kernel

/-! ## Encodings: the words of the spec's examples (spec/08 to spec/24), and a word of each row of the encoding tables -/

/-- Each word decodes to its instruction and is that instruction's encoding. -/
def decodes (ws : List (Nat × Instr)) : Bool :=
  ws.all fun e => decodeTableWord 64 e.1 == some e.2 && (encode e.2).map (·.2) == some e.1

theorem test_worked_words_1 : decodes [
    (0x00000211, .vclaim 0 4 0), (0x00080211, .vclaim 4 4 0), (0x00E83091, .vld 0 20 3 1 0), (0x03001111, .vred 0 0 1 2 0),
     (0x03401191, .vscan 0 0 1 3 0), (0x040A2311, .vxtr 5 2 6 0), (0x00400011, .vrel 0), (0x0002021B, .indesc 0 1 0 4 0),
     (0x1000131B, .indesc 2 0 1 6 0), (0x0040801B, .emit 2 0), (0x00C0001B, .commit 0), (0x0100001B, .abort 0),
     (0x014A301B, .bop 0 5 3 0 0), (0x1140001B, .bopEnd 0), (0x0180901B, .idem 9 0), (0x01C0019B, .kld 0 3 0), (0x00500203, .addi 5 0 4 0),
     (0xFFFFA209, .loop 262142 4 0), (0x00DE3483, .cmpi 13 3 1 1 0), (0x0514448B, .st 1 0 1 2 4 9 0), (0x0056330B, .ld 0 1 1 3 3 6 0),
     (0x0596328B, .st 1 1 1 3 3 5 0), (0x0A20300B, .pref 2 2 3 0), (0x0310300B, .disc 0 3 0), (0x18000019, .fence 3 0),
     (0x10400019, .tfence 0 2 0 0), (0x03465019, .qpush 0 3 5 0 0), (0x0B862319, .qpop 1 3 2 6 0), (0x0BCA7019, .qsend 1 5 7 0)] = true := by decide +kernel

theorem test_worked_words_2 : decodes [
    (0x12808095, .bankset 2 8 1 0), (0x02C08095, .spset 8 1 0), (0x52008895, .sbind 1 2 0 2 1 0), (0x02400015, .sunbind 0 0),
     (0x10020013, .mzeroG 0 1 0 0), (0x004A4093, .mma 5 4 1 0), (0x084A4093, .mmaResume 5 4 1 0), (0x008A4013, .mmag 5 4 0 0),
     (0x00D49093, .mdrain 0 10 9 1 0), (0x01149113, .mfill 10 9 2 0), (0x01507313, .astage 8 7 6 0), (0x01907313, .pload 8 7 6 0),
     (0x01C07013, .pevict 7 0), (0x02007193, .pstat 0 7 3 0), (0x02440013, .hspost 2 0), (0x02840013, .hswait 2 0),
     (0x00188015, .copy 12 2 0), (0x00588015, .gath 12 2 0), (0x08588015, .gathCb 12 2 0), (0x00988015, .scat 12 2 0),
     (0x00D84015, .mgopen 12 4 0), (0x01188015, .mgfeed 12 2 0), (0x01404015, .mgclose 4 0), (0x19800015, .qfence 3 0),
     (0x01C40315, .evwait 0 2 6 0), (0x09C40315, .evwait 1 2 6 0), (0x100A3317, .aadd 0 4 5 3 6 0), (0x900A3017, .aadd 1 4 5 3 0 0),
     (0x21CA3317, .acas 0 8 5 3 6 0)] = true := by decide +kernel

theorem test_worked_words_3 : decodes [
    (0x02103317, .acasq 0 4 3 3 0), (0x524A3317, .afadd 0 20 5 3 6 0), (0x830A3017, .atopk 1 5 3 0 0), (0xA7443317, .vatom 1 9 2 3 6 0),
     (0x03803317, .aflag 3 6 0), (0x00804019, .bmask 4 0), (0x00C40019, .barv 2 0), (0x01040019, .bwait 2 0), (0x01440099, .btest 2 1 0),
     (0x018A3019, .mbinit 5 3 0), (0x19C03319, .mbarv 3 3 6 0), (0x1A0C3399, .mbwait 3 6 3 7 0), (0x1A403399, .mbtest 3 3 7 0),
     (0x028A3019, .swinit 5 3 0), (0x0ACC3399, .swwait 1 6 3 7 0), (0x0B003399, .swtest 1 3 7 0), (0x0000029D, .trap 0 0 5 0),
     (0x0040001D, .eret 0), (0x0840001D, .eretFault 0), (0x1040001D, .eretEnd 0), (0x0086029D, .crr 3 5 0), (0x00D0E01D, .crw 8 14 0),
     (0x0100029D, .ids 5 0), (0x0140431D, .waiti 4 6 0), (0x0180431D, .rspawn 4 6 0), (0x01C0401D, .ctxsw 4 0),
     (0xC35662ED, .fcvt 12 11 6 5 3), (0x100E62ED, .fadd 0 1 7 6 5 3), (0x518662ED, .fmad 1 1 3 6 5 3)] = true := by decide +kernel

theorem test_words_alu_1 : decodes
    [(0x500E62A1, .add 1 1 7 6 5 1), (0x4040000090007321, .addL 1 7 6 1 0x40400000), (0x504E62A1, .sub 1 1 7 6 5 1),
     (0x4040000090407321, .subL 1 7 6 1 0x40400000), (0x508E62A1, .and 1 1 7 6 5 1), (0x4040000090807321, .andL 1 7 6 1 0x40400000),
     (0x50CE62A1, .or 1 1 7 6 5 1), (0x4040000090C07321, .orL 1 7 6 1 0x40400000), (0x510E62A1, .xor 1 1 7 6 5 1),
     (0x4040000091007321, .xorL 1 7 6 1 0x40400000), (0x514E62A1, .andn 1 1 7 6 5 1), (0x4040000091407321, .andnL 1 7 6 1 0x40400000)] = true := by decide +kernel

theorem test_words_alu_2 : decodes
    [(0x518E62A1, .sll 1 1 7 6 5 1), (0x4040000091807321, .sllL 1 7 6 1 0x40400000), (0x51CE62A1, .srl 1 1 7 6 5 1),
     (0x4040000091C07321, .srlL 1 7 6 1 0x40400000), (0x520E62A1, .sra 1 1 7 6 5 1), (0x4040000092007321, .sraL 1 7 6 1 0x40400000),
     (0x524E62A1, .ror 1 1 7 6 5 1), (0x4040000092407321, .rorL 1 7 6 1 0x40400000), (0x528E62A1, .mul 1 1 7 6 5 1),
     (0x4040000092807321, .mulL 1 7 6 1 0x40400000), (0x52CE62A1, .mulh 1 1 7 6 5 1), (0x4040000092C07321, .mulhL 1 7 6 1 0x40400000)] = true := by decide +kernel

theorem test_words_alu_3 : decodes
    [(0x530E62A1, .mulhu 1 1 7 6 5 1), (0x4040000093007321, .mulhuL 1 7 6 1 0x40400000), (0x534E62A1, .div 1 1 7 6 5 1),
     (0x4040000093407321, .divL 1 7 6 1 0x40400000), (0x538E62A1, .divu 1 1 7 6 5 1), (0x4040000093807321, .divuL 1 7 6 1 0x40400000),
     (0x53CE62A1, .rem 1 1 7 6 5 1), (0x4040000093C07321, .remL 1 7 6 1 0x40400000), (0x540E62A1, .remu 1 1 7 6 5 1),
     (0x4040000094007321, .remuL 1 7 6 1 0x40400000), (0x544E62A1, .min 1 1 7 6 5 1), (0x4040000094407321, .minL 1 7 6 1 0x40400000)] = true := by decide +kernel

theorem test_words_alu_4 : decodes
    [(0x548E62A1, .max 1 1 7 6 5 1), (0x4040000094807321, .maxL 1 7 6 1 0x40400000), (0x54CE62A1, .minu 1 1 7 6 5 1),
     (0x4040000094C07321, .minuL 1 7 6 1 0x40400000), (0x550E62A1, .maxu 1 1 7 6 5 1), (0x4040000095007321, .maxuL 1 7 6 1 0x40400000),
     (0x15407321, .clz 1 7 6 1), (0x15807321, .ctz 1 7 6 1), (0x15C07321, .popc 1 7 6 1), (0x360E62A1, .sel 3 7 6 5 1),
     (0x40400000B6007321, .selL 3 7 6 1 0x40400000), (0x564E65C1, .cmp 1 1 7 6 1 3 2)] = true := by decide +kernel

theorem test_words_alu_5 : decodes
    [(0x40400000964075C1, .cmpL 1 7 1 3 2 0x40400000), (0x6975361, .plog 1 3 2 5 6 3)] = true := by decide +kernel

theorem test_words_alui : decodes
    [(0xA5C07323, .addi 0xA5C 7 6 1), (0xA5C27323, .andi 0xA5C 7 6 1), (0xA5C47323, .ori 0xA5C 7 6 1), (0xA5C67323, .xori 0xA5C 7 6 1),
     (0x2A87323, .slli 42 7 6 1), (0x2AA7323, .srli 42 7 6 1), (0x2AC7323, .srai 42 7 6 1), (0xA5CE75C3, .cmpi 0xA5C 7 1 3 2)] = true := by decide +kernel

theorem test_words_fimm : decodes
    [(0xA5A5C385, .lui 0xA5A5C 7), (0xA5A5C3A5, .fli 0xA5A5C 7), (0xA5A5C3C5, .faddi 0xA5A5C 7), (0xA5A5C3E5, .fmuli 0xA5A5C 7)] = true := by decide +kernel

theorem test_words_br : decodes
    [(0xA5C07327, .beq 0xA5C 7 6 1), (0xA5C27327, .bne 0xA5C 7 6 1), (0xA5C47327, .blt 0xA5C 7 6 1), (0xA5C67327, .bge 0xA5C 7 6 1),
     (0xA5C87327, .bltu 0xA5C 7 6 1), (0xA5CA7327, .bgeu 0xA5C 7 6 1), (0xA5CC01A7, .bpt 0xA5C 3 1), (0xA5CE01A7, .bpf 0xA5C 3 1)] = true := by decide +kernel

theorem test_words_jmp : decodes
    [(0xA96943A9, .jal 0x2A5A5 7 1), (0x2D29D329, .jalr 0x5A5 7 6 1), (0xA96963A9, .loop 0x2A5A5 7 1)] = true := by decide +kernel

theorem test_words_mem : decodes
    [(0xA854734B, .ld 42 1 1 2 7 6 2), (0xA994734B, .st 42 1 1 2 7 6 2), (0xAA10704B, .pref 42 1 7 2), (0xAB10702B, .disc 42 7 1)] = true := by decide +kernel

theorem test_words_fps_1 : decodes
    [(0x600E62CD, .fadd 1 2 7 6 5 2), (0x40400000A000734D, .faddL 2 7 6 2 0x40400000), (0x604E62CD, .fsub 1 2 7 6 5 2),
     (0x40400000A040734D, .fsubL 2 7 6 2 0x40400000), (0x608E62CD, .fmul 1 2 7 6 5 2), (0x40400000A080734D, .fmulL 2 7 6 2 0x40400000),
     (0x60CE62CD, .fdiv 1 2 7 6 5 2), (0x40400000A0C0734D, .fdivL 2 7 6 2 0x40400000), (0x2100734D, .fsqrt 2 7 6 2),
     (0x614E62CD, .fma 1 2 7 6 5 2), (0x40400000A140734D, .fmaL 2 7 6 2 0x40400000), (0x618E62CD, .fmad 1 2 7 6 5 2)] = true := by decide +kernel

theorem test_words_fps_2 : decodes
    [(0x40400000A180734D, .fmadL 2 7 6 2 0x40400000), (0x61CE62CD, .fnma 1 2 7 6 5 2), (0x40400000A1C0734D, .fnmaL 2 7 6 2 0x40400000),
     (0x620E62CD, .fmin 1 2 7 6 5 2), (0x40400000A200734D, .fminL 2 7 6 2 0x40400000), (0x624E62CD, .fmax 1 2 7 6 5 2),
     (0x40400000A240734D, .fmaxL 2 7 6 2 0x40400000), (0xA28E62ED, .fsgn 2 2 7 6 5 3), (0x62CE69ED, .fcmp 1 2 7 6 2 3 3),
     (0x40400000A2C079ED, .fcmpL 2 7 2 3 3 0x40400000), (0x2300734D, .fclass 2 7 6 2), (0x9346732D, .fcvt 9 3 7 6 1)] = true := by decide +kernel

theorem test_words_fps_3 : decodes
    [(0x1380732D, .fex2 7 6 1), (0x13C0732D, .flg2 7 6 1), (0x1400732D, .frcp 7 6 1), (0x1440732D, .frsq 7 6 1),
     (0x1480732D, .fsinp 7 6 1), (0x14C0732D, .fcosp 7 6 1)] = true := by decide +kernel

theorem test_words_va_1 : decodes
    [(0xB00E62AF, .vadd 1 3 7 6 5 1), (0xB04E62AF, .vsub 1 3 7 6 5 1), (0xB08E62AF, .vmul 1 3 7 6 5 1),
     (0xB0CE62AF, .vfma 1 3 7 6 5 1), (0xB10E62AF, .vdiv 1 3 7 6 5 1), (0x3140732F, .vsqrt 3 7 6 1), (0xB18E62AF, .vmin 1 3 7 6 5 1),
     (0xB1CE62AF, .vmax 1 3 7 6 5 1), (0x3200732F, .vabs 3 7 6 1), (0x3240732F, .vneg 3 7 6 1), (0xB28E62AF, .vand 1 3 7 6 5 1),
     (0xB2CE62AF, .vor 1 3 7 6 5 1)] = true := by decide +kernel

theorem test_words_va_2 : decodes
    [(0xB30E62AF, .vxor 1 3 7 6 5 1), (0xB34E62AF, .vshl 1 3 7 6 5 1), (0xB38E62AF, .vshr 1 3 7 6 5 1),
     (0xB3CE62AF, .vsra 1 3 7 6 5 1), (0xB40E66CF, .vcmp 1 3 7 6 1 5 2), (0xB44E62AF, .vsel 1 3 7 6 5 1),
     (0x34A862AF, .vcvt 3 20 6 5 1), (0x34CA732F, .vsfu 3 5 7 6 1)] = true := by decide +kernel

theorem test_words_vm_1 : decodes
    [(0xA03B1, .vclaim 5 7 1), (0x400031, .vrel 1), (0x8003B1, .vlen 7 1), (0x30E862B1, .vld 3 20 6 5 1),
     (0x310E62B1, .vlds 3 7 6 5 1), (0x314E62B1, .vldx 3 7 6 5 1), (0x31807331, .vst 3 7 6 1), (0x31CE62B1, .vsts 3 7 6 5 1),
     (0x320E62B1, .vstx 3 7 6 5 1), (0x326862B1, .vbc 3 20 6 5 1), (0x328E62B1, .vperm 3 7 6 5 1), (0xB2CE62B1, .vslide 3 7 6 5 1)] = true := by decide +kernel

theorem test_words_vm_2 : decodes
    [(0x330A7331, .vred 3 5 7 6 1), (0x33487331, .vscan 3 4 7 6 1), (0x386DB71, .vmop 3 1 5 2 6 3), (0x3E80331, .vtag 20 6 1),
     (0x40E62B1, .vxtr 7 6 5 1)] = true := by decide +kernel

theorem test_words_mtx_1 : decodes
    [(0x80000D3, .mzero 1 1 2), (0x180600D3, .mzeroG 1 3 1 2), (0x4E60D3, .mma 7 6 1 2), (0x84E60D3, .mmaResume 7 6 1 2),
     (0x8E60D3, .mmag 7 6 1 2), (0x88E60D3, .mmagResume 7 6 1 2), (0x10CE60D3, .mdrain 1 7 6 1 2), (0x10E60D3, .mfill 7 6 1 2),
     (0x14E62B3, .astage 7 6 5 1), (0x18E62B3, .pload 7 6 5 1), (0x1C07033, .pevict 7 1), (0xA007333, .pstat 1 7 6 1)] = true := by decide +kernel

theorem test_words_mtx_2 : decodes
    [(0x2460033, .hspost 3 1), (0x2860033, .hswait 3 1)] = true := by decide +kernel

theorem test_words_eng_1 : decodes
    [(0xEC035, .copy 7 3 1), (0x4EC035, .gath 7 3 1), (0x84EC035, .gathCb 7 3 1), (0x8EC035, .scat 7 3 1), (0xCE6035, .mgopen 7 6 1),
     (0x10EC035, .mgfeed 7 3 1), (0x1407035, .mgclose 7 1), (0x39800035, .qfence 7 1), (0x9C603B5, .evwait 1 3 7 1),
     (0x1A034CD5, .sbind 0 3 1 5 9 2), (0x2420055, .sunbind 1 2), (0x128071D5, .bankset 2 7 3 2)] = true := by decide +kernel

theorem test_words_eng_2 : decodes
    [(0x2C071B5, .spset 7 3 1)] = true := by decide +kernel

theorem test_words_atom_1 : decodes
    [(0xC0C54B7, .aadd 0 3 6 5 9 1), (0xC4C54B7, .aand 0 3 6 5 9 1), (0xC8C54B7, .aor 0 3 6 5 9 1), (0xCCC54B7, .axor 0 3 6 5 9 1),
     (0xD0C54B7, .amin 0 3 6 5 9 1), (0xD4C54B7, .amax 0 3 6 5 9 1), (0x18C54B7, .aswap 0 0 6 5 9 1), (0xA1CC54B7, .acas 1 8 6 5 9 1),
     (0x82247637, .acasq 1 9 7 6 1), (0x524C54B7, .afadd 0 20 6 5 9 1), (0x528C54B7, .afmin 0 20 6 5 9 1),
     (0x52CC54B7, .afmax 0 20 6 5 9 1)] = true := by decide +kernel

theorem test_words_atom_2 : decodes
    [(0x30E62B7, .atopk 0 7 6 5 1), (0xA74E62B7, .vatom 1 9 7 6 5 1), (0x3807337, .aflag 7 6 1)] = true := by decide +kernel

theorem test_words_sync_1 : decodes
    [(0x18000039, .fence 3 1), (0x58407039, .tfence 1 3 7 1), (0x807039, .bmask 7 1), (0xC40039, .barv 2 1), (0x1040039, .bwait 2 1),
     (0x14401B9, .btest 2 3 1), (0x18E6039, .mbinit 7 6 1), (0x19C07339, .mbarv 3 7 6 1), (0x1A0E62B9, .mbwait 3 7 6 5 1),
     (0x1A407339, .mbtest 3 7 6 1), (0x28E6039, .swinit 7 6 1), (0x1ACE62B9, .swwait 3 7 6 5 1)] = true := by decide +kernel

theorem test_words_sync_2 : decodes
    [(0x1B007339, .swtest 3 7 6 1), (0xB5271B9, .qpush 1 9 7 3 1), (0xB9233B9, .qpop 1 9 3 7 1), (0xBCE6039, .qsend 1 7 6 1)] = true := by decide +kernel

theorem test_words_pool : decodes
    [(0x223FB, .indesc 0 1 2 7 3), (0x40C03B, .emit 3 1), (0x8E603B, .emitv 7 6 1), (0xC0003B, .commit 1), (0x100003B, .abort 1),
     (0x94E62BB, .bop 1 7 6 5 1), (0x1140003B, .bopEnd 1), (0x180703B, .idem 7 1), (0x1CE033B, .kld 7 6 1), (0x9C0733B, .kldX 7 6 1)] = true := by decide +kernel

theorem test_words_sys : decodes
    [(0xE62BD, .trap 7 6 5 1), (0x40003D, .eret 1), (0x840003D, .eretFault 1), (0x1040003D, .eretEnd 1), (0x8E033D, .crr 7 6 1),
     (0xD0603D, .crw 8 6 1), (0x10003BD, .ids 7 1), (0x140733D, .waiti 7 6 1), (0x180733D, .rspawn 7 6 1), (0x1C0703D, .ctxsw 7 1)] = true := by decide +kernel

theorem test_words_compact_1 : decodes
    [(0x9A60, .cIll 0x4D3), (0x1CC2, .cMov 7 6), (0xA8E4, .cAddi 42 7), (0x1CC6, .cAdd 7 6), (0x1CC8, .cSub 7 6), (0xA8EA, .cLdd 42 7),
     (0xA8EC, .cStd 42 7), (0xA8EE, .cBeqz 42 7), (0xA8F0, .cBnez 42 7), (0x9A72, .cJ 0x4D3), (0x14, .cRet), (0x16, .cWait)] = true := by decide +kernel

theorem test_words_compact_2 : decodes
    [(0x18, .cNop), (0x1A, .cCmt)] = true := by decide +kernel

/-! ## Results: the spec's worked examples -/

/-- A firing on core 0 with registers and cr.frm set. -/
def ran (frm : Word) (rs : List (Nat × Word)) : State :=
  (State.reset.withFetchWord 32 0).modCore 0 fun c => { (rs.foldl (fun c e => c.setReg e.1 e.2) c) with cr := { c.cr with frm := frm } }

/-- What an instruction leaves in a register. -/
def left (r : Outcome State Fault Refusal) (n : Nat) : Option Word := match r with | .next t => some (t.me.reg n) | _ => none

/-- What it leaves in cr.fflags. -/
def flagged (r : Outcome State Fault Refusal) : Option Word := match r with | .next t => some t.me.cr.fflags | _ => none

-- R161: the examples under its table.
theorem test_add_32 : left (exec (.add 0 1 4 3 5 0) (ran 0 [(3, 0x7FFFFFFF), (4, 1)])) 5 = some 0xFFFFFFFF80000000 ∧
    left (exec (.add 0 0 4 3 5 0) (ran 0 [(3, 0x7FFFFFFF), (4, 1)])) 5 = some 0x80000000 := by decide +kernel

theorem test_srl_32 : left (exec (.srl 0 1 4 3 5 0) (ran 0 [(3, 0x80000000), (4, 0)])) 5 = some 0xFFFFFFFF80000000 ∧
    left (exec (.srl 0 1 4 3 5 0) (ran 0 [(3, 0x80000000), (4, 1)])) 5 = some 0x40000000 := by decide +kernel

-- R163: the rows of its table.
theorem test_div_signed : left (exec (.div 0 0 4 3 5 0) (ran 0 [(3, -7), (4, 2)])) 5 = some 0xFFFFFFFFFFFFFFFD ∧
    left (exec (.rem 0 0 4 3 5 0) (ran 0 [(3, -7), (4, 2)])) 5 = some 0xFFFFFFFFFFFFFFFF ∧
    left (exec (.div 0 0 4 3 5 0) (ran 8 [(3, 0x8000000000000000), (4, -1)])) 5 = some 0x8000000000000000 := by decide +kernel

theorem test_div_zero : left (exec (.divu 0 0 4 3 5 0) (ran 0 [(3, 9), (4, 0)])) 5 = some 0xFFFFFFFFFFFFFFFF ∧
    left (exec (.remu 0 0 4 3 5 0) (ran 0 [(3, 9), (4, 0)])) 5 = some 9 ∧
    left (exec (.divu 0 1 4 3 5 0) (ran 0 [(3, 0xFFFFFFFF), (4, 1)])) 5 = some 0xFFFFFFFFFFFFFFFF ∧
    flagged (exec (.div 0 0 4 3 5 0) (ran 0 [(3, 9), (4, 0)])) = some 0 := by decide +kernel

-- R167: PLOG p3, p2, p0, 3 writes NOT p2.
theorem test_plog_not : ∀ b : Bool, (match exec (.plog 3 0 0 2 3 0) (((ran 0 []).modCore 0 fun c => c.setPred 2 b)) with
    | .next t => t.me.pred 3 | _ => b) = !b := by decide +kernel

-- Worked conversions of spec/03_number_formats.md: formats F4 8, F8 9, SH8 10, BF16 11, FP32 12, I32 2; flags NV 16, OF 4, UF 2, NX 1.
theorem test_conversions_bf16_f8 : ciEncode 0 11 (ciDecode 12 0x3F808000) = (0x3F80, 1) ∧ ciEncode 2 11 (ciDecode 12 0x3F808000) = (0x3F81, 1) ∧
    ciEncode 0 9 (ciDecode 12 0x3E99999A) = (0x32, 1) ∧ ciEncode 1 9 (ciDecode 12 0x3E99999A) = (0x31, 1) ∧
    ciEncode 1 9 (ciDecode 12 0x447A0000) = (0x7F, 5) ∧ ciEncode 0 9 (ciDecode 12 0x3A83126F) = (0x01, 3) ∧
    ciEncode 2 9 (ciDecode 12 0x3A83126F) = (0x02, 3) := by decide +kernel

theorem test_conversions_f4_sh8 : ciEncode 0 8 (ciDecode 12 0x40200000) = (0x4, 1) ∧ ciEncode 4 8 (ciDecode 12 0x40200000) = (0x5, 1) ∧
    ciEncode 0 8 (ciDecode 12 0x40E00000) = (0x7, 5) ∧ ciEncode 1 8 (ciDecode 12 0x40E00000) = (0x7, 1) ∧
    ciEncode 0 10 (ciDecode 12 0x3E99999A) = (0x24, 1) ∧ ciEncode 1 10 (ciDecode 12 0x3E99999A) = (0x25, 1) ∧
    ciEncode 0 10 (ciDecode 12 0x3FE00000) = (0x01, 1) ∧ ciEncode 2 10 (ciDecode 12 0x3FE00000) = (0x00, 1) ∧
    (ciEncode 0 8 (ciDecode 12 0xBDCCCCCD)).1 = 0x8 := by decide +kernel

theorem test_conversions_wide : ciEncode 0 12 (ciDecode 9 0xB9) = (0xBF100000, 0) ∧ ciEncode 0 12 (ciDecode 9 0x80) = (0x7FC00000, 0) ∧
    ciEncode 0 2 (ciDecode 12 0x4F000000) = (0x7FFFFFFF, 16) := by decide +kernel

-- R239: the home slice of PA 0x80_0001_2380.
theorem test_home_slice : homeSlice (0x8000012380 / 128) = 0xC3 := by decide +kernel

-- R205: the fixed tree of pairs, with an absent element passed up, and the running values.
theorem test_reductions : let s := (ran 0 [(3, 0)]).modCore 0 fun c =>
      { c with grant := 8, vtags := [(1, 4)], vregs := [(1, [1, 2, 3, 4, 5, 6, 7, 8])], masks := [(1, 0xFE)] };
    (match exec (.vred 1 0 1 2 0) s with | .next t => (List.range 8).map (Spec.elem t.me 4 2) | _ => []) = [35, 0, 0, 0, 0, 0, 0, 0] ∧
    (match exec (.vscan 0 0 1 2 0) s with | .next t => (List.range 8).map (Spec.elem t.me 4 2) | _ => []) = [1, 3, 6, 10, 15, 21, 28, 36] := by decide +kernel

-- R327, R328: the new memory values.
theorem test_atomics : (atomNew 0 3 0xFFFFFFFF 2).1 = 1 ∧ (atomNew 4 3 0xFFFFFFFF 1).1 = 0xFFFFFFFF ∧ (atomNew 4 7 0xFFFFFFFF 1).1 = 1 ∧
    (atomNew 6 4 7 9).1 = 9 := by decide +kernel

/-! ## Witnesses: for each statement a state and operands that meet its hypotheses -/

/-- Core 0 runs a firing from its system area; nothing is outstanding. -/
def probe : State := State.reset.withFetchWord 32 0

/-- `probe` with its core changed. -/
def probeBy (f : Machine.Core → Machine.Core) : State := probe.modCore 0 f

theorem probe_quiet : Quiet probe := ⟨rfl, rfl, rfl, by decide⟩

theorem probe_write (r : BitVec 5) : probe.mayWrite r := ⟨rfl, fun h => absurd h.1 (by decide)⟩

theorem wit_AluRegisterForms : Quiet probe ∧ probe.plain 31 ∧ probe.hasB 0 31 ∧ probe.hasB 1 31 ∧ probe.mayWrite 0 ∧ probe.mayWrite 31 :=
  ⟨probe_quiet, rfl, rfl, rfl, probe_write _, probe_write _⟩

theorem wit_AluLiteralForms : Quiet probe ∧ probe.plain 0 ∧ probe.mayWrite 31 := ⟨probe_quiet, rfl, probe_write _⟩

theorem wit_Divisions : Quiet probe ∧ probe.plain 31 ∧ probe.mayWrite 0 ∧ probe.hasB 1 0 := ⟨probe_quiet, rfl, probe_write _, rfl⟩

theorem wit_ImmediatesAndMoves : Quiet probe ∧ probe.mayWrite 1 ∧ probe.plain 2 ∧ probe.plain 3 := ⟨probe_quiet, probe_write _, rfl, rfl⟩

theorem wit_Predicates : Quiet probe ∧ probe.plain 1 ∧ probe.hasB 1 31 ∧ (7 : BitVec 3) ≠ 0 ∧ 7 < 8 ∧ (7 ≠ (6 : BitVec 3).toNat ∨ 7 = 0) :=
  ⟨probe_quiet, rfl, rfl, by decide, by decide, by decide⟩

theorem wit_Branches : Quiet probe ∧ probe.plain 31 ∧ probe.plain 0 := ⟨probe_quiet, rfl, rfl⟩

theorem wit_JumpsAndLoop : Quiet probe ∧ probe.plain 31 ∧ probe.mayWrite 31 ∧ probe.mayWrite 0 ∧ probe.plain 1 :=
  ⟨probe_quiet, rfl, probe_write _, probe_write _, rfl⟩

theorem wit_RegisterWriteFrame : probe.me.arr.wf = true ∧ (5 : Nat) ≠ (4 : BitVec 5).toNat := ⟨by decide, by decide⟩

/-- A product of w3 is not due before cycle 3. -/
def probeLate (chk : Word) : State := probeBy fun c =>
  { c with pend := [{ loc := .w (c.regOff 3), old := 7, ready := 3 }], cr := { c.cr with sbchk := chk } }

theorem wit_LateResults : ∀ chk : Word, chk = 0 ∨ chk = 1 → ∃ p, (probeLate chk).me.pend = [p] ∧ (probeLate chk).me.vpend = [] ∧
    (probeLate chk).me.sfuLost = [] ∧ ((probeLate chk).cluster (clusterOf (probeLate chk).cur)).sfu = [] ∧
    p.loc = .w ((probeLate chk).me.regOff 3) ∧ (probeLate chk).me.cycle < p.ready ∧ (probeLate chk).plain 3 ∧ (probeLate chk).plain 4 ∧
    (probeLate chk).mayWrite 5 := by
  rintro chk (rfl | rfl) <;> exact ⟨_, rfl, rfl, rfl, rfl, rfl, by decide, rfl, rfl, rfl, fun h => absurd h.1 (by decide)⟩

theorem wit_SbChk : (probeLate 1).me.cr.sbchk.getLsbD 0 = true ∧ (probeLate 0).me.cr.sbchk.getLsbD 0 = false := by decide

/-- w5 is a live-in of the open region, and idemchk is set. -/
def probeLive : State := probeBy fun c => { c with imask := 0x20, cr := { c.cr with idemchk := 1 } }

theorem wit_LiveIn : Quiet probeLive ∧ probeLive.plain 3 ∧ probeLive.hasB 1 4 ∧ probeLive.plain 5 ∧ probeLive.me.isThread = false ∧
    probeLive.me.cr.idemchk.getLsbD 0 = true ∧ probeLive.me.imask.getLsbD (5 : BitVec 5).toNat = true :=
  ⟨⟨rfl, rfl, rfl, by decide⟩, rfl, rfl, rfl, rfl, by decide, by decide⟩

/-- `probe` with registers set. -/
def probeRegs (rs : List (Nat × Word)) : State := probeBy fun c => rs.foldl (fun c e => c.setReg e.1 e.2) c

/-- `probe` with a handler, in the context of block `ctx`. -/
def probeTrap (ctx : Word) : State := probeBy fun c => { c with arr := c.arr.setWord 0x208 0x1000, cr := { c.cr with ctx := ctx } }

theorem wit_TrapEntry : Spec.TakesTraps (probeTrap 0) ∧ Spec.TakesTraps (probeTrap 0x4000) ∧ Spec.TakesTraps (probeTrap 0x7E00) ∧
    255 < 256 ∧ 255 ≠ 8 := by
  refine ⟨?_, ?_, ?_, by decide, by decide⟩ <;>
    exact ⟨by decide +kernel, by decide +kernel, by decide +kernel, rfl, by decide +kernel, ⟨rfl, rfl, rfl, by decide⟩, by decide +kernel⟩

theorem wit_TrapWithoutHandler : ∃ f g, Quiet probe ∧ probe.me.run = .firing f.id ∧ probe.firing? f.id = some f ∧
    probe.region? f.region = some g ∧ ruleClass (g.rule f.rule) = 0 ∧ probe.me.undo = false ∧
    ((probe.me.arr.word 0x208).setWidth 53 : BitVec 53) &&& ~~~1 = 0 ∧ (probeTrap 0x200).me.cr.ctx = 0x200 ∧
    (probeTrap 0x200).firing? f.id = some f ∧ (probeTrap 0x200).me.run = .firing f.id :=
  ⟨probeFiring 0 0 0, probeRegion 0, probe_quiet, rfl, rfl, rfl, by decide +kernel, rfl, by decide +kernel, rfl, rfl, rfl⟩

/-- A core that owes BUDGET. -/
def probeOwes : State := probeBy fun c => { c with budget := some 3 }

theorem wit_TrapRaisers : (probeOwes.core 0).budget = some 3 ∧ (probeOwes.core 0).run = .firing 0 ∧ (probeOwes.core 0).cr.ctx ≠ 0x200 ∧
    (probeOwes.core 0).undo = false ∧ (probeOwes.core 0).stopped = false ∧ (probeOwes.core 0).poisonAt = none ∧ probeOwes.sfuBusy 0 = false ∧
    probe.duty.getLsbD 1 = false := ⟨rfl, rfl, by decide, rfl, rfl, rfl, rfl, by decide⟩

/-- The handler context, with a block at `o` that can be loaded, and cr.cause naming an origin. -/
def probeHandler (o : Nat) (cause : Word) : State := probeBy fun c =>
  { c with arr := c.arr.setWord o 0x400, cr := { c.cr with ctx := 0x200, cause := cause } }

theorem wit_HandlerReturns : ∀ o ∈ [0, 0x4000, 0x7E00], Quiet (probeHandler o (BitVec.ofNat 64 o)) ∧
    (probeHandler o (BitVec.ofNat 64 o)).me.cr.ctx = 0x200 ∧
    (probeHandler o (BitVec.ofNat 64 o)).me.cr.cause.toNat / 512 % 64 * 512 = o ∧
    (probeHandler o (BitVec.ofNat 64 o)).me.blockBad o = none := by
  intro o h
  simp only [List.mem_cons, List.not_mem_nil, or_false] at h
  rcases h with rfl | rfl | rfl <;> exact ⟨⟨rfl, rfl, rfl, by decide⟩, rfl, by decide +kernel, by decide +kernel⟩

theorem wit_HandlerReturns_bad : (probeHandler 0 0x3E00).me.cr.ctx = 0x200 ∧ (probeHandler 0 0x3E00).me.cr.cause.toNat / 512 % 64 * 512 = 0x3E00 ∧
    ¬ (0x3E00 = 0 ∨ 0x4000 ≤ 0x3E00 ∧ 0x3E00 ≤ 0x7E00) ∧ probe.me.cr.ctx ≠ 0x200 := by decide +kernel

theorem wit_ControlRegisters : Quiet (probeRegs [(3, 0x500)]) ∧ (probeRegs [(3, 0x500)]).plain 3 ∧ (probeRegs [(3, 0x500)]).mayWrite 5 ∧
    (9 : BitVec 5).toNat ≤ 9 ∧ (probeRegs [(3, 0x500)]).cur < 0x1000 ∧ isGeneral (probeRegs [(3, 0x500)]).cur = true :=
  ⟨⟨rfl, rfl, rfl, by decide⟩, rfl, ⟨rfl, fun h => absurd h.1 (by decide)⟩, by decide, by decide, by decide⟩

theorem wit_crwAllowed : Spec.crwAllowed probe 0 0x500 ∧ Spec.crwAllowed probe 0 0x7F00 ∧ ¬ Spec.crwAllowed probe 0 0x600 ∧
    ¬ Spec.crwAllowed probe 1 0 ∧ Spec.crwAllowed probe 5 31 ∧ ¬ Spec.crwAllowed probe 5 32 ∧ Spec.crwAllowed probe 6 12 ∧
    ¬ Spec.crwAllowed probe 6 5 ∧ Spec.crwAllowed probe 9 2 ∧ ¬ Spec.crwAllowed probe 9 1 ∧ (probeRegs [(3, 0x500)]).me.reg 3 = 0x500 := by
  simp only [Spec.crwAllowed]
  decide +kernel

/-- Line 7 has been posted once. -/
def probePosted : State := probeRegs [(3, 0x80)] |>.modCore 0 fun c => { c with evs := [(7, { EvLine.zero with count := 1 })] }

theorem wit_LineWaits : Quiet probePosted ∧ probePosted.plain 3 ∧ probePosted.plain 0 ∧ Spec.lines probePosted 0x80 ≠ 0 ∧
    (probePosted.me.reg 3).toNat % 256 = 0x80 ∧ Spec.lines probe 0 = 0 ∧ probe.me.preempt = false ∧ probe.me.waitOver = false ∧
    probe.me.isThread = false := ⟨⟨rfl, rfl, rfl, by decide⟩, rfl, rfl, by decide +kernel, by decide +kernel, by decide +kernel, rfl, rfl, rfl⟩

/-- w3 names the block at 0x7E00, which can be loaded. -/
def probeSwitch (ctx w3 : Word) : State := probeBy fun c =>
  { c with arr := (c.setReg 3 w3).arr.setWord 0x7E00 0x400, cr := { c.cr with ctx := ctx } }

theorem wit_ContextSwitch : Quiet (probeSwitch 0x4000 0x7E00) ∧ (probeSwitch 0x4000 0x7E00).plain 3 ∧ (probeSwitch 0x4000 0x7E00).me.arr.wf = true ∧
    ((probeSwitch 0x4000 0x7E00).me.reg 3).toNat = 0x7E00 ∧ (probeSwitch 0x4000 0x7E00).me.blockBad 0x7E00 = none ∧
    ((probeSwitch 0x4000 0x7E01).me.reg 3).toNat % 512 ≠ 0 ∧ (probeSwitch 0x200 0x7E00).me.cr.ctx = 0x200 :=
  ⟨⟨rfl, rfl, rfl, by decide⟩, rfl, by decide +kernel, by decide +kernel, by decide +kernel, by decide +kernel, rfl⟩

theorem wit_FpArithmetic : Quiet probe ∧ probe.plain 31 ∧ probe.mayWrite 31 ∧ probe.hasB 0 30 ∧ probe.hasB 1 31 ∧ probe.plain 29 :=
  ⟨probe_quiet, rfl, probe_write _, rfl, rfl, rfl⟩

theorem wit_FpComparesAndConverts : Quiet probe ∧ probe.plain 0 ∧ probe.hasB 1 0 ∧ probe.mayWrite 31 ∧ (3 : BitVec 4).toNat < 4 ∧
    4 ≤ (4 : BitVec 4).toNat := ⟨probe_quiet, rfl, rfl, probe_write _, by decide, by decide⟩

theorem wit_FpSpecialCases : (Machine.Num.nan true).isNaN = true ∧ (bf16.decode 0x7FC0).isNaN = true ∧ (bf16.decode 0x7F80).isNaN = false ∧
    (fp64.decode 0x7FF0000000000001).isNaN = true ∧ (fp64.decode 0).isNaN = false := by decide +kernel

theorem wit_FpRoundedResults : (∃ q, Spec.rat (fp32.decode 0x7F7FFFFF) = some q) ∧ (∃ q, Spec.rat (fp32.decode 0x00000001) = some q) ∧
    (∃ q, Spec.rat (fp32.decode 0x80000000) = some q) ∧ (fp32.addNum 4 (fp32.decode 0x3F800000) (fp32.decode 0x40000000)).2 % 2 = 0 ∧
    (fp32.ofNum 0 (mulNum (fp32.decode 0x3F800000) (fp32.decode 0x40000000))).2 % 2 = 0 ∧
    (fp32.addNum 0 (mulNum (fp32.decode 0x3F800000) (fp32.decode 0x40000000)) (fp32.decode 0x40000000)).2 % 2 = 0 :=
  ⟨⟨_, rfl⟩, ⟨_, rfl⟩, ⟨_, rfl⟩, by decide +kernel, by decide +kernel, by decide +kernel⟩

theorem wit_FpRoundedResults_signs : ∃ q, Spec.rat (fp32.decode 0x3F800000) = some q ∧ q ≠ 0 ∧ 0 ≤ q := by
  have h : fp32.decode 0x3F800000 = .fin false 8388608 (-23) := by decide +kernel
  refine ⟨_, by rw [h]; rfl, ?_, ?_⟩ <;> norm_num

/-- An FRCP of core 0, issued in the context of block `ctx`, at the head of its cluster's queue. -/
def probeSfu (ctx : Word) : State := probe.modCluster 0 fun x =>
  { x with sfu := [{ core := 0, ctx := ctx, fn := 2, dest := some 0x428, rd := 5, vd := none, mask := 0, args := [0x40800000] }] }

theorem wit_SpecialFunctionQueue : Quiet probe ∧ probe.plain 3 ∧ probe.mayWrite 5 ∧ probe.me.arr.wf = true ∧ ∀ ctx ∈ [(0 : Word), 0x4000],
    ∃ r, ((probeSfu ctx).cluster 0).sfu = [r] ∧ r.vd = none ∧ r.dest = some 0x428 ∧ r.args = [0x40800000] ∧ r.ctx = ctx ∧
      0x428 + 8 ≤ 0x40D0 ∧ 0xD0 + 8 ≤ 0x428 ∧ ((probeSfu ctx).core r.core).cr.ctx = 0 :=
  ⟨probe_quiet, rfl, probe_write _, by decide +kernel, fun _ _ => ⟨_, rfl, rfl, rfl, rfl, rfl, by decide, by decide, rfl⟩⟩

/-- `probe` with the low 8 GiB of its address space mapped to themselves, and the mapping in the core's TLB. -/
def mapped : State :=
  let s := probe.modFunc 0 fun x => { x with procs := [(0, { Proc.init with root := 0x2001 })] }
  State.modCore { s with hbm := (s.hbm.setWord 0x2000 0x4001).setWord 0x4000 0x40000000064F } 0 fun c =>
    { c with tlb := [{ space := 0, vpn := 0, pages := 2 ^ 20, pte := 0x40000000064F }] }

/-- `mapped` with registers set. -/
def mappedRegs (rs : List (Nat × Word)) : State := mapped.modCore 0 fun c => rs.foldl (fun c e => c.setReg e.1 e.2) c

theorem mapped_quiet (rs : List (Nat × Word)) : Quiet (mappedRegs rs) := by
  have h : ∀ (rs : List (Nat × Word)) (c : Machine.Core), (rs.foldl (fun c e => c.setReg e.1 e.2) c).pend = c.pend ∧
      (rs.foldl (fun c e => c.setReg e.1 e.2) c).vpend = c.vpend ∧ (rs.foldl (fun c e => c.setReg e.1 e.2) c).sfuLost = c.sfuLost := by
    intro rs
    induction rs with
    | nil => exact fun c => ⟨rfl, rfl, rfl⟩
    | cons e r ih =>
      intro c
      have k : ∀ (n : Nat) (v : Word), (c.setReg n v).pend = c.pend ∧ (c.setReg n v).vpend = c.vpend ∧ (c.setReg n v).sfuLost = c.sfuLost := by
        intro n v; unfold Core.setReg; split <;> exact ⟨rfl, rfl, rfl⟩
      exact ⟨(ih _).1.trans (k _ _).1, (ih _).2.1.trans (k _ _).2.1, (ih _).2.2.trans (k _ _).2.2⟩
  exact ⟨(h rs _).1, (h rs _).2.1, (h rs _).2.2, by intro r hr; cases hr⟩

/-- What a translation of `n` bytes at a mapped address answers. -/
def target (va n : Nat) : List (Target × Nat) := [({ place := .dev va, ord := .rc, hint := .default, shd := false }, n)]

theorem wit_LocalLoads : Quiet (probeRegs [(3, 0x1FFFFFFF007FF8), (2, 0x1FFFFFFF000000)]) ∧
    (∀ a, (probeRegs [(3, 0x1FFFFFFF007FF8), (2, 0x1FFFFFFF000000)]).me.arr.isBad a = false) ∧
    Spec.inArray (probeRegs [(3, 0x1FFFFFFF007FF8), (2, 0x1FFFFFFF000000)])
      (Spec.addr (probeRegs [(3, 0x1FFFFFFF007FF8), (2, 0x1FFFFFFF000000)]) 3 0 8) 8 ∧
    Spec.inArray (probeRegs [(3, 0x1FFFFFFF007FF8), (2, 0x1FFFFFFF000000)])
      (Spec.addr (probeRegs [(3, 0x1FFFFFFF007FF8), (2, 0x1FFFFFFF000000)]) 3 (-1) 16) 16 ∧
    Spec.inArray (probeRegs [(3, 0x1FFFFFFF007FF8), (2, 0x1FFFFFFF000000)])
      (((probeRegs [(3, 0x1FFFFFFF007FF8), (2, 0x1FFFFFFF000000)]).me.reg 2).toNat % 2 ^ 53) 8 ∧
    (probeRegs [(3, 0x1FFFFFFF007FF8), (2, 0x1FFFFFFF000000)]).mayWrite 5 ∧ (4 : BitVec 5).toNat % 2 = 0 := by
  refine ⟨⟨rfl, rfl, rfl, by decide⟩, fun _ => rfl, ?_, ?_, ?_, ⟨rfl, fun h => absurd h.1 (by decide)⟩, by decide⟩ <;>
    (simp only [Spec.inArray]; decide +kernel)

theorem wit_LocalStores : (probeRegs [(3, 0x1FFFFFFF007FF8)]).me.arr.wf = true ∧ (probeRegs [(3, 0x1FFFFFFF007FF8)]).me.idemOn = false ∧
    (probeRegs [(3, 0x1FFFFFFF007FF8)]).plain 3 ∧ (probeRegs [(3, 0x1FFFFFFF007FF8)]).plain 4 ∧ (probeRegs [(3, 0x1FFFFFFF007FF8)]).plain 5 ∧
    (probeRegs [(3, 0x1FFFFFFF007FF8)]).plain 2 := ⟨by decide +kernel, rfl, rfl, rfl, rfl, rfl⟩

/-- w3 holds an address; granule 8 of the array is poisoned. -/
def probeBad (a : Word) : State := probeBy fun c => { c.setReg 3 a with arr := (c.setReg 3 a).arr.setBad 8 true }

theorem wit_MemoryChecks : Quiet (probeBad 0x1FFFFFFF000040) ∧ (probeBad 0x1FFFFFFF000040).me.poisonAt = none ∧
    (∀ acc ∈ [Acc.load, .store],
      (((probeBad 0x1FFFFFFF008000).at 4).translateParts 0 (partsOf (Spec.addr (probeBad 0x1FFFFFFF008000) 3 0 8) 8) acc).2 = .error (.afault, 0x1FFFFFFF008000) ∧
      (((probeBad 0x8000).at 4).translateParts 0 (partsOf (Spec.addr (probeBad 0x8000) 3 0 8) 8) acc).2 = .error (.tfault true, 0x8000)) ∧
    Spec.addr (probeBad 0x1FFFFFFF000041) 3 0 8 % 8 ≠ 0 ∧ Spec.addr (probeBad 0x1FFFFFFF000040) 3 0 8 = 0x1FFFFFFF000040 ∧
    (probeBad 0x1FFFFFFF000040).me.arr.isBad (0x1FFFFFFF000040 - Spec.sysBase) = true ∧ (probeBad 0x1FFFFFFF000040).me.spN = 0 :=
  ⟨⟨rfl, rfl, rfl, by decide⟩, rfl, fun acc h => by
    simp only [List.mem_cons, List.not_mem_nil, or_false] at h
    rcases h with rfl | rfl <;> exact ⟨rfl, rfl⟩, by decide +kernel⟩

/-- `mapped` with an SO page, at whose address 0x8001 w3 points. -/
def mappedSo : State := (mappedRegs [(3, 0x8001)]).modCore 0 fun c =>
  { c with tlb := [{ space := 0, vpn := 0, pages := 2 ^ 20, pte := 0x40000000065F }] }

theorem wit_MemoryChecks_so : Quiet mappedSo ∧ mappedSo.me.poisonAt = none ∧ mappedSo.plain 3 ∧ Spec.addr mappedSo 3 0 8 % 8 ≠ 0 ∧
    ∀ acc ∈ [Acc.load, .store], ∃ s1 ts, (mappedSo.at 4).translateParts 0 (partsOf (Spec.addr mappedSo 3 0 8) 8) acc = (s1, .ok ts) ∧
      ts.any (fun t => t.1.so) = true := by
  refine ⟨⟨(mapped_quiet [(3, 0x8001)]).1, (mapped_quiet [(3, 0x8001)]).2, (mapped_quiet [(3, 0x8001)]).3, by decide⟩, rfl, rfl, by decide +kernel, fun acc h => ?_⟩
  simp only [List.mem_cons, List.not_mem_nil, or_false] at h
  rcases h with rfl | rfl <;> exact ⟨_, _, rfl, by decide +kernel⟩

theorem wit_MemoryChecks_off : ((probeBad 0x8000).translate 0 0x8000 .load).1.duty = (probeBad 0x8000).duty ∧
    (probeBad 0x8000).plain 3 ∧ (probeBad 0x8000).plain 5 ∧ (probeBad 0x8000).plain 6 := ⟨by decide +kernel, rfl, rfl, rfl⟩

/-- The live-in w4 of the open region has its doubleword at w3's address, and idemchk is set. -/
def probeOver : State := probeBy fun c =>
  { c.setReg 3 0x1FFFFFFF000420 with imask := 0x10, cr := { c.cr with idemchk := 1 } }

theorem wit_MemoryChecks_live : Quiet probeOver ∧ probeOver.me.idemOn = true ∧ probeOver.me.imask.getLsbD 4 = true ∧
    Spec.addr probeOver 3 0 8 = Spec.sysBase + probeOver.me.regOff 4 ∧ probeOver.me.spN = 0 :=
  ⟨⟨rfl, rfl, rfl, by decide⟩, by decide +kernel⟩

theorem wit_StoreThenLoad : ∀ acc ∈ [Acc.load, .store], ∃ t : Target, Quiet (mappedRegs [(3, 0x807E)]) ∧ (∀ c o, t.place ≠ .arr c o) ∧
    ((mappedRegs [(3, 0x807E)]).at 4).translateParts 0 (partsOf (Spec.addr (mappedRegs [(3, 0x807E)]) 3 0 2) 2) acc =
      ((mappedRegs [(3, 0x807E)]).at 4, .ok [(t, 2)]) ∧ Spec.addr (mappedRegs [(3, 0x807E)]) 3 0 2 % 2 = 0 ∧
    ((mappedRegs [(3, 0x807E)]).me.poisonAt = none) ∧ (mappedRegs [(3, 0x807E)]).plain 3 ∧ (mappedRegs [(3, 0x807E)]).mayWrite 5 ∧
    (4 : BitVec 5).toNat % 2 = 0 ∧ ((mappedRegs [(3, 0x807E)]).at 4).seenBad 0 .rc (t.place.add 1) = false := by
  intro acc h
  simp only [List.mem_cons, List.not_mem_nil, or_false] at h
  rcases h with rfl | rfl <;> exact ⟨(target 0x807E 2)[0].1, mapped_quiet _, nofun, by decide +kernel, by decide +kernel, rfl, rfl,
    ⟨rfl, fun h => absurd h.1 (by decide)⟩, rfl, by decide +kernel⟩

theorem wit_StoreThenLoad_line : 0x807F % 128 + [(1 : Byte)].length ≤ 128 ∧ [(1 : Byte)] ≠ [] ∧ mapped.ownerOf (0x807F / 128) = none ∧
    OrdClass.rc ≠ .so ∧ (mapped.cluster 0).bankMem.wf = true ∧ mapped.host.wf = true ∧
    lineFind (mapped.core 0).l1 (0x8000 / 128) = none ∧ (mapped.cluster 0).ownedLine (0x8000 / 128) = none ∧
    lineFind (mapped.cluster 0).cache (0x8000 / 128) = none ∧ lineFind mapped.homes (0x8000 / 128) = none ∧
    (lineFind ((mapped.putBytes 0 .rc (.dev 0x8000) .default [1]).core 0).l1 (0x8000 / 128)).isSome = true := by decide +kernel

theorem wit_CacheOperations_pref : Quiet (mappedRegs [(3, 0x8000)]) ∧ (mappedRegs [(3, 0x8000)]).plain 3 ∧
    Spec.addr (mappedRegs [(3, 0x8000)]) 3 0 128 = 0x8000 ∧
    ((mappedRegs [(3, 0x8000)]).at 4).prefTarget 0 0x8000 = ((mappedRegs [(3, 0x8000)]).at 4, some (0x8000 / 128, 0x40000000064F)) ∧
    ((mappedRegs [(3, 0x8000)]).at 4).translateParts 0 [(0x8000, 1)] .disc = ((mappedRegs [(3, 0x8000)]).at 4, .ok (target 0x8000 1)) ∧
    partsOf 0x8000 1 = [(0x8000, 1)] ∧ (((probeRegs [(3, 0x8000)]).at 4).prefTarget 0 0x8000).2 = none ∧
    0x1FFFFFF8000000 ≤ Spec.addr (probeRegs [(3, 0x1FFFFFF8000000)]) 3 0 128 :=
  ⟨mapped_quiet _, rfl, by decide +kernel, by decide +kernel, by decide +kernel, by decide +kernel, by decide +kernel, by decide +kernel⟩

theorem wit_CacheOperations_fence : Quiet probe ∧ probe.plain 31 ∧ probe.me.poisonAt = none ∧
    (probeBy fun c => { c with poisonAt := some 0x8000 }).me.poisonAt = some 0x8000 ∧ (2 : Nat) ≤ (4 : BitVec 3).toNat :=
  ⟨probe_quiet, rfl, rfl, rfl, by decide⟩

/-- Generator 1 is bound to w16. -/
def probeStream (write : Bool) (count : BitVec 32) : State := probeRegs [(10, 0xFFFFFFFF), (14, 0x100000000)] |>.modCore 0 fun c =>
  c.setGen 1 { addr := 0x1FFFFFFF007FFC, stride := 4, reg := 16, bound := true, write := write, sz := 2, count := count }

theorem wit_Streams_bind : Quiet (probeStream false 1) ∧ (probeStream false 1).plain 8 ∧ (probeStream false 1).plain 9 ∧ (probeStream false 1).plain 10 ∧
    (probeStream false 1).plain 12 ∧ (probeStream false 1).plain 13 ∧ (probeStream false 1).plain 14 ∧
    ((probeStream false 1).me.reg 10).toNat < 2 ^ 32 ∧ 2 ^ 32 ≤ ((probeStream false 1).me.reg 14).toNat ∧
    (∃ j, j < 4 ∧ j ≠ (0 : BitVec 2).toNat ∧ ((probeStream false 1).me.gen j).bound = true ∧ ((probeStream false 1).me.gen j).reg = 16) ∧
    ¬ (∃ j, j < 4 ∧ j ≠ (0 : BitVec 2).toNat ∧ ((probeStream false 1).me.gen j).bound = true ∧ ((probeStream false 1).me.gen j).reg = 31) := by
  refine ⟨⟨rfl, rfl, rfl, by decide⟩, rfl, rfl, rfl, rfl, rfl, rfl, by decide +kernel, by decide +kernel, ⟨1, by decide +kernel⟩, ?_⟩
  rintro ⟨j, h, -, hb, hr⟩
  match j, h with
  | 0, _ | 1, _ | 2, _ | 3, _ => revert hb hr; decide +kernel

theorem wit_Streams_operands : ∀ w ∈ [false, true], ∀ n ∈ [0, 1], Quiet (probeStream w n) ∧ (probeStream w n).me.boundTo 16 = some 1 ∧
    ((probeStream w n).me.gen 1).reg = 16 ∧ (probeStream w n).mayWrite 5 ∧ (probeStream w n).plain 3 ∧ ((probeStream w n).me.gen 1).write = w ∧
    ((probeStream w n).me.gen 1).count = n ∧ ((probeStream w n).me.gen 1).sz ≠ 4 ∧
    Spec.inArray (probeStream w n) ((probeStream w n).me.gen 1).addr.toNat 4 ∧ (probeStream w n).me.idemOn = false ∧
    (∀ a, (probeStream w n).me.arr.isBad a = false) ∧ (probeStream w n).me.arr.wf = true := by
  intro w hw n hn
  simp only [List.mem_cons, List.not_mem_nil, or_false] at hw hn
  rcases hw with rfl | rfl <;> rcases hn with rfl | rfl <;>
    exact ⟨⟨rfl, rfl, rfl, by decide⟩, rfl, rfl, ⟨rfl, fun h => absurd h.1 (by decide)⟩, rfl, rfl, rfl, by decide +kernel,
      by simp only [Spec.inArray]; decide +kernel, rfl, fun _ => rfl, by decide +kernel⟩

/-- Generators 1 and 2 are bound to w16 and w17, each before two more elements. -/
def probeStreams : State := probe.modCore 0 fun c =>
  (c.setGen 1 { addr := 0x1FFFFFFF007FF8, stride := 4, reg := 16, bound := true, write := false, sz := 2, count := 2 }).setGen 2
    { addr := 0x1FFFFFFF007FF0, stride := 4, reg := 17, bound := true, write := false, sz := 3, count := 2 }

theorem wit_Streams_two : Quiet probeStreams ∧ probeStreams.mayWrite 5 ∧ probeStreams.me.boundTo 16 = some 1 ∧
    probeStreams.me.boundTo 17 = some 2 ∧ (∀ a, probeStreams.me.arr.isBad a = false) ∧
    (∀ i ∈ [1, 2], (probeStreams.me.gen i).write = false ∧ (probeStreams.me.gen i).count = 2 ∧ (probeStreams.me.gen i).sz ≠ 4) ∧
    (probeStreams.me.gen 1).addr = 0x1FFFFFFF007FF8 ∧ (probeStreams.me.gen 2).addr = 0x1FFFFFFF007FF0 ∧
    Spec.inArray probeStreams 0x1FFFFFFF007FF8 4 ∧ Spec.inArray probeStreams 0x1FFFFFFF007FFC 4 ∧ Spec.inArray probeStreams 0x1FFFFFFF007FF0 8 := by
  refine ⟨⟨rfl, rfl, rfl, by decide⟩, ⟨rfl, fun h => absurd h.1 (by decide)⟩, by decide +kernel, by decide +kernel, fun _ => rfl,
    by decide +kernel, by decide +kernel, by decide +kernel, ?_, ?_, ?_⟩ <;> (simp only [Spec.inArray]; decide +kernel)

/-- Queue 15 of cluster 0, in FIFO mode, with words and a holder; w3 names it. -/
def probeQueue (ws : List Word) (h : Option Nat) : State := (probeRegs [(3, 0x0F)]).modCluster 0 fun x =>
  { x with modes := [(63, .fifo)], fifos := [(15, { words := ws, holder := h })] }

theorem wit_Queues : (probe.cluster 0).mode (48 + (15 : BitVec 4).toNat) ≠ .fifo ∧
    ((probeQueue [] none).cluster 0).mode (48 + (15 : BitVec 4).toNat) = .fifo ∧
    (((probeQueue [] none).cluster 0).fifo 15).words.length < 16384 ∧ (((probeQueue [] none).cluster 0).fifo 15).holder = none ∧
    (((probeQueue [] (some 3)).cluster 0).fifo 15).holder.isSome = true ∧ (((probeQueue [7] none).cluster 0).fifo 15).words = [7] ∧
    (probeQueue [7] none).me.arr.wf = true ∧ (((probeQueue [] none).cluster 0).fifo 15).words = [] ∧ (probeQueue [] none).plain 3 ∧
    Quiet (probeQueue [] none) ∧ (probeQueue [] none).me.isThread = false := by
  refine ⟨by decide +kernel, by decide +kernel, by decide +kernel, rfl, rfl, rfl, by decide +kernel, rfl, rfl, ⟨rfl, rfl, rfl, by decide⟩, rfl⟩

theorem wit_Queues_full : ∀ n, n = 16384 → n ≤ (((probeQueue (List.replicate n 0) none).cluster 0).fifo 15).words.length := by
  intro n _
  show n ≤ (List.replicate n (0 : Word)).length
  simp

theorem wit_Queues_send : (probeQueue [] none).me.undo = false ∧ (probeQueue [] none).me.packet = none ∧
    ((probeQueue [] none).me.reg 3).toNat = 0 * 256 + 15 ∧ (probeQueue [] none).bay0 * 32 ≤ 0 ∧ 0 < ((probeQueue [] none).bay0 + (probeQueue [] none).bays) * 32 ∧
    ((probeRegs [(3, 0x10F)]).me.reg 3).toNat = 1 * 256 + 15 ∧ ((probeRegs [(3, 0x1F)]).me.reg 3).toNat ≠ 0 * 256 + 15 := by decide +kernel

/-- The issuer of cluster 0 has been at a unit in this arithmetic cycle. -/
def behind (u : Nat) (s : State) : State := s.modCluster 0 fun x => { x with served := [(u, (0, 15))] }

theorem wit_Queues_turn : (probeQueue [7] none).inTurn (uQUEUE 15) = true ∧
    (behind (uQUEUE 15) (probeQueue [7] none)).inTurn (uQUEUE 15) = false ∧ Quiet (behind (uQUEUE 15) (probeQueue [7] none)) ∧
    (((behind (uQUEUE 15) (probeQueue [7] none)).cluster 0).mode (48 + (15 : BitVec 4).toNat) = .fifo) ∧
    (behind (uQUEUE 15) (probeQueue [7] none)).plain 3 :=
  ⟨by decide +kernel, by decide +kernel, ⟨rfl, rfl, rfl, by decide⟩, by decide +kernel, rfl⟩

/-- A bank request of core 0 with an outcome; w3 holds the size or the bank. -/
def probeBank (v : Word) (o : Option Bool) (m : BankMode) : State := (probeRegs [(3, v)]).modCluster 0 fun x =>
  { x with bankReqs := [{ core := 0, bank := 63, mode := m, at_ := 0, outcome := o }] }

theorem wit_LocalMemoryShape : Quiet (probeRegs [(3, 0x40000)]) ∧
    let x := (probeRegs [(3, 0x40000)]).cluster 0
    x.copyQ = [] ∧ x.indQ = [] ∧ x.mergeQ = [] ∧ x.cells = [] := ⟨⟨rfl, rfl, rfl, by decide⟩, rfl, rfl, rfl, rfl⟩

/-- What w3 holds. -/
def wval (w : Word) : Nat := ((probeRegs [(3, w)]).me.reg 3).toNat

theorem wit_LocalMemoryShape_values : (wval 0x40000 % 0x4000 = 0 ∧ wval 0x40000 ≤ 0x40000 ∧ wval 0x40001 % 0x4000 ≠ 0 ∧ 0x40000 < wval 0x44000 ∧
    63 < wval 64 ∧ wval 63 ≤ 63) ∧ (probeRegs [(3, 0x40000)]).plain 3 ∧ ((probeRegs [(3, 63)]).cluster 0).bankReqs = [] :=
  ⟨by decide +kernel, rfl, rfl⟩

theorem wit_LocalMemoryShape_change : let x (o : Option Bool) := (probeBank 63 o .fifo).cluster 0
    (∃ r, (x (some true)).bankReqs.find? (fun r => r.core == 0) = some r ∧ r.outcome = some true) ∧
    (∃ r, (x none).bankReqs = [r] ∧ r.bank = 63 ∧ r.outcome = none ∧ (x none).mode 63 ≠ r.mode) ∧ (x none).merge = none ∧
    (x none).cache = [] := ⟨⟨_, rfl, rfl⟩, ⟨_, rfl, rfl, rfl, by decide +kernel⟩, rfl, rfl⟩

/-- The target of a mapped address. -/
def at8000 : Target := { place := .dev 0x8000, ord := .rc, hint := .default, shd := false }

theorem atomic_at : ∀ n ∈ [4, 8, 16, 128], ((mappedRegs [(3, 0x8000)]).at 4).translateParts (mappedRegs [(3, 0x8000)]).cur (partsOf 0x8000 n) .atomic =
    ((mappedRegs [(3, 0x8000)]).at 4, .ok [(at8000, n)]) := by decide +kernel

theorem atomic_unread : ∀ n ∈ [4, 8, 16, 128], (mappedRegs [(3, 0x8000)]).at 4 =
    ((mappedRegs [(3, 0x8000)]).at 4).modCore 0 fun c => Spec.unread c (.dev 0x8000) n := by decide +kernel

theorem wit_ScalarAtomics : Quiet (mappedRegs [(3, 0x8000)]) ∧ (mappedRegs [(3, 0x8000)]).plain 3 ∧ (mappedRegs [(3, 0x8000)]).plain 4 ∧
    (mappedRegs [(3, 0x8000)]).plain (Machine.evenReg 15) ∧ (mappedRegs [(3, 0x8000)]).plain (Machine.evenReg 15 + 1) ∧
    (((mappedRegs [(3, 0x8000)]).me.reg 3).toNat % 2 ^ 53 = 0x8000 ∧ tagBits 3 / 8 = 4 ∧ tagBits 4 / 8 = 8) ∧
    (∀ n ∈ [4, 8, 16, 128], Spec.AtomAt (mappedRegs [(3, 0x8000)]) 0x8000 n ((mappedRegs [(3, 0x8000)]).at 4) 0x8000 false) ∧
    (0x8001 % (tagBits 3 / 8) ≠ 0 ∧ 0x8004 % 8 ≠ 0 ∧ 0x8008 % 16 ≠ 0 ∧ 0x8040 % 128 ≠ 0) := by
  refine ⟨mapped_quiet _, rfl, rfl, rfl, rfl, by decide +kernel, ?_, by decide⟩
  intro n hn
  refine ⟨?_, _, at8000, atomic_at n hn, rfl, rfl, atomic_unread n hn⟩
  revert n
  decide

theorem wit_AtomicValues : ((3 = 3 ∨ 3 = 7) ∧ 32 = 32) ∧ ((8 = 4 ∨ 8 = 8) ∧ 64 = 64) ∧ 0xFFFFFFFF < 2 ^ 32 := by decide

/-- For a format: the NaN, the two zeros and 1.0, which meet the cases of a sum, of a comparison and of one and two NaN operands. -/
def atomCases (f : Fmt) (nan one : Nat) : Prop :=
  (f.decode nan).isNaN = true ∧ (f.decode one).isNaN = false ∧ (f.decode 0).isNaN = false ∧
    (f.addNum 0 (f.decode f.signBit) (f.decode f.signBit)).1 = f.signBit ∧ (f.addNum 0 (f.decode one) (f.decode one)).1 ≠ f.signBit ∧
    numCmp (f.decode 0) (f.decode one) = some .lt ∧ numCmp (f.decode one) (f.decode 0) = some .gt ∧
    numCmp (f.decode f.signBit) (f.decode 0) = some .eq ∧ (f.decode f.signBit).neg = true ∧ (f.decode 0).neg = false

theorem wit_AtomicValues_formats : (0x7F81 < 2 ^ 16 ∧ atomCases bf16 0x7F81 0x3F80) ∧ (0x7F800001 < 2 ^ 32 ∧ atomCases fp32 0x7F800001 0x3F800000) ∧
    (0x7FF0000000000001 < 2 ^ 64 ∧ atomCases fp64 0x7FF0000000000001 0x3FF0000000000000) := by
  unfold atomCases; decide +kernel

/-- Line 0x100 held at its home slice, granule 15 poisoned. -/
def homed : State := { mapped with homes := [{ num := 0x100, data := 5, dirty := 0, poison := 0x8000, hint := .default, way := 0, uo := false }] }

theorem wit_AtomicAtHome : ∃ l, lineFind homed.homes (0x8000 / 128) = some l ∧ (homed.core 0).l1 = [] ∧ (homed.cluster 0).cache = [] ∧
    (homed.cluster 0).ownedLine (0x8000 / 128) = none ∧ homed.ownerOf (0x8000 / 128) = none ∧ 0x8070 % 128 + 8 ≤ 128 ∧
    (∀ i, i < 8 → l.isBad (0x8070 % 128 + i) = false) ∧ l.isBad (0x8078 % 128 + 7) = true :=
  ⟨_, rfl, rfl, rfl, rfl, rfl, by decide, by decide +kernel, by decide +kernel⟩

theorem wit_FlagsAndTopK : ((mappedRegs [(3, 0x8000)]).at 4).translateParts 0 (partsOf 0x8000 1) .load =
      ((mappedRegs [(3, 0x8000)]).at 4, .ok (target 0x8000 1)) ∧
    (∃ s1 so, Spec.AtomAt { mappedRegs [(3, 0x8000)] with fresh := (mappedRegs [(3, 0x8000)]).fresh + 16 } 0x8000 128 s1 0x8000 so) ∧
    (tkBad (2 ^ 256 * 8 + 2 ^ 255) 0x000000FF3F800000 = false ∧ (2 ^ 256 * 8 + 2 ^ 255 : Nat).testBit 255 = true) :=
  ⟨by decide +kernel, ⟨State.at { mappedRegs [(3, 0x8000)] with fresh := (mappedRegs [(3, 0x8000)]).fresh + 16 } 4, false,
    by decide, State.at { mappedRegs [(3, 0x8000)] with fresh := (mappedRegs [(3, 0x8000)]).fresh + 16 } 4, at8000, by decide +kernel, rfl, rfl,
      by decide +kernel⟩, by decide +kernel⟩

/-- A top-k record of two slots and one entry a group, which holds expert 1 with score 1.0; the other slots are empty. -/
def topkRecord : Nat :=
  2 ^ 256 * 0x100000112 + 2 ^ 320 * 0x13F800000 + (List.range 10).foldl (fun a i => a + 2 ^ (384 + 64 * i) * 0x0000FFFFFF800000) 0

/-- Expert 255 of group 31 with score 0.5. -/
def topkEntry : Word := 0x1F00FF3F000000

theorem wit_FlagsAndTopK_post : let c := topkRecord / 2 ^ 256
    (c % 16 = 2 ∧ c / 16 % 16 = 1 ∧ c / 256 % 16 = 1 ∧ c / 2 ^ 12 % 2 ^ 20 = 0 ∧ topkRecord.testBit 255 = false) ∧
    [Spec.slot topkRecord 0, topkEntry].all (fun x => x.toNat / 2 ^ 56 == 0 && (Spec.score x).isNaN == false) = true ∧
    (Spec.expert topkEntry = 255 ∧ Spec.group topkEntry = 31) ∧
    ((List.range 10).all fun i => Spec.slot topkRecord (i + 1) == 0x0000FFFFFF800000) = true ∧ [Spec.slot topkRecord 0].Pairwise Spec.above :=
  ⟨by decide +kernel, by decide +kernel, by decide +kernel, by decide +kernel, List.pairwise_singleton ..⟩

/-- Channel 14 with a mask that joins it, arrived or not. -/
def probeChan (joined arrived : Bool) : State := (probeRegs [(3, 0x7FFF)]).modCore 0 fun c =>
  { c with bmask := 0x4000, chans := [(14, { joined := joined, arrived := arrived, phase := false })] }

theorem wit_WiredBarriers : Quiet (probeChan true false) ∧ (probeChan true false).plain 3 ∧ (probeChan true false).me.poisonAt = none ∧
    (∀ m ∈ maskChanges (probeChan true false).me.bmask ((probeChan true false).me.reg 3), ((probeChan true false).me.chan m).arrived = false) ∧
    (maskOk ((probeChan true false).me.reg 3) = true ∧ maskOk 0x8000 = false ∧ probe.me.bmask.getLsbD 14 = false ∧
      (probeChan true false).me.bmask.getLsbD (14 : BitVec 4).toNat = true ∧ ((probeChan true false).me.chan 14).joined = true) ∧
    Spec.outstanding (probeChan true true) 14 ∧ ¬ Spec.groupBusy (probeChan false false) 14 := by
  refine ⟨⟨rfl, rfl, rfl, by decide⟩, rfl, rfl, by decide +kernel, by decide +kernel, ⟨by decide +kernel, by decide +kernel⟩, ?_⟩
  unfold Spec.groupBusy
  decide +kernel

theorem wit_WiredBarriers_mask : ∃ m ∈ maskChanges (probeChan true true).me.bmask 0, Spec.outstanding (probeChan true true) m :=
  ⟨14, by decide +kernel, by decide +kernel, by decide +kernel⟩

/-- The members of channel 14 in the core's group that have joined. -/
def joinedAt (s : State) : List (Nat × Machine.Core) := (s.members 14 0 0 0).filter fun e => (e.2.chan 14).joined

theorem wit_WiredBarriers_flip : joinedAt (probeChan true true) ≠ [] ∧
    (∀ e ∈ joinedAt (probeChan true true), e.1 < 0x10000 ∧ (e.2.chan 14).arrived = true ∧
      (e.2.chan 14).phase = (probeChan true true).groupPhase 14 0 0 0) ∧
    joinedAt (probeChan false false) = [] ∧ (∃ e ∈ joinedAt (probeChan true false), (e.2.chan 14).arrived = false) := by decide +kernel

theorem wit_BarrierObjectRules : (BarObj.mk 0x2 0 0 0).malformed = false ∧ (BarObj.mk 0x2 0 0 0).err = false ∧
    (BarObj.mk 0x2 0 0 0).arrived + 1 < (BarObj.mk 0x2 0 0 0).expect ∧ (BarObj.mk 0x100000002 0 0 0).arrived + 1 = (BarObj.mk 0x100000002 0 0 0).expect ∧
    (BarObj.mk 0x100000002 0x1FFFFFFFF 0 0).err = true ∧ (BarObj.mk 0x100000002 0x1FFFFFFFF 0 0).arrived < (BarObj.mk 0x100000002 0x1FFFFFFFF 0 0).expect ∧
    (BarObj.mk 0x2 0 0 0).code = 0 ∧ 255 < 256 ∧ 2 ^ 32 - 1 < 2 ^ 32 := by decide +kernel

/-- The state in which an object instruction finds a line at its home slice. -/
def objectHome (s : State) : State := (s.reachObject 0x8000).homeServe 0 (0x8000 / 128) .default

theorem wit_ObjFrom : ∀ n ∈ [16, 32], Spec.ObjFrom ((mappedRegs [(3, 0x8000), (4, 1)]).at 4) 0x8000 n (objectHome ((mappedRegs [(3, 0x8000), (4, 1)]).at 4)) 0x8000 := by
  have h : ∀ n ∈ [16, 32], 0x8000 % n = 0 ∧ 0x8000 % 128 + n ≤ 128 ∧
      ((mappedRegs [(3, 0x8000), (4, 1)]).at 4).translateParts 0 (partsOf 0x8000 n) .atomic =
        ((mappedRegs [(3, 0x8000), (4, 1)]).at 4, .ok [(at8000, n)]) ∧
      (objectHome ((mappedRegs [(3, 0x8000), (4, 1)]).at 4)).homeBad 0x8000 n = false := by decide +kernel
  exact fun n hn => ⟨(h n hn).1, (h n hn).2.1, ⟨_, at8000, (h n hn).2.2.1, rfl, rfl⟩, (h n hn).2.2.2, by decide +kernel⟩

theorem wit_BarrierObjects : (mappedRegs [(3, 0x8000), (4, 1)]).me.arr.wf = true ∧ (mappedRegs [(3, 0x8000), (4, 1)]).me.isThread = false ∧
    0 < ((mappedRegs [(3, 0x8000), (4, 1)]).me.reg 4).toNat ∧ ((mappedRegs [(3, 0x8000), (4, 0xFFFFFFFF)]).me.reg 4).toNat < 2 ^ 32 ∧
    ((mappedRegs [(3, 0x8000), (4, 0)]).me.reg 4).toNat = 0 ∧ 2 ^ 32 ≤ ((mappedRegs [(3, 0x8000), (4, 0x100000000)]).me.reg 4).toNat ∧
    ((objectHome ((mappedRegs [(3, 0x8000), (4, 1)]).at 4)).barObj 0x8000).gen ≠ 1 ∧
    ((objectHome ((mappedRegs [(3, 0x8000), (4, 1)]).at 4)).barObj 0x8000).gen = 0 ∧
    ((objectHome ((mappedRegs [(3, 0x8000), (4, 1)]).at 4)).barObj 0x8000).err = false ∧ (mappedRegs [(3, 0x8000), (4, 1)]).me.poisonAt = none := by
  decide +kernel

theorem wit_BarrierObjects_arrive : (mappedRegs [(3, 0x8000), (4, 1)]).mayWrite 5 ∧
    Spec.ObjFrom (((mappedRegs [(3, 0x8000), (4, 1)]).at 4).release 0 4) 0x8000 32 (objectHome (((mappedRegs [(3, 0x8000), (4, 1)]).at 4).release 0 4)) 0x8000 :=
  ⟨⟨rfl, fun h => absurd h.1 (by decide)⟩, by decide, by decide,
    ⟨((mappedRegs [(3, 0x8000), (4, 1)]).at 4).release 0 4, at8000, by decide +kernel, rfl, rfl⟩, by decide +kernel, by decide +kernel⟩

theorem wit_SyncWords : 0 < ((mappedRegs [(3, 0x8000), (4, 0xFFFFFFFFFF)]).me.reg 4).toNat ∧
    ((mappedRegs [(3, 0x8000), (4, 0xFFFFFFFFFF)]).me.reg 4).toNat < 2 ^ 40 ∧ 2 ^ 40 ≤ ((mappedRegs [(3, 0x8000), (4, 0x10000000000)]).me.reg 4).toNat ∧
    ((objectHome ((mappedRegs [(3, 0x8000), (4, 1)]).at 4)).objWord 0x8000 1).toNat / 2 ^ 40 ≠
      ((mappedRegs [(3, 0x8000), (4, 1)]).me.reg 4).toNat % 2 ^ 24 ∧
    ((objectHome ((mappedRegs [(3, 0x8000), (4, 1)]).at 4)).objWord 0x8000 1).toNat / 2 ^ 40 =
      ((mappedRegs [(3, 0x8000), (4, 0x1000000)]).me.reg 4).toNat % 2 ^ 24 := by decide +kernel

/-- A grant of `g` lanes, vector registers' tags, and registers. -/
def probeVec (g : Nat) (tags : List (Nat × BitVec 8)) (rs : List (Nat × Word)) : State := (probeRegs rs).modCore 0 fun c =>
  { c with grant := g, vtags := tags }

theorem wit_VectorArithmetic : ∀ t ∈ [1, 8, 0x13, 0x15, 0x16, 0x17], Quiet (probeVec 256 [(1, t), (2, t), (3, t)] []) ∧
    isGeneral (probeVec 256 [(1, t), (2, t), (3, t)] []).cur = true ∧ (probeVec 256 [(1, t), (2, t), (3, t)] []).me.grant ≠ 0 ∧
    (probeVec 256 [(1, t), (2, t), (3, t)] []).me.vtag 2 = (probeVec 256 [(1, t), (2, t), (3, t)] []).me.vtag 1 ∧
    (probeVec 256 [(1, t), (2, t), (3, t)] []).me.vtag 3 = (probeVec 256 [(1, t), (2, t), (3, t)] []).me.vtag 1 ∧
    (probeVec 256 [(1, t), (2, t), (3, t)] []).plain 2 ∧ (probeVec 256 [(1, t), (2, t), (3, t)] []).me.vtag 1 = t.toNat ∧
    (Spec.isInt t.toNat ∨ Spec.isFp t.toNat ∨ Spec.isPair t.toNat) ∧ tagDefined t.toNat = true := by
  intro t h
  simp only [Spec.isInt, Spec.isFp, Spec.isPair]
  simp only [List.mem_cons, List.not_mem_nil, or_false] at h
  rcases h with rfl | rfl | rfl | rfl | rfl | rfl <;>
    exact ⟨⟨rfl, rfl, rfl, by decide⟩, rfl, by decide, rfl, rfl, rfl, rfl, by decide, rfl⟩

theorem wit_VectorArithmetic_tags : ¬ (Spec.isInt 9 ∨ Spec.isFp 9 ∨ Spec.isPair 9) ∧ ¬ 9 ≤ 8 ∧ Spec.isFp 0x13 ∧ Spec.isPair 0x17 ∧
    (probeVec 8 [(1, 9)] []).me.vtag 1 = 9 ∧ tagDefined 9 = false ∧
    (probeVec 8 [(1, 0x13), (2, 1)] []).me.vtag 2 ≠ (probeVec 8 [(1, 0x13), (2, 1)] []).me.vtag 1 ∧
    (probeVec 8 [(1, 0x13), (2, 0x13)] []).me.vtag 3 ≠ (probeVec 8 [(1, 0x13), (2, 0x13)] []).me.vtag 1 := by
  simp only [Spec.isInt, Spec.isFp, Spec.isPair]; decide

theorem wit_VectorComparesAndConverts : Quiet (probeVec 8 [(1, 0x14), (2, 0x14)] []) ∧ (probeVec 8 [(1, 0x14), (2, 0x14)] []).me.grant ≠ 0 ∧
    (probeVec 8 [(1, 0x14), (2, 0x14)] []).me.vtag 2 = 0x14 ∧ (probeVec 8 [(1, 0x14)] []).plain 2 ∧ (1 ≤ 8 ∧ 8 ≤ 8 ∨ 0x10 ≤ 8 ∧ 8 ≤ 0x15) ∧
    (0x10 ≤ 0x15 ∧ 0x15 ≤ 0x15) ∧ (0x15 ≠ 8 ∧ ¬ (0x15 ≤ 8 ∧ 8 ≤ 8)) ∧ (¬ (1 ≤ 0x16 ∧ 0x16 ≤ 8 ∨ 0x10 ≤ 0x16 ∧ 0x16 ≤ 0x15)) :=
  ⟨⟨rfl, rfl, rfl, by decide⟩, by decide, rfl, rfl, by decide, by decide, by decide, by decide⟩

/-- `probe` runs its firing on a control core. -/
def probeControl (k : Nat) : State := { probe.modCore k fun c => { c with run := .firing 0 } with cur := k }

theorem wit_VectorClaims : Quiet probe ∧ isGeneral probe.cur = true ∧ probe.mayWrite 4 ∧ Quiet (probeControl 8) ∧
    isGeneral (probeControl 8).cur = false ∧ (probeControl 8).mayWrite 4 ∧ probe.me.grant = 0 ∧
    (0 ≤ (7 : BitVec 3).toNat ∧ (0 + 1) * (8 * 2 ^ 5) ≤ 256) :=
  ⟨probe_quiet, rfl, probe_write _, ⟨rfl, rfl, rfl, by decide⟩, rfl, ⟨rfl, fun h => absurd h.1 (by decide)⟩, rfl, by decide⟩

theorem wit_VectorClaims_turn : ∀ u ∈ [uLANES, uSFU], probe.inTurn u = true ∧ (behind u probe).inTurn u = false ∧
    (behind u (probeVec 8 [(1, 0x14)] [])).inTurn u = false ∧ (behind u (probeVec 8 [(1, 0x14)] [])).me.vtag 1 = 0x14 := by decide +kernel

theorem wit_VectorClaims_tagged : ∀ t ∈ [0x14, 3], let s := probeVec 0 [(1, t), (2, t), (3, t)] []
    Quiet s ∧ s.me.grant = 0 ∧ s.plain 1 ∧ s.me.vtag 1 = t.toNat ∧ s.me.vtag 2 = t.toNat ∧ s.me.vtag 3 = t.toNat ∧ (5 : BitVec 4).toNat ≤ 5 := by
  intro t h
  simp only [List.mem_cons, List.not_mem_nil, or_false] at h
  rcases h with rfl | rfl <;> exact ⟨⟨rfl, rfl, rfl, by decide⟩, rfl, rfl, rfl, rfl, rfl, by decide⟩

/-- w1 holds an address of the scratchpad's last bytes; v2 holds indices. -/
def probeVMem (t : BitVec 8) : State := probeVec 8 [(1, t), (2, 4)] [(3, 0x1FFFFFFF004000), (4, 0)]

theorem wit_VectorMemory : ∀ t ∈ [0, 1, 0x10, 0x15], Quiet (probeVMem t) ∧ isGeneral (probeVMem t).cur = true ∧ (probeVMem t).me.grant ≠ 0 ∧
    (probeVMem t).plain 3 ∧ (probeVMem t).plain 4 ∧ (∀ a, (probeVMem t).me.arr.isBad a = false) ∧ (probeVMem t).me.arr.wf = true ∧
    (probeVMem t).me.idemOn = false ∧ (probeVMem t).me.vtag 1 = t.toNat ∧ tagDefined t.toNat = true ∧ (probeVMem t).me.vtag 2 = 4 ∧
    (t ≠ 0x10 → ∀ e, e < Spec.count (probeVMem t).me t.toNat → Spec.on (probeVMem t).me 0 e = true →
      Spec.past 0x1FFFFFFF004000 (e * (tagBits t.toNat / 8 : Nat) : Nat) % (tagBits t.toNat / 8) = 0 ∧
      Spec.inArray (probeVMem t) (Spec.past 0x1FFFFFFF004000 (e * (tagBits t.toNat / 8 : Nat) : Nat)) (tagBits t.toNat / 8)) ∧
    (∀ i, i < 8 * (probeVMem t).me.grant → Spec.inArray (probeVMem t) (Spec.past 0x1FFFFFFF004000 (i : Nat)) 1) := by
  intro t h
  simp only [Spec.inArray]
  simp only [List.mem_cons, List.not_mem_nil, or_false] at h
  rcases h with rfl | rfl | rfl | rfl <;>
    exact ⟨⟨rfl, rfl, rfl, by decide⟩, rfl, by decide, rfl, rfl, fun _ => rfl, by decide +kernel, rfl, rfl, rfl, rfl, by decide +kernel,
      by decide +kernel⟩

/-- Vector registers over mapped memory: v2 holds the indices 0x1000 on. -/
def mappedVec : State := (mappedRegs [(3, 0)]).modCore 0 fun c =>
  { c with grant := 8, vtags := [(1, 4), (2, 4)], vregs := [(2, [0x1000, 0x1001, 0x1002, 0x1003, 0x1004, 0x1005, 0x1006, 0x1007])] }

theorem placed_of {k n : Nat} {s : State} : ∀ l : List Nat, (∀ va ∈ l, va % n = 0 ∧
      s.translateParts k (partsOf va n) .atomic = (s, .ok (target va n)) ∧ (s.modCore k fun c => Spec.unread c (.dev va) n) = s) →
    Spec.Placed k n s l s (l.map fun va => (va, va, false))
  | [], _ => ⟨rfl, rfl⟩
  | va :: r, h => by
    obtain ⟨ha, ht, hu⟩ := h va (List.mem_cons_self ..)
    refine ⟨ha, s, _, va, _, ht, rfl, rfl, ?_⟩
    rw [hu]
    exact placed_of r fun x hx => h x (List.mem_cons_of_mem _ hx)

theorem wit_VectorMemory_atomics : (mappedVec).me.vtag 1 = 4 ∧ Spec.count mappedVec.me 4 = 8 ∧
    ∃ s1 ps, Spec.Placed mappedVec.cur 8 (mappedVec.at 4)
      ((List.range 8).map fun e => Spec.past (mappedVec.me.reg 3) (Spec.sv 4 (Spec.elem mappedVec.me 4 2 e) * 8)) s1 ps :=
  ⟨rfl, rfl, _, _, placed_of _ (by decide +kernel)⟩

theorem wit_VectorMovement : Quiet (probeVec 256 [(1, 1), (2, 1)] [(3, 4095)]) ∧ (probeVec 256 [(1, 1), (2, 1)] []).me.grant ≠ 0 ∧
    (probeVec 256 [(1, 1), (2, 1)] [(3, 4095)]).plain 3 ∧ (probeVec 256 [(1, 1), (2, 1)] []).mayWrite 4 ∧
    tagDefined ((probeVec 256 [(1, 1), (2, 1)] []).me.vtag 1) = true ∧ Spec.isInt ((probeVec 256 [(1, 1), (2, 1)] []).me.vtag 2) ∧
    Spec.count (probeVec 256 [(1, 1), (2, 1)] []).me 1 = 2 ^ 11 ∧ Spec.count (probeVec 256 [(1, 0x10)] []).me 0x10 = 2 ^ 12 ∧
    Spec.isFp 0x13 ∧ (5 : BitVec 3).toNat ≤ 5 ∧ (probeVec 256 [(1, 0)] []).me.vtag 1 ≤ 8 := by
  simp only [Spec.isInt, Spec.isFp]
  exact ⟨⟨rfl, rfl, rfl, by decide⟩, by decide, rfl, ⟨rfl, fun h => absurd h.1 (by decide)⟩, rfl, by decide, rfl, rfl, by decide, by decide, by decide⟩

/-- A descriptor of kind 1 with its value inline. -/
def oneTile : List Word := [1, 0, 0x4020000000000000, 7]

/-- Kind 1 is declared to the region; w4 to w7 hold a descriptor of it, as does the array at 0x5000, which w3 names; w2 counts one. -/
def declared (n : Nat) : State :=
  let s := mappedRegs [(3, 0x1FFFFFFF005000), (2, 1), (4, 1), (6, 0x4020000000000000), (7, 7)]
  (({ s with hbm := s.hbm.setWord 0x10000 2 }.modRegion 0 fun g => { g with eff := { g.eff with kinds := 0x10000 } })).modCore 0 fun c =>
    { c with arr := ((c.arr.setWord 0x5000 1).setWord 0x5010 0x4020000000000000).setWord 0x5018 7, pcnt := n }

/-- The region of the probe, with kind 1 declared. -/
def declaredRegion : Region := { probeRegion 0 with eff := { (probeRegion 0).eff with kinds := 0x10000 } }

/-- What the kind table's read leaves. -/
def kindRead (s : State) : State := (s.kindEntry 0 0x10000 1).1

/-- Whether a computation answers `v`. -/
def answers {α ε : Type} [DecidableEq α] (r : Except ε α) (v : α) : Bool := match r with | .ok x => decide (x = v) | .error _ => false

theorem answers_eq {α ε : Type} [DecidableEq α] {r : Except ε α} {v : α} (h : answers r v = true) : r = .ok v := by
  cases r with
  | error e => cases h
  | ok x => exact congrArg _ (of_decide_eq_true h)

theorem reads_of {σ α ε : Type} [DecidableEq α] {r : σ × Except ε α} {v : α} (h : answers r.2 v = true) : r = (r.1, .ok v) :=
  Prod.ext rfl (answers_eq h)

/-- Whether a computation fails. -/
def fails {α ε : Type} (r : Except ε α) : Bool := match r with | .ok _ => false | .error _ => true

theorem fails_eq {α ε : Type} {r : Except ε α} (h : fails r = true) : ∃ e, r = .error e := by
  cases r with
  | error e => exact ⟨e, rfl⟩
  | ok x => cases h

theorem declared_quiet (n : Nat) : Quiet (declared n) := ⟨rfl, rfl, rfl, by intro r hr; cases hr⟩

theorem wit_InputsAndProducts : (∀ n ∈ [0, 63, 64], Spec.InBody (declared n) (probeFiring 0 0 0)) ∧ isStager (declared 0).cur = false ∧
    (declared 0).region? 0 = some declaredRegion ∧ (declared 0).me.arr.wf = true ∧ (declared 63).me.pcnt < 64 ∧ (declared 64).me.pcnt = 64 ∧
    (∀ i, i < 4 → (declared 0).plain (quadReg 1 + BitVec.ofNat 5 i)) ∧ (declared 0).plain 3 ∧ (declared 0).plain 2 ∧ (declared 0).mayWrite 5 ∧
    (∀ u, u = kindRead ((declared 63).at 4) → Spec.Insertable declaredRegion ((declared 63).at 4) [oneTile] u) ∧
    (declared 0).me.reg 3 = 0x1FFFFFFF005000 ∧ (declared 0).me.reg 2 = 1 ∧
    loadWordsM 0x1FFFFFFF005000 4 ((declared 63).at 4) = .ok (oneTile, (declared 63).at 4) ∧ fours oneTile = [oneTile] := by
  refine ⟨?_, rfl, rfl, by decide +kernel, by decide, by decide, ?_, rfl, rfl, ⟨rfl, fun h => absurd h.1 (by decide)⟩, ?_, by decide +kernel,
    by decide +kernel, answers_eq (by decide +kernel), rfl⟩
  · intro n _
    exact ⟨rfl, rfl, rfl⟩
  · intro i _
    match i with
    | 0 | 1 | 2 | 3 => rfl
  · rintro u rfl
    exact ⟨kindRead ((declared 63).at 4), some (0, 0), reads_of (by decide +kernel), by decide, rfl⟩

/-- A descriptor of kind 1 whose value is in memory, which kind 1 does not allow. -/
def farTile : List Word := [1, 0, 0x20000000000000, 7]

/-- `declared` with that descriptor in w4 to w7 and in the array. -/
def undeclared : State := (declared 63).modCore 0 fun c =>
  { c.setReg 6 0x20000000000000 with arr := (c.setReg 6 0x20000000000000).arr.setWord 0x5010 0x20000000000000 }

theorem wit_InputsAndProducts_fails : Spec.InBody undeclared (probeFiring 0 0 0) ∧ undeclared.region? 0 = some declaredRegion ∧
    undeclared.me.pcnt < 64 ∧ [undeclared.me.reg 4, undeclared.me.reg 5, undeclared.me.reg 6, undeclared.me.reg 7] = farTile ∧
    (undeclared.at 4).kindEntry 0 0x10000 1 = (kindRead (undeclared.at 4), .ok (some (0, 0))) ∧ insertReason farTile (some (0, 0)) = 3 ∧
    loadWordsM 0x1FFFFFFF005000 4 (undeclared.at 4) = .ok (farTile, undeclared.at 4) ∧ fours farTile = [] ++ farTile :: [] ∧
    Spec.Insertable declaredRegion (undeclared.at 4) [] (undeclared.at 4) :=
  ⟨⟨rfl, rfl, rfl⟩, rfl, by decide, by decide +kernel, reads_of (by decide +kernel), by decide +kernel, answers_eq (by decide +kernel), rfl, rfl⟩

theorem wit_InputsAndProducts_none : ({ probe with firings := [] }).firingOf 0 = none ∧ ({ probe with firings := [] }).firingOf 0 = none ∨
    (probeHandler 0 0).me.inHandler = true := .inl ⟨rfl, rfl⟩

/-- A BOOSTED firing (rule class 2) with one kind of operation, READ or not, an undo header, and w3. -/
def boosted (read : Bool) (undo w3 : Word) (fs : List Filter) (older : List Firing) : State :=
  let s := probeRegs [(3, w3)]
  ({ s with filters := fs, firings := s.firings ++ older }.modRegion 0 fun g => { g with rcb := 0x20000, eff := { g.eff with
      rules := [[0x11, 1, 0, 0, 0x1FFFFFFF004000, 0, 0, 0]], commRows := [0],
      commInv := [if read then 0x20000000000000 else 0x1FFFFFFF004000] } }).modCore 0 fun c => { c with arr := c.arr.setWord 0x1800 undo }

/-- An older firing of the region, which holds object 7. -/
def elder : Firing := { probeFiring 9 0 1 with stamp := 0 }

/-- The firing of `boosted`, made younger. -/
def younger (s : State) : State := { s with firings := s.firings.map fun f => if f.id = 0 then { f with stamp := 1 } else f }

theorem wit_RegionsAndChildren : ∃ g, (boosted false 318 7 [] []).region? 0 = some g ∧ Quiet (boosted false 318 7 [] []) ∧
    (boosted false 318 7 [] []).plain 3 ∧ Spec.InBody (boosted false 318 7 [] []) (probeFiring 0 0 0) ∧ (boosted false 318 7 [] []).plain 2 ∧
    (boosted false 318 7 [] []).mayWrite 5 ∧ (boosted false 318 7 [] []).regionOf 0 = some g ∧ g.eff.commRows.length = 1 ∧
    (boosted false 318 7 [] []).rivals (probeFiring 0 0 0) 7 0 = [] ∧ (∃ u, ((boosted false 318 7 [] []).at 4).recordOp (probeFiring 0 0 0) 7 0 = some u) :=
  ⟨_, rfl, ⟨rfl, rfl, rfl, by decide⟩, rfl, ⟨rfl, rfl, rfl⟩, rfl, ⟨rfl, fun h => absurd h.1 (by decide)⟩, rfl, rfl, by decide +kernel, ⟨_, rfl⟩⟩

theorem wit_RegionsAndChildren_state : let s := boosted false 318 7 [] []
    s.classOf (probeFiring 0 0 0) = 2 ∧ s.me.arr.wf = true ∧ s.me.isThread = false ∧ s.me.undo = false ∧ s.me.ucnt ≠ 319 ∧
    (boosted false 319 7 [] []).me.ucnt = 319 ∧ (boosted true 319 7 [] []).me.ucnt = 319 ∧
    ((((boosted true 319 7 [] []).region? 0).map fun g => (g.eff.commInv.getD 0 0).getLsbD 53) = some true) := by
  refine ⟨?_, ?_, ?_, ?_, ?_, ?_, ?_, ?_⟩ <;> decide +kernel

/-- The state in which firing 9 of the region holds object 7. -/
def contended : State := boosted false 0 7 [{ region := 0, obj := 7, holder := 9, kinds := 2 }] [elder]

theorem wit_RegionsAndChildren_elder : (∃ h ∈ (younger contended).rivals (probeFiring 0 0 0) 7 0, h.stamp < 1) ∧
    contended.rivals (probeFiring 0 0 0) 7 0 ≠ [] ∧ ∀ h ∈ contended.rivals (probeFiring 0 0 0) 7 0, (probeFiring 0 0 0).stamp ≤ h.stamp :=
  ⟨⟨elder, by decide +kernel, by decide⟩, by decide +kernel, by decide +kernel⟩

/-- An entry that holds object 7 for firing 9, with no kind. -/
def idleEntry : Filter := { region := 0, obj := 7, holder := 9, kinds := 0 }

theorem wit_RegionsAndChildren_full : ∀ n, 4096 ≤ n → (boosted false 0 7 (List.replicate n idleEntry) []).rivals (probeFiring 0 0 0) 7 0 = [] ∧
    (boosted false 0 7 (List.replicate n idleEntry) []).recordOp (probeFiring 0 0 0) 7 0 = none := by
  intro n hn
  have h : (boosted false 0 7 (List.replicate n idleEntry) []).filters = List.replicate n idleEntry := rfl
  have hk : ((boosted false 0 7 (List.replicate n idleEntry) []).filters.filter fun e =>
      e.region == (probeFiring 0 0 0).region && e.obj == 7 && e.holder != (probeFiring 0 0 0).id && e.kinds &&& ~~~0 != 0) = [] := by
    rw [h, List.filter_replicate_of_neg (by decide +kernel)]
  refine ⟨by unfold State.rivals; rw [hk]; rfl, ?_⟩
  unfold State.recordOp
  rw [h, if_neg (by simp [idleEntry, probeFiring]), if_pos]
  rw [List.filter_replicate_of_pos (by simp [idleEntry, probeFiring]), List.length_replicate]
  exact hn

theorem wit_RegionsAndChildren_thread : ({ probe.me with run := .thread 0 0 0 false } : Machine.Core).isThread = true ∧
    ((boosted false 0 31 [] []).me.reg 3).toNat = 31 ∧ ((boosted false 0 32 [] []).me.reg 3).toNat = 32 ∧ ((boosted false 0 1 [] []).me.reg 3).toNat % 256 ≠ 0 ∧
    (∃ w, loadWordsM 0x1FFFFFFF005000 32 ((boosted false 0 0x1FFFFFFF005000 [] []).at 4) =
      .ok (w, (boosted false 0 0x1FFFFFFF005000 [] []).at 4) ∧ (w.getD 0 0).toNat % 2 ^ 53 ≠ 0x20000) ∧
    ((boosted false 0 0x1FFFFFFF005000 [] []).me.reg 3).toNat % 256 = 0 :=
  ⟨rfl, by decide +kernel, by decide +kernel, by decide +kernel, ⟨List.replicate 32 0, answers_eq (by decide +kernel), by decide +kernel⟩,
    by decide +kernel⟩

theorem wit_RegionsAndChildren_own : ∃ s : State, loadWordsM 0x1FFFFFFF005000 32 (s.at 4) = .ok (0x20000 :: List.replicate 31 0, s.at 4) :=
  ⟨(boosted false 0 0x1FFFFFFF005000 [] []).modCore 0 fun c => { c with arr := c.arr.setWord 0x5000 0x20000 }, answers_eq (by decide +kernel)⟩

theorem wit_UndoPush : ∀ n ∈ [0, 318], (probeBy fun c => { c with arr := c.arr.setWord 0x1800 (BitVec.ofNat 64 n) }).me.arr.wf = true ∧
    (probeBy fun c => { c with arr := c.arr.setWord 0x1800 (BitVec.ofNat 64 n) }).me.ucnt = n := by decide +kernel

/-- A rule record of one slot without guards. -/
def plainRule : List Word := [0x1, 1, 0, 0, 0x1FFFFFFF004000, 0, 0, 0]

/-- A home slice's copy of a line. -/
def atHome (n : Nat) (d : BitVec 1024) : Line := { num := n, data := d, dirty := 0, poison := 0, hint := .default, way := 0, uo := false }

/-- The line of that rule record. -/
def ruleLine : Line := atHome 544 0x1FFFFFFF0040000000000000000000000000000000000000000000000000010000000000000001

/-- Mapped memory with lines at their home slices: a kind table at 0x10000, that rule record at 0x11000 and constants of zero at 0x12000. -/
def tables : State :=
  { mapped with homes := [atHome 64 0x4001, atHome 128 0x40000000064F, atHome 512 2, ruleLine, atHome 576 0, atHome 577 0] }

/-- An RCB of one rule, without a parent. -/
def goodRcb : List Word := [0, 0x1000000000000, 0x11000, 0x10000, 0, 0x12000] ++ List.replicate 26 0

/-- What an RCB without a parent meets first: one for each check of R74 before the kind table. -/
theorem wit_Activation_checks : ∃ big : State, Spec.FailsCheck probe 0 0 0x20010 goodRcb 1 ∧ Spec.FailsCheck probe 0 0 0x20000 [0, 4] 2 ∧
    Spec.FailsCheck { probe with bays := 1 } 0 0 0x20000 [0, 8] 3 ∧ Spec.FailsCheck probe 0 0 0x20000 [] 4 ∧ Spec.FailsCheck probe 0 0 0 goodRcb 5 ∧
    Spec.FailsCheck big 0 0 0x20000 goodRcb 6 := by
  refine ⟨{ probe with regions := List.replicate 4096 (probeRegion 0) }, .inl (by decide), ⟨by decide +kernel, by decide +kernel⟩,
    ⟨by decide +kernel, by decide⟩, ?_, .inr ⟨probeRegion 0, by decide +kernel, rfl, rfl, rfl⟩, ?_⟩
  · show ¬ (1 ≤ _ ∧ _)
    decide +kernel
  · show 4096 ≤ (List.replicate 4096 (probeRegion 0)).length
    exact Nat.le_of_eq (List.length_replicate ..).symm

theorem wit_Activation_good : fieldNat (goodRcb.getD 0 0) 0 53 = 0 ∧ fieldNat (goodRcb.getD 1 0) 48 9 = 1 ∧
    (∀ i, 1 ≤ i → i ≤ 6 → ¬ Spec.FailsCheck tables 0 0 0x20000 goodRcb i) ∧ (∀ x ∈ tables.regions, x.id ≠ tables.nextRegion) ∧
    Spec.PlainRule 0x1 1 0x1FFFFFFF004000 (0, 0) := by
  refine ⟨by decide +kernel, by decide +kernel, ?_, by decide +kernel, ⟨by decide +kernel, by decide +kernel, by decide, by decide +kernel⟩⟩
  intro i h1 h6
  match i, h1, h6 with
  | 1, _, _ => show ¬ (_ ∨ _); decide +kernel
  | 2, _, _ => show ¬ (_ ∧ _); decide +kernel
  | 3, _, _ => show ¬ (_ ∧ _); decide +kernel
  | 4, _, _ => show ¬ ¬ (_ ∧ _); decide +kernel
  | 5, _, _ => show ¬ (_ ∨ ∃ g ∈ _, _); decide +kernel
  | 6, _, _ => show ¬ (4096 ≤ _); decide +kernel

/-- The state after a device read. -/
def deviceRead (s : State) (va n : Nat) : State := (s.devWords 0 va n).1

theorem deviceRead_eq {s : State} {va n : Nat} {ws : List Word} (h : answers (s.devWords 0 va n).2 ws = true) :
    s.devWords 0 va n = (deviceRead s va n, .ok ws) := reads_of h

theorem kindRead_eq {s : State} {v : Option (Word × Word)} (h : answers (s.kindEntry 0 0x10000 1).2 v = true) :
    s.kindEntry 0 0x10000 1 = (kindRead s, .ok v) := reads_of h

/-- `tables` after a device read: lines have come to the front, and a party outside every cluster has asked for them. -/
def afterRead (ls : List Line) (asked : List Nat) : State := { tables with homes := ls, predictor := asked.map fun n => (n, [(256, 0)]) }

/-- After each of the first three reads of an activation. -/
def read1 : State := afterRead [atHome 512 2, atHome 64 0x4001, atHome 128 0x40000000064F, ruleLine, atHome 576 0, atHome 577 0] [128, 64, 512]
@[inherit_doc read1] def read2 : State :=
  afterRead [ruleLine, atHome 64 0x4001, atHome 128 0x40000000064F, atHome 512 2, atHome 576 0, atHome 577 0] [128, 64, 512, 544]
@[inherit_doc read1] def read3 : State :=
  afterRead [atHome 512 2, atHome 64 0x4001, atHome 128 0x40000000064F, ruleLine, atHome 576 0, atHome 577 0] [128, 64, 512, 544]

theorem wit_Activation_read1 : tables.devWords 0 0x10000 2 = (read1, .ok [2, 0]) := by decide +kernel

theorem wit_Activation_read2 : read1.devWords 0 0x11000 8 = (read2, .ok plainRule) := by decide +kernel

theorem wit_Activation_read3 : read2.kindEntry 0 0x10000 1 = (read3, .ok (some (0, 0))) := by decide +kernel

theorem wit_Activation_read4 : answers (read3.devWords 0 0x12000 32).2 (List.replicate 32 0) = true := by decide +kernel

theorem wit_Activation_done : (tables.activate 0 0 0x20000 goodRcb false).2 = 0 := by decide +kernel

theorem wit_Activation_kinds : (∃ e, (probe.devWords 0 0x10000 2).2 = .error e) ∧ answers (mapped.devWords 0 0x13000 2).2 [0, 0] = true ∧
    ¬ (2 ≤ (0 : Word).toNat ∧ (0 : Word).toNat ≤ 65536 ∧ (0 : Word) = 0) := ⟨fails_eq (by decide +kernel), by decide +kernel, by decide⟩

theorem wit_FiringEnds : Spec.InBody probe (probeFiring 0 0 0) ∧ probe.me.poisonAt = none ∧ probe.engineBusy 0 = false ∧ probe.insertTurn [] = true ∧
    probe.firingOf probe.cur = some (probeFiring 0 0 0) ∧ probe.me.undo = false ∧ probe.classOf (probeFiring 0 0 0) = 0 ∧
    (probeFiring 0 0 0).cores = [0] ∧ (probeFiring 0 0 0).copy = 0 ∧ probe.region? 0 = some (probeRegion 0) ∧ (probe.core 0).pcnt = 0 ∧
    ¬ (probe.classOf (probeFiring 0 0 0) = 2 ∧ probe.me.inHandler = true ∧ probe.me.opened = true) :=
  ⟨⟨rfl, rfl, rfl⟩, rfl, rfl, by decide, rfl, rfl, by decide +kernel, rfl, rfl, rfl, rfl, fun h => absurd h.1 (by decide +kernel)⟩

/-- The current core's requester. -/
def probeWho (k : Nat) : Who := { core := k, space := 0, firing := some 0, region := none, copy := 0, handler := false, ended := false }

/-- A command of the probe's firing. -/
def probeCmd (op : Nat) (ops : List Word) : EngCmd :=
  { who := probeWho 0, at_ := 0, op := op, ops := ops, report := 0, begun := false, done := 0, pos := 0, acc := [], note := none, code := none, lost := none }

theorem wit_FiringEnds_waits : (probe.modCluster 0 fun x => { x with copyQ := [probeCmd 0 []] }).engineBusy 0 = true ∧
    (probe.noteInsert [1]).insertTurn [] = false := by decide +kernel

/-- The firing of `boosted` at the return of an undo routine, with `n` entries left. -/
def undoing (n : Word) : State := (boosted false n 0 [] []).modCore 0 fun c => { c with undo := true, pc := 0x1FFFFFFF001800 }

theorem wit_FiringEnds_undo : ∀ n : Word, (undoing n).firingOf (undoing n).cur = some (probeFiring 0 0 0) ∧ (undoing n).me.isThread = false ∧
    (undoing n).me.undo = true ∧ (undoing n).me.poisonAt = none ∧ (undoing n).agenda = [] ∧ (undoing n).me.run = .firing 0 ∧
    (undoing n).me.stopped = false ∧ (undoing n).me.waitRecord = none ∧ (undoing n).me.deliver = false ∧
    (undoing n).me.pc = 0x1FFFFFFF001800 ∧ (boosted false n 0 [] []).me.undo = false ∧ (boosted false n 0 [] []).me.inHandler = false :=
  fun _ => ⟨rfl, rfl, rfl, rfl, rfl, rfl, rfl, rfl, rfl, rfl, rfl, rfl⟩

theorem wit_FiringEnds_entries : ∀ n ∈ [0, 1, 2], (undoing (BitVec.ofNat 64 n)).me.ucnt = n ∧ (undoing (BitVec.ofNat 64 n)).me.arr.wf = true := by
  decide +kernel

theorem wit_FiringEnds_class : (boosted false 0 0 [] []).classOf (probeFiring 0 0 0) = 2 := by decide +kernel

theorem wit_FiringEnds_regs : ∀ m, m < 32 → (undoing 1).me.regOff m + 8 ≤ 0x1800 := by
  have h : (undoing 1).me.regOff 0 = 0x400 := by decide +kernel
  intro m hm
  simp only [Core.regOff] at h ⊢
  omega

theorem wit_FiringEnds_handler : (probeHandler 0 0).me.inHandler = true ∧ (probeHandler 0 0).me.poisonAt = none ∧
    ({ probe with firings := [] }).firingOf 0 = none ∧ Quiet (undoing 1) := ⟨rfl, rfl, rfl, rfl, rfl, rfl, by decide⟩

/-- `probe` runs its firing on control core `k`, with registers. -/
def control (k : Nat) (rs : List (Nat × Word)) : State := (probeControl k).modCore k fun c => rs.foldl (fun c e => c.setReg e.1 e.2) c

/-- A MATRIX firing on the stager and the issuer of cell 0, whose issuer has buffered a product. -/
def matrixFiring : State :=
  let s := { control 12 [] with firings := [{ probeFiring 0 0 12 with cores := [8, 12] }] }
  (s.modRegion 0 fun g => { g with eff := { g.eff with rules := [[9, 1, 0, 0, 0x1FFFFFFF004000, 0x1FFFFFFF004000, 0, 0]] } }).modCore 12
    fun c => { c with pcnt := 1 }

theorem wit_FiringEnds_matrix : let f : Firing := { probeFiring 0 0 12 with cores := [8, 12] }
    (∀ x ∈ f.cores, x < 0x10000) ∧ matrixFiring.firing? 0 = some f ∧ (matrixFiring.region? 0).isSome = true ∧ matrixFiring.classOf f = 1 ∧
    (∃ x ∈ f.cores, x ≠ 12 ∧ x ∉ f.committed) ∧ (matrixFiring.core ((f.cores.find? isIssuer).getD 12)).pcnt = 1 := by decide +kernel

theorem wit_FiringEnds_open : ((boosted false 513 0 [] []).modCore 0 fun c => { c with cr := { c.cr with ctx := 0x200 } }).me.inHandler = true ∧
    ((boosted false 513 0 [] []).modCore 0 fun c => { c with cr := { c.cr with ctx := 0x200 } }).me.opened = true ∧
    ((boosted false 513 0 [] []).modCore 0 fun c => { c with cr := { c.cr with ctx := 0x200 } }).classOf (probeFiring 0 0 0) = 2 := by
  decide +kernel

/-- The issuer of cell 0, with accumulator tags of FP32. -/
def issuer (rs : List (Nat × Word)) : State := (control 12 rs).modCore 12 fun c => { c with atags := [(0, 0x14), (1, 0x14), (2, 0x14), (3, 0x14)] }

/-- A product of panel 0 for a1. -/
def product (op : Nat) : CellCmd :=
  { who := probeWho 12, at_ := 0, op := op, ops := [0x10000000, 0x20], acc := 1, done := 0, begun := false }

/-- The issuer with that product parked. -/
def issuerParked (op : Nat) : State := (issuer [(3, 0x10000000), (2, 0x20)]).modCell 0 0 fun x => { x with parked := some (product op) }

/-- The other cells' claims. -/
def withClaims (s : State) (n : Option Nat) : State := [1, 2, 3].foldl (fun s c => s.modCell 0 c fun x => { x with claim := n }) s

theorem wit_MatrixIssue : Quiet (issuer [(3, 0x10000000)]) ∧ isIssuer (issuer [(3, 0x10000000)]).cur = true ∧
    (issuer [(3, 0x10000000)]).firingOf 12 = some (probeFiring 0 0 0) ∧ ((issuer []).cell 0 0).parked = none ∧ ((issuer []).cell 0 0).matrix = [] ∧
    clusterOf 12 % 32 < 16 ∧ ¬ clusterOf 268 % 32 < 16 ∧ isIssuer 268 = true ∧ (issuer [(3, 0x10000000)]).plain 3 ∧
    (issuer [(3, 0x10000000)]).plain 2 ∧ (tget 0 (issuer []).me.atags 1).toNat = 0x14 ∧
    ([0x10000000, 0x17FF0000, 0x8000000000].all fun (d : Word) => fieldNat d 40 24 = 0 ∧ d.getLsbD 15 = false ∧ fieldNat d 28 12 ≠ 0 ∧
      fieldNat d 16 12 + fieldNat d 28 12 ≤ 2048) ∧ ((issuer [(3, 0x10000000)]).me.reg 2).toNat % 32 = 0 ∧ isIssuer probe.cur = false :=
  ⟨⟨rfl, rfl, rfl, by decide⟩, rfl, rfl, rfl, rfl, by decide, by decide, rfl, rfl, rfl, rfl, by decide +kernel, by decide +kernel, rfl⟩

theorem wit_MatrixIssue_claims : (∀ c, c < 4 → c ≠ 0 → ((withClaims (issuer []) (some 0)).cell 0 c).claim = some 0) ∧
    ¬ (∀ c, c < 4 → c ≠ 0 → ((issuer []).cell 0 c).claim = some 0) ∧
    (∀ c, c < 4 → c ≠ 0 → ((issuer []).core (8 + c)).run = .idle ∧ ((issuer []).core (12 + c)).run = .idle ∧ ((issuer []).cell 0 c).staging = [] ∧
      ((issuer []).cell 0 c).claim = none) ∧ ((withClaims (issuer []) (some 9)).cell 0 3).claim = some 9 := by decide +kernel

theorem wit_MatrixIssue_resume : ∀ op ∈ [3, 4, 5, 6], ((issuerParked op).cell 0 0).parked = some (product op) ∧ ((issuerParked op).cell 0 0).reloading = none ∧
    (product op).acc = 1 ∧ (product op).ops.getD 0 0 = (issuerParked op).me.reg 3 ∧ (product op).ops.getD 1 0 = (issuerParked op).me.reg 2 := by
  decide +kernel

theorem wit_MatrixIssue_tag : isIssuer (control 12 []).cur = true ∧ (control 12 []).firingOf 12 = some (probeFiring 0 0 0) ∧
    (tget 0 (control 12 []).me.atags 1).toNat = 0 ∧ ((issuer []).cell 0 0).parked = none := ⟨rfl, rfl, rfl, rfl⟩

/-- The issuer with a tile at its window's offset 0x8000, an operand word, the claims of a group and column scales in panel 0 of every cell. -/
def drain (w : Word) : State :=
  let s := [0, 1, 2, 3].foldl (fun s c => s.modCell 0 c fun x => { x with panels := [(0, (0x10000001202, 0))] })
    (withClaims (issuer [(3, 0x1FFFFFFF008000), (2, w)]) (some 0))
  s.modCore 12 fun c => { c with spN := 16 }

theorem drain_quiet (w : Word) : Quiet (drain w) := ⟨rfl, rfl, rfl, fun r h => by
  rw [show ((drain w).cluster (clusterOf (drain w).cur)).sfu = [] from by with_unfolding_all rfl] at h
  cases h⟩

theorem wit_DrainAndFill (w : Word) : Quiet (drain w) ∧ isIssuer (drain w).cur = true ∧ (drain w).firingOf 12 = some (probeFiring 0 0 0) ∧
    (drain w).plain 3 ∧ (drain w).plain 2 ∧ (∀ a, (drain w).me.arr.isBad a = false) ∧ ((drain w).cell 0 0).parked = none ∧
    ((drain w).cell 0 0).matrix = [] := ⟨drain_quiet w, rfl, rfl, rfl, rfl, fun _ => rfl, rfl, rfl⟩

/-- Operand words with the side of the tile in cells, the format's code, its bytes and the pitch: each format without SCALE, SCALE with panel 0, and the
largest tile of a claim. -/
def drainWords : List (Word × Nat × Nat × Nat × Nat) :=
  [(0x02000014, 1, 0x14, 4, 512), (0x01000013, 1, 0x13, 2, 256), (0x00800011, 1, 0x11, 1, 128), (0x00800111, 1, 0x11, 1, 128),
    (0x04000114, 2, 0x14, 4, 1024)]

theorem wit_DrainAndFill_words : (drainWords.all fun e =>
    let s := drain e.1
    let w := s.me.reg 2
    decide (w.toNat % 256 = e.2.2.1 ∧ tagBits e.2.2.1 / 8 = e.2.2.2.1 ∧ fieldNat w 16 20 = e.2.2.2.2 ∧ w.toNat / 2 ^ 36 = 0 ∧ w.getLsbD 15 = false ∧
      e.2.2.2.2 % 16 = 0 ∧ e.2.1 * 128 * e.2.2.2.1 ≤ e.2.2.2.2 ∧ (s.me.reg 3).toNat % 2 ^ 53 = Spec.sysBase + 0x8000 ∧ s.me.spN = 16 ∧
      (e.2.1 * 128 - 1) * e.2.2.2.2 + e.2.1 * 128 * e.2.2.2.1 ≤ 16 * 0x4000) && s.me.arr.wf &&
    [true, false].all fun b => !s.heldBy 0 (s.cluster 0).arrivals
      (tileRanges 12 (Spec.sysBase + 0x8000) e.2.2.2.2 (e.2.1 * 128) (e.2.1 * 128 * e.2.2.2.1) b)) = true := by decide +kernel

theorem wit_DrainAndFill_scale : ∀ c, c < 4 → fieldNat (((drain 0x04000114).cell 0 c).panel (fieldNat (0x04000114 : Word) 9 6)).1 0 2 = 2 ∧
    fieldNat (((drain 0x04000114).cell 0 c).panel 0).1 8 8 = 0x12 ∧ (c ≠ 0 → ((drain 0x04000114).cell 0 c).claim = some 0) ∧
    (tget 0 (drain 0x04000114).me.atags 1).toNat = 0x14 := by decide +kernel

/-- The stager of cell 0, with semaphore 7 at a count. -/
def stager (rs : List (Nat × Word)) (n : Nat) : State := (control 8 rs).modCell 0 0 fun x => { x with sems := [(7, n)] }

theorem wit_StagingAndSemaphores : Quiet (stager [] 0) ∧ isGeneral (stager [] 0).cur = false ∧ isStager (stager [] 0).cur = true ∧
    (stager [] 0).firingOf 8 = some (probeFiring 0 0 0) ∧ (stager [] 0).plain 3 ∧ (stager [] 0).plain 2 ∧ (stager [] 0).plain 4 ∧
    (stager [] 0).mayWrite 4 ∧ ((stager [] 0).cell 0 0).staging.length < 16 ∧ (stager [] 0).semWaits 8 = false ∧ (stager [] 0).me.isThread = false ∧
    ((stager [(3, 255)] 0).me.reg 3).toNat < 256 ∧ ¬ (fieldNat ((stager [(3, 255)] 0).me.reg 3) 6 2 = 0) ∧
    ((stager [] 0).cluster 0).panelNamed 0 63 = false ∧ panelState (((stager [] 0).cell 0 0).panel 63).1 ≠ 1 ∧
    tget 0 ((stager [] 14).cell 0 0).sems (7 : BitVec 3).toNat = 14 ∧ tget 0 ((stager [] 15).cell 0 0).sems (7 : BitVec 3).toNat = 15 ∧
    tget 0 ((stager [] 1).cell 0 0).sems (7 : BitVec 3).toNat = 1 ∧ tget 0 ((stager [] 0).cell 0 0).sems (7 : BitVec 3).toNat = 0 :=
  ⟨⟨rfl, rfl, rfl, by decide⟩, rfl, rfl, rfl, rfl, rfl, rfl, ⟨rfl, fun h => absurd h.1 (by decide)⟩, by decide, rfl, rfl, by decide +kernel,
    by decide +kernel, by decide +kernel, by decide +kernel, rfl, rfl, rfl, rfl⟩

theorem wit_units_turn : (stager [] 14).inTurn (uSEM 0 7) = true ∧ (behind (uSEM 0 7) (stager [] 14)).inTurn (uSEM 0 7) = false ∧
    tget 0 ((behind (uSEM 0 7) (stager [] 14)).cell 0 0).sems (7 : BitVec 3).toNat = 14 ∧ probe.inTurn uENGINES = true ∧
    (behind uENGINES probe).inTurn uENGINES = false := by decide +kernel

theorem wit_Staging_words : ([0x200080100000, 0x8001110000, 0x80011101F8].all fun (w : Word) => fieldNat w 52 12 = 0 ∧ fieldNat w 9 7 = 0 ∧ 1 ≤ fieldNat w 24 8 ∧
      fieldNat w 24 8 ≤ 128 ∧ fieldNat w 16 8 ∈ [0x10, 0x11, 0x13, 0x14, 0x15] ∧ fieldNat w 32 20 % 16 = 0 ∧
      fieldNat w 24 8 * 16 * tagBits (fieldNat w 16 8) ≤ fieldNat w 32 20 ∧ fieldNat w 0 9 + fieldNat w 24 8 * tagBits (fieldNat w 16 8) ≤ 512) ∧
    ([0x100010000, 0x15800003F].all fun (w : Word) => fieldNat w 36 28 = 0 ∧ 1 ≤ fieldNat w 16 12 ∧ fieldNat w 16 12 ≤ 2048 ∧
      fieldNat w 28 8 ∈ [0x10, 0x12, 0x13, 0x14, 0x15] ∧ fieldNat w 6 2 = 0) ∧ fieldNat (0x1000100C0 : Word) 6 2 = 3 := by decide +kernel

theorem wit_EngineCommands : Quiet probe ∧ probe.plain 2 ∧ (∀ i, i < 4 → probe.plain (quadReg 1 + BitVec.ofNat 5 i)) ∧
    (∀ e, e < 3 → ((probe.cluster 0).queue e).length < 32) ∧ isGeneral probe.cur = true ∧ (probe.cluster 0).copyQ = [] ∧ (probe.cluster 0).indQ = [] ∧
    (probe.cluster 0).mergeQ = [] ∧ probe.mayWrite 5 ∧ (tget EvLine.zero probePosted.me.evs (7 : BitVec 3).toNat).count = 1 ∧
    (tget EvLine.zero probe.me.evs 0).count = 0 ∧ probe.plain 3 := by
  refine ⟨probe_quiet, rfl, ?_, by decide, rfl, rfl, rfl, rfl, probe_write _, rfl, rfl, rfl⟩
  intro i _
  match i with
  | 0 | 1 | 2 | 3 => rfl
  | n + 4 => omega

theorem wit_EngineCommands_words : Spec.Report 0 false ∧ Spec.Report 0x8000000000000020 false ∧ Spec.Report 0x6000000000000010 true ∧
    gathOk false 0x14000001 = true ∧ gathIsz 0x14000001 = 4 ∧ gathEsz 0x14000001 = 16 ∧ gathOk true 0xFFFF000023000001 = true ∧
    gathIsz 0xFFFF000023000001 = 8 ∧ (2 ^ 32 + 1 : Nat) > 2 ^ 32 ∧ (2 ^ 28 - 1 : Nat) < 2 ^ 28 ∧ ((0 : Word).toNat % 256 = 0) := by
  simp only [Spec.Report]
  decide +kernel

/-- A queue of 16 slots in slot 0 of process 0 of the PF, its ring at 0x10000. -/
def ring (ps : List Packet) (off : Bool) : Queue :=
  { desc := 0x20000, ring := 0x10000, log2n := 4, qprio := 0, ridxVa := 0x20100, widxVa := 0x20200, ridx := 3, widx := 4 + ps.length, qstate := 1,
    qerr := 0, qat := 0, off := off, packets := ps, startAt := 0 }

/-- `mapped` on the PF's slice with that queue; its page table and other lines are at their home slices. -/
def queued (q : Queue) (ls : List Line) : State :=
  let s := mapped.modFunc 0 fun x => { x with procs := x.procs.map fun e => (e.1, { e.2 with queues := [(0, q)] }) }
  { s with homes := [atHome 64 0x4001, atHome 128 0x40000000064F] ++ ls, slice := some 0 }

/-- A packet of a type, in slot 3. -/
def packetWords (type : Nat) : List Word :=
  [BitVec.ofNat 64 type, if type = 0 then 0 else 0x8000, if type = 5 then 0x8100 else 0, if type = 5 then 0x100 else 0, 0, 0, 0, 0]

/-- A line whose doublewords from `i` on are these. -/
def lineOf (n i : Nat) (ws : List Word) : Line := atHome n (BitVec.ofNat 1024 (ws.zipIdx.foldl (fun m e => m + e.1.toNat * 2 ^ (64 * (i + e.2))) 0))

/-- The packet, or one with a reserved word that is not zero. -/
def wordsOf (type : Nat) (bad : Bool) : List Word := if bad then (packetWords type).set 6 1 else packetWords type

/-- The ring with that packet, which has not started, in slot 3. -/
def oneQueued (type : Nat) (bad : Bool) : State := queued (ring [] false) [lineOf 0x201 8 (wordsOf type bad)]

/-- Decidable form of the start of a packet of `oneQueued`. -/
def startsOk (type : Nat) (bad : Bool) : Bool :=
  let s := oneQueued type bad
  let q := ring [] false
  decide (s.queue? 0 0 0 = some q) && s.queueReady 0 0 q && decide (s.packetCount < 64) &&
    decide (chooseQueue ((s.func 0).proc 0).ptrs (s.nowQueues 0 0) = some 0) &&
    (match s.chargeStart 0 0 with
      | some u => answers (u.peekPacket 0 0 q).2 (wordsOf type bad)
      | none => false) && packetOk (s.vectors 0) (wordsOf type bad) == !bad && decide ((wordsOf type bad).getD 0 0 = BitVec.ofNat 64 type)

theorem wit_QueuePackets (bad : Bool) : ∀ type, type < 7 → ∃ u, Spec.Starts (oneQueued type bad) 0 0 0 (ring [] false) (wordsOf type bad) u ∧
    packetOk ((oneQueued type bad).vectors 0) (wordsOf type bad) = !bad ∧ (wordsOf type bad).getD 0 0 = BitVec.ofNat 64 type := by
  intro type h
  have k : ∀ bad : Bool, ∀ type, type < 7 → startsOk type bad = true := by decide +kernel
  have hk := k bad type h
  simp only [startsOk, Bool.and_eq_true, decide_eq_true_eq, beq_iff_eq] at hk
  obtain ⟨⟨⟨⟨⟨⟨h1, h2⟩, h3⟩, h4⟩, h5⟩, h6⟩, h7⟩ := hk
  split at h5
  · exact ⟨_, ⟨h1, h2, h3, h4, _, ‹_›, reads_of h5⟩, h6, h7⟩
  · cases h5

theorem wit_QueuePackets_turn : (oneQueued 2 false).lastInsert.2 = [] ∧
    (∃ n l, ({ oneQueued 2 false with lastInsert := (0, [1]) } : State).lastInsert.2 = (n + 1) :: l) ∧
    ({ oneQueued 2 false with lastInsert := (0, [1]) } : State).lastInsert.1 = (oneQueued 2 false).clock := ⟨rfl, ⟨0, [], rfl⟩, rfl⟩

/-- A packet in progress, with a stream. -/
def running (type : Nat) (t : Option Machine.Stream) : Packet := { index := 3, words := packetWords type, done := false, result := 0, stream := t }

/-- The write index that memory holds. -/
def indexed (n : Word) : State := queued (ring [running 3 none] false) [lineOf 0x404 0 [n], atHome 0x100 0, atHome 0x101 0]

theorem wit_QueuePackets_index : ∀ n ∈ [5, 19, 20, 4], (indexed (BitVec.ofNat 64 n)).queue? 0 0 0 = some (ring [running 3 none] false) ∧
    (∃ u, (indexed (BitVec.ofNat 64 n)).devWords 0 0x20200 1 = (u, .ok [BitVec.ofNat 64 n])) ∧ (ring [running 3 none] false).qstate = 1 ∧
    (ring [running 3 none] false).widx = 5 ∧ (ring [running 3 none] false).ridx + 2 ^ (ring [running 3 none] false).log2n = 19 := by
  intro n h
  have k : ∀ n ∈ [5, 19, 20, 4], answers ((indexed (BitVec.ofNat 64 n)).devWords 0 0x20200 1).2 [BitVec.ofNat 64 n] = true := by decide +kernel
  exact ⟨rfl, ⟨_, reads_of (k n h)⟩, rfl, rfl, rfl⟩

/-- `indexed` without a translation. -/
def unmapped : State := (indexed 5).modFunc 0 fun x => { x with procs := [(0, { Proc.init with queues := [(0, ring [running 3 none] false)] })] }

theorem wit_QueuePackets_fault : unmapped.queue? 0 0 0 = some (ring [running 3 none] false) ∧ ∃ e, (unmapped.devWords 0 0x20200 1).2 = .error e := ⟨rfl, fails_eq (by decide +kernel)⟩

theorem wit_QueuePackets_await : (ring [running 3 none] false).inProgress.find? (fun y => packetType y.words == 3) = some (running 3 none) ∧
    (ring [running 3 none] false).packets = [running 3 none] ∧ (ring [running 3 none] false).off = false ∧
    answers ((indexed 0).statusSeen 0 0 0x8000).2 (some 0) = true ∧
    answers ((queued (ring [running 3 none] false) [lineOf 0x101 0 [1]]).statusSeen 0 0 0x8000).2 none = true := by decide +kernel

/-- A stream at its first command, which memory holds at 0x30000; the word at 0x8080 is 3. -/
def streaming (c : List Word) : State :=
  queued (ring [running 6 (some { va := 0x30000, idx := 0, loops := [] })] false)
    [lineOf 0x600 0 c, atHome 0x100 0, lineOf 0x101 0 [3]]

/-- What reading the command leaves. -/
def commandRead (c : List Word) : State := ((streaming c).devWords 0 0x30000 4).1

/-- The stream of `streaming`. -/
def atStart : Machine.Stream := { va := 0x30000, idx := 0, loops := [] }

/-- The commands: LOOP of 2 runs and of 0, IF taken and passed, START, SEED, WAIT on a word and on a region, SIGNAL, RET. -/
def commands : List (List Word) :=
  [[0x30001, 2, 0, 0], [0x30001, 0, 0, 0], [0x30002, 0x8000, 0, 0], [0x100030002, 0x8000, 0, 0], [3, 0x8000, 0, 0], [4, 0x8000, 0x8000, 0],
   [5, 0x8000, 0, 0], [0x100000005, 0x8000, 0, 0], [0x400000005, 0x8000, 0, 0], [6, 0x8000, 7, 2047], [7, 0, 0, 0]]

theorem wit_CommandStreams : ∀ i, i < 11 → Spec.AtCmd (streaming (commands.getD i [])) 0 0 0 3 atStart (commands.getD i []) (commandRead (commands.getD i [])) := by
  have k : ∀ i, i < 11 → (let c := commands.getD i []
      decide ((streaming c).streamOf 0 0 0 = some (3, atStart)) && (streaming c).onSlice 0 &&
      answers ((streaming c).devWords 0 0x30000 4).2 c && cmdOk ((streaming c).vectors 0) c) = true := by decide +kernel
  intro i h
  have hk := k i h
  simp only [Bool.and_eq_true, decide_eq_true_eq] at hk
  exact ⟨hk.1.1.1, hk.1.1.2, reads_of hk.1.2, hk.2⟩

theorem wit_CommandStreams_words : answers ((commandRead (commands.getD 2 [])).devWords 0 0x8000 1).2 [0] = true ∧
    ((commandRead (commands.getD 4 [])).runStart 0 0 0x8000 false).2.1 ≠ 4 ∧ ((commandRead (commands.getD 5 [])).runSeed 0 0 0x8000 0x8000 0 false).2.1 ≠ 4 ∧
    answers ((commandRead (commands.getD 8 [])).statusSeen 0 0 0x8000).2 (some 3) = true ∧
    ((commandRead (commands.getD 9 [])).devWrite 0 0x8000 (leBytes 8 7)).2 = none ∧ atStart.fits 3 = true := by
  refine ⟨?_, ?_, ?_, ?_, ?_, rfl⟩ <;> decide +kernel

/-- The fields of a register admit a value. -/
def within (v : Word) (fields : Nat) : Bool := decide (v.toNat &&& (2 ^ 64 - 1 - fields) = 0)

/-- A queue descriptor at 0x20000 for slot 0. -/
def described : State := queued (ring [] false) [lineOf 0x400 0 [0x10000, 4, 0x20100, 0x20200], atHome 0x402 0, atHome 0x404 0]

theorem wit_HostRegisters : probe.answers 0 = true ∧ within 0x3FFFFFFFE001 (2 ^ 46 - 2 ^ 13 + 1) = true ∧ within 2 (2 ^ 46 - 2 ^ 13 + 1) = false ∧
    (∃ g ∈ probe.regions, g.func = 0 ∧ g.proc = 0) ∧ within 0x7FFFFFFFFFFFFFF (2 ^ 59 - 1) = true ∧
    (described.modFunc 0 fun x => { x with psel := 5 }).queue? 0 5 0 = none ∧
    (described.registerQueue 0 0 0 0x20000).2 = true ∧ (described.registerQueue 0 0 0 0x20008).2 = false ∧ within 63 63 = true ∧ within 0xFF 0xFF = true ∧
    (within 0x3FFFFFFFE00C (2 ^ 46 - 2 ^ 13 + 15) = true ∧ 4 ≤ (0x3FFFFFFFE00C : Word).toNat % 16 ∧ (0x3FFFFFFFE00C : Word).toNat % 16 ≤ 12) ∧
    (within 0x27100000003F (2 ^ 46 - 2 ^ 32 + 63) = true ∧ 50 ≤ (0x27100000003F : Word).toNat / 2 ^ 32 ∧ (0x27100000003F : Word).toNat / 2 ^ 32 ≤ 10000) ∧
    (within 0x8000001 (2 ^ 28 - 2 ^ 16 + 63) = true ∧ (0x8000001 : Word).toNat / 2 ^ 16 = 2048 ∧ (0x8000001 : Word).toNat % 64 ≠ 0) ∧
    (0x1FFFFFFFFFFFFF : Word).toNat % 32 ≠ 0 ∧ answers (described.devWords 0 0x20000 4).2 [0x10000, 4, 0x20100, 0x20200] = true := by
  refine ⟨rfl, by decide +kernel, by decide +kernel, ⟨probeRegion 0, by decide +kernel, rfl, rfl⟩, by decide +kernel, rfl, ?_, ?_,
    ?_, ?_, ?_, ?_, ?_, ?_, ?_⟩ <;> decide +kernel

theorem wit_HostRegisters_reserved : ∀ n ∈ [2 ^ 46 - 2 ^ 13 + 1, 2 ^ 59 - 1, 63, 2 ^ 32 - 1, 2 ^ 53 - 1, 1, 0xFF, 2 ^ 46 - 2 ^ 13 + 15, 0x7FF, 0xF,
    2 ^ 46 - 2 ^ 32 + 63, 2 ^ 28 - 2 ^ 16 + 63], within 0x8000000000000000 n = false := by decide +kernel

/-- A fault record of page 8, which core 0 waits for. -/
def recorded : State :=
  (probe.modFunc 0 fun x => { x with records := [{ id := 2 ^ 32 - 1, space := 0, vpn := 8, write := true, cores := [0], slot := none, count := 1 }] }).modCore 0
    fun c => { c with waitRecord := some (2 ^ 32 - 1) }

/-- `recorded` with a handler and a request of core 0 outstanding in the SFU. -/
def recordedBusy : State :=
  (recorded.modCore 0 fun c => { c with arr := c.arr.setWord 0x208 0x1000 }).modCluster 0 fun x =>
    { x with sfu := [{ core := 0, ctx := 0, fn := 2, dest := none, rd := 0, vd := none, mask := 0, args := [0] }] }

theorem wit_HostRegisters_record : (∃ r, recorded.record? 0 (BitVec.ofNat 32 (2 ^ 32 - 1)).toNat = some r ∧ r.cores = [0]) ∧
    (recorded.core 0).waitRecord = some (BitVec.ofNat 32 (2 ^ 32 - 1)).toNat ∧ recorded.trapWaits 0 6 = false ∧
    recordedBusy.trapWaits 0 6 = true := ⟨⟨_, rfl, rfl⟩, rfl, by decide +kernel, by decide +kernel⟩

/-- A child of the probe's region, which has escalated a fault of domain 0; its RCB was at 0x20000. -/
def released : State :=
  { probe with regions := [probeRegion 0, { probeRegion 1 with parent := some 0 }], escalations := [(0, 0, 0x20000, 0)] }

theorem wit_HostRegisters_nrel : ∃ e ∈ released.escalations, e.2.1 = 0 ∧ e.2.2.1 = 0x20000 ∧
    ∃ d ∈ released.regions, released.isAncestor e.1 d.id 64 = true ∧ d.eff.fdom = e.2.2.2 :=
  ⟨(0, 0, 0x20000, 0), List.mem_cons_self .., rfl, rfl, { probeRegion 1 with parent := some 0 }, by decide +kernel, by decide +kernel, rfl⟩

theorem some_all {α σ : Type} {o : σ × Option (List α)} {p : α → Bool} (h : o.2.isSome = true) (k : (o.2.getD []).all p = true) :
    ∃ u es, o = (u, some es) ∧ ∀ e ∈ es, p e = true := by
  obtain ⟨u, o⟩ := o
  cases o with
  | none => cases h
  | some es => exact ⟨u, es, rfl, List.all_eq_true.1 k⟩

theorem wit_HostRegisters_map : within 0x200000002001 (2 ^ 46 - 2 ^ 13 + 15) = true ∧ 0x200000002001 / 2 ^ 13 * 2 ^ 13 = 0x200000002000 ∧
    (∀ g ∈ probe.regions, g.eff.smap ≠ 1) ∧ ∃ u es, probe.mapImage 0x200000002000 = (u, some es) ∧
    ∀ e ∈ es, decide (e < 1024 ∧ probe.bay0 ≤ e / 128 ∧ e / 128 < probe.bay0 + probe.bays) = true :=
  ⟨by decide +kernel, by decide, by decide +kernel, some_all (by decide +kernel) (by decide +kernel)⟩

/-- A start record of core 1, whose image has its window at 0x400. -/
def startRecord : List Word := [0x8000, 0x9000, 0x100, 0]

/-- `mapped` on the PF's slice with that record. -/
def starting : State := (queued (ring [] false) [lineOf 0x100 0 [0x400], atHome 0x101 0, atHome 0x102 0, atHome 0x103 0]).modFunc 0 fun x => { x with starts := [(0, startRecord)] }

/-- What reading the record's images leaves and gives. -/
def startRead : State × Option (List Byte × List Byte) :=
  ((starting.modFunc 0 fun x => { x with starts := x.starts.erase (0, startRecord) }).freshPad 1 0).readImages 0 startRecord

theorem some_pair {α β : Type} {o : Option (α × β)} {p : α → β → Bool} (h : o.any (fun x => p x.1 x.2) = true) : ∃ a b, o = some (a, b) ∧ p a b = true := by
  cases o with
  | none => cases h
  | some x => exact ⟨x.1, x.2, rfl, h⟩

theorem wit_ThreadsAndLifeCycle : starting.slice = some 0 ∧ isGeneral 1 = true ∧ starting.coreFree 1 = true ∧
    (starting.bay0 * 32 ≤ clusterOf 1 ∧ clusterOf 1 < (starting.bay0 + starting.bays) * 32) ∧
    (starting.func 0).starts.find? (fun e => startCoreOf e.2 == 1) = some (0, startRecord) ∧
    ∃ a h, (startRead.2 = some (a, h)) ∧
      (decide (((((startRead.1.core 1).threadStart 0 0 0x9000 false).putImage 0 a).putImage 0x200 h).blockBad 0 = none) &&
        (startRead.1.core 1).arr.wf) = true :=
  ⟨rfl, rfl, by decide +kernel, by decide +kernel, by decide +kernel, some_pair (by decide +kernel)⟩

theorem wit_LifeCycle : State.reset.life = .boot ∧ State.reset.image = none ∧ ({ State.reset with image := some true } : State).image ≠ none ∧
    probe.life = .run ∧ (8 = 1 ∨ 8 = 2 ∨ 8 = 4 ∨ 8 = 8) ∧ 0 % 8 = 0 ∧ 0 + 8 ≤ 8 ∧ 7 % 1 = 0 ∧ 7 + 1 ≤ 8 := by decide +kernel

/-- A tile of kind 1 in logical slice 0. -/
def pooled (spill : Bool) (held : Bool) : Tile :=
  { id := 0, region := 0, copy := 0, lslice := 0, d := oneTile, overflow := spill, held := held, key := (0, 0, 0, 0), from_ := 0 }

/-- The probe's region with kind 1 declared, stepped or not. -/
def poolRegion (stepped : Bool) : Region :=
  { probeRegion 0 with eff := { (probeRegion 0).eff with kinds := 0x30000, stepped := stepped, rollback := stepped } }

/-- That region with a tile, on the PF's slice, every core idle. -/
def pool (stepped : Bool) (t : Tile) (os : List Offer) : State :=
  let s := queued (ring [] false) [lineOf 0x600 0 [2]]
  { s with tiles := [t], nextTile := 1, offers := os, nextOffer := os.length, firings := [], cores := [], regions := [poolRegion stepped] }

/-- The group of that tile, offered. -/
def offered (c : Option Nat) : Offer :=
  { id := 0, region := 0, copy := 0, lslice := 0, rule := 0, groups := [{ tiles := [0], fseq := 0, at_ := 0, order := 0 }], forming := false, ended := false, cluster := c }

theorem wit_MatchingAndDispatch_match : let s := pool false (pooled false false) [];
    (rotated (s.pairsAt 0) 0).head? = some 0 ∧ s.region? 0 = some (poolRegion false) ∧ 0 ∈ s.pairsAt 0 ∧ probe.pairsAt 0 = [] ∧
    (s.servePair 0 0).isSome = true ∧ ((poolRegion false).matchAll 0 0 (s.visible (poolRegion false) 0 0 false false)).isSome = true ∧
    s.offersFull (poolRegion false) 0 = false ∧ s.fireFull (poolRegion false) 0 = false := by decide +kernel

theorem wit_MatchingAndDispatch_matchAt : let s := pool false (pooled false false) [];
    (poolRegion false).eff.stepped = false ∧ s.formingAt 0 0 0 = none ∧ (poolRegion false).fireSpent 0 = false ∧ s.noticeWaits 0 = false ∧
    tget 0 s.matchAt 0 ≤ s.clock ∧ ({ s with matchAt := [(0, 1)] } : State).clock < tget 0 ({ s with matchAt := [(0, 1)] } : State).matchAt 0 := by
  decide +kernel

theorem wit_MatchingAndDispatch_sweep : let s := pool true { pooled true false with d := [2, 0, 0x4020000000000000, 7] } [];
    s.region? 0 = some (poolRegion true) ∧ s.onSlice (poolRegion true).space = true ∧ ((s.tilesAt 0 0 0).any fun (t : Tile) => t.overflow) = true ∧
    s.reservedAt 0 0 0 true = false ∧ s.noticeWaits 0 = false ∧ s.formingAt 0 0 0 = none ∧
    (poolRegion true).matchAll 0 0 (s.visible (poolRegion true) 0 0 true false) = none := by decide +kernel

theorem wit_MatchingAndDispatch_swept : (poolRegion true).state = .active ∧ (poolRegion true).held = false ∧ (poolRegion true).swept.contains 0 = false ∧
    (poolRegion true).eff.stepped = true ∧
    (poolRegion false).matchAll 0 0 ((pool false { pooled true false with d := [2, 0, 0x4020000000000000, 7] } []).visible (poolRegion false) 0 0 false true) = none := by
  decide +kernel

theorem some_ok {α : Type} {o : Option α} {p : α → Bool} (h : o.any p = true) : ∃ x, o = some x ∧ p x = true := by
  cases o with
  | none => cases h
  | some x => exact ⟨x, rfl, h⟩

theorem wit_MatchingAndDispatch_arrival : let s := pool false (pooled false true) [offered none];
    s.offers.find? (fun x => x.id == 0) = some (offered none) ∧ s.targetOf s.fresh (offered none) = some 0 ∧ s.offerBehind s.fresh (offered none) = false ∧
    s.bestOffer 0 (([offered none].filter fun x => s.targetOf s.fresh x == some 0 && !s.offerBehind s.fresh x).filter
      fun x => (s.offerOf x).2.1 == (s.offerOf (offered none)).2.1) = some 0 ∧
    (∃ u, s.chargeDispatch 0 0 ([offered none].filter fun x => s.targetOf s.fresh x == some 0 && !s.offerBehind s.fresh x) = some u ∧
      (s.unitFree 0 (offered none) && !s.keptIn 0) = true) := by
  refine ⟨by decide +kernel, by decide +kernel, by decide +kernel, by decide +kernel, some_ok (by decide +kernel)⟩

theorem wit_MatchingAndDispatch_back : ({ pool false (pooled false true) [offered none] with cores := (List.range 8).map fun k =>
    (k, { Core.init with run := .firing 9 }) } : State).unitFree 0 (offered none) = false := by decide +kernel

theorem wit_MatchingAndDispatch_dispatch : let s := pool false (pooled false true) [offered (some 0)];
    s.offers.find? (fun x => x.id == 0) = some (offered (some 0)) ∧ s.region? 0 = some (poolRegion false) ∧ s.keptIn 0 = false ∧ s.noticeWaits 0 = false ∧
    s.freeCores 0 = [0, 1, 2, 3, 4, 5, 6, 7] ∧ s.freeCells 0 = [0, 1, 2, 3] ∧
    (s.tilesAt 0 0 0).find? (fun t => t.age == 0) = some (pooled false true) := by decide +kernel

theorem wit_MatchingAndDispatch_offer : ruleClass ((poolRegion false).rule 0) = 0 ∧ ruleClass [0x9] = 1 ∧ (poolRegion false).rolls = false ∧
    (offered (some 0)).groups = [{ tiles := [0], fseq := 0, at_ := 0, order := 0 }] ∧ (poolRegion false).state = .active ∧ (poolRegion false).held = false := by
  decide +kernel

theorem wit_MatchingAndDispatch_rolls : ∀ (n : Snapshot) (k : Nat), ({ poolRegion true with snap := some n, repeats := k } : Region).rolls = true ∧
    ({ poolRegion true with snap := some n, repeats := k } : Region).repeats = k := fun _ _ => ⟨rfl, rfl⟩

/-- A committed firing with one product on its way. -/
def sending (inserted : Bool) : Firing :=
  { probeFiring 0 0 0 with products := [{ index := 0, d := oneTile, lslice := 0, inserted := inserted }], retired := true }

/-- The pool with that firing at a time, the last insertion of the cycle in a place of R389. -/
def sendingAt (inserted : Bool) (clock : Nat) (last : List Nat) : State :=
  { pool false (pooled false true) [] with firings := [sending inserted], clock := clock, lastInsert := (clock, last) }

theorem wit_ProductsAndStability : let s := sendingAt false 15 [0];
    s.firing? 0 = some (sending false) ∧ s.sieveFull (s.sliceOf (poolRegion false) 0 0) = false ∧
    ((s.tilesAt 0 0 0).any fun (x : Tile) => x.overflow) = false ∧ tget 0 (poolRegion false).ages 0 < 2 ^ 32 - 1 ∧
    (sending false).at_ + 16 ≤ s.clock + 1 ∧ s.insertTurn (s.productTurn (poolRegion false) (sending false)) = true ∧
    (sendingAt false 14 []).clock + 1 < (sending false).at_ + 16 := by decide +kernel

theorem wit_ProductsAndStability_ack : (∀ x ∈ (sendingAt true 15 []).firings, x.id = 0 → x = sending true) ∧ (sending true).retired = true ∧
    ((sending true).products.map fun p => p.inserted) = [true] := by decide +kernel

theorem wit_ProductsAndStability_wave : let s := sendingAt false 0 [];
    s.bay0 * 128 ≤ 1023 ∧ 1023 < (s.bay0 + s.bays) * 128 ∧ 1023 ∉ s.waveDone ∧ (({ s with clock := 4096 } : State).waveAt + 4096 ≤ 4096) ∧
    ¬ (s.waveDone ≠ [] ∨ s.waveAt + 4096 ≤ s.clock) ∧ s.waveDone.length < s.bays * 128 := by decide +kernel

theorem wit_ProductsAndStability_report : probe.bays * 128 ≤ ({ probe with waveDone := List.range 1024 } : State).waveDone.length := by decide +kernel

/-- A region whose wave is complete, idle or not. -/
def waved (idle : Bool) (st : RState) (due : Bool) : Region :=
  { probeRegion 0 with state := st, wave := some (List.range 1024, idle, false), lastIdle := some true, tileDue := due }

/-- The probe's state with that region alone. -/
def judged (g : Region) : State := { probe with regions := [g], firings := [] }

theorem wit_ProductsAndStability_judge : ∀ b : Bool, (judged (waved b .active false)).region? 0 = some (waved b .active false) ∧
    (waved b .active false).wave = some (List.range 1024, b, false) ∧ (waved b .active false).state = .active ∧
    (List.range 1024).length = probe.bays * 128 ∧ (waved b .active false).lastIdle = some true ∧
    (∀ c ∈ (judged (waved b .active false)).regions, c.parent ≠ some 0) ∧ (judged (waved b .active false)).noticeWaits 0 = false := by
  intro b
  exact ⟨rfl, rfl, rfl, by decide +kernel, rfl, fun c h => by obtain rfl := List.mem_singleton.1 h; nofun, rfl⟩

theorem wit_ProductsAndStability_pending : ({ pooled false false with d := [1, 0, 0x6020000000000000, 7] } : Tile).pending = true := by decide +kernel

theorem wit_ProductsAndStability_complete : let g := waved true .draining false;
    (judged g).region? 0 = some g ∧ g.cstat = 0 ∧ (∀ f ∈ (judged g).firings, f.region ≠ 0) ∧ g.eff.paired = false ∧ g.doneDue = false ∧
    (waved true .draining true).tileDue = true ∧ ({ g with doneDue := true } : Region).doneDue = true ∧ (judged g).noticeWaits 0 = false ∧
    (∀ c ∈ (judged g).regions, c.parent ≠ some 0) ∧ (judged g).insertTurn [2, g.rcb] = true := by decide +kernel

/-- A region whose time is spent, or not. -/
def timed (n : Nat) : Region :=
  { waved true .active false with cnt := { Counters.zero with trun := n }, eff := { (probeRegion 0).eff with btime := 5 } }

theorem wit_ProductsAndStability_time : (timed 6).eff.btime ≠ 0 ∧ (timed 6).eff.btime < (timed 6).cnt.trun ∧ (timed 5).cnt.trun ≤ (timed 5).eff.btime ∧
    (timed 6).cstat = 0 ∧ probe.waveDone = [] := by decide +kernel

/-- The probe's region with BCORE at 1. -/
def coreRegion : Region := { probeRegion 0 with eff := { (probeRegion 0).eff with bcore := 1 } }

theorem wit_MatchingAndDispatch_bcore : let s := { pool false (pooled false true) [offered (some 0)] with firings := [probeFiring 7 0 1], regions := [coreRegion] };
    s.offers.find? (fun x => x.id == 0) = some (offered (some 0)) ∧ s.region? 0 = some coreRegion ∧ s.keptIn 0 = false ∧ coreRegion.state = .active ∧
    coreRegion.held = false ∧ s.noticeWaits 0 = false ∧ s.corePassed coreRegion (offered (some 0)) 0 = true ∧
    (pool false (pooled false true) [offered (some 0)]).corePassed (poolRegion false) (offered (some 0)) 0 = false := by decide +kernel

theorem wit_MatchingAndDispatch_twins : let s := { pool false (pooled false false) [] with tiles := [pooled false false, { pooled false false with id := 1 }] };
    2 ≤ ((s.tilesAt 0 (0 / 4096 % 2) (0 % 4096)).filter fun (t : Tile) => t.age == 0).length := by decide +kernel

/-- The probe on the PF's slice, at a time, its core changed. -/
def sliced (t : Nat) (f : Machine.Core → Machine.Core) : State := { probeBy f with slice := some 0, clock := t }

theorem wit_SlicesAndStops_end : (sliced 10000000 id).sliceOver 0 = true ∧ (sliced 10000000 id).ending = false ∧ (sliced 10000000 id).slice = some 0 ∧
    (∃ e ∈ (sliced 10000000 id).cores, e.1 < 0x10000 ∧ e.2.busy = true) ∧ ({ sliced 10000000 id with cores := [] } : State).allStopped = true ∧
    ({ sliced 10000000 id with cores := [] } : State).sliceOver 0 = true ∧ (sliced 0 id).sliceOver 0 = false := by decide +kernel

theorem wit_SlicesAndStops_start : probe.slice = none ∧ probe.ending = false ∧ probe.life = .run ∧ probe.mayHold 0 = true ∧
    (∀ n, n < 64 → probe.mayHold n = true → (0 + 63 - probe.lastSlice) % 64 ≤ (n + 63 - probe.lastSlice) % 64) := by decide +kernel

theorem wit_SlicesAndStops_stop : ∀ b : Bool, let s := sliced 0 fun c => { c with preempt := true, passed := b, ient := c.pc };
    s.firing? 0 = some (probeFiring 0 0 0) ∧ s.classOf (probeFiring 0 0 0) = 0 ∧ s.atBoundary 0 = true ∧ s.sfuBusy 0 = false := by decide +kernel

theorem wit_SlicesAndStops_core : ∀ b : Bool, let c := (sliced 0 fun c => { c with preempt := true, passed := b, ient := c.pc }).core 0;
    c.preempt = true ∧ c.run = .firing 0 ∧ c.stopped = false ∧ c.inHandler = false ∧ c.undo = false ∧ c.packet = none ∧ c.noDiscard = false ∧
    c.passed = b ∧ c.deliver = false ∧ c.waitRecord = none ∧ c.mchk = none := by decide +kernel

theorem wit_SlicesAndStops_must : let s := sliced 0 fun c => { c with preempt := true, ient := c.pc };
    s.agenda = [] ∧ s.cur = 0 ∧ (probeFiring 0 0 0).doomed = false ∧ (probeFiring 0 0 0).notified = false ∧
    ({ (s.core 0) with committing := true } : Machine.Core).committing = true := ⟨rfl, rfl, rfl, rfl, rfl⟩

theorem wit_SlicesAndStops_thread : let s := sliced 0 fun c => { c with preempt := true, run := .thread 0 0 0 false };
    (s.core 0).preempt = true ∧ (s.core 0).isThread = true ∧ (s.core 0).packet = none ∧ s.sfuBusy 0 = false ∧ s.recordWaits 0 = false := by decide +kernel

/-- A firing kept with its core saved, and another's. -/
def keptFiring : Firing := { probeFiring 0 0 0 with kept := true, cores := [0x10000] }

/-- The probe with its firing saved. -/
def saved (r : CoreRun) : State :=
  { sliced 0 id with firings := [keptFiring], cores := [(0x10000, { Core.init with run := r })] }

theorem wit_SlicesAndStops_resume : let s := saved (.firing 0);
    s.firing? 0 = some keptFiring ∧ keptFiring.cells = [] ∧ s.classOf keptFiring = 0 ∧ s.region? 0 = some (probeRegion 0) ∧
    s.onSlice (probeRegion 0).space = true ∧ (s.core 0x10000).mchk = none ∧ (s.core 0x10000).run = .firing 0 ∧
    s.firings.filter (fun x => x.region == keptFiring.region && x.gang == keptFiring.gang && !x.retired) = [keptFiring] ∧
    ((s.rangesAt (clusterOf 0x10000)).any fun e => namesSpan e.2 0x10000 padWindow 0x40000) = false ∧
    (s.freeCores (clusterOf 0x10000)).head? = some 0 ∧ (s.core 0x10000).grant = 0 := by decide +kernel

theorem wit_SlicesAndStops_kept : let f : Firing := { keptFiring with notified := true };
    ({ saved (.firing 0) with firings := [f] } : State).firing? 0 = some f ∧ f.kept = true ∧ f.notified = true ∧ f.retired = false := by decide +kernel

theorem wit_SlicesAndStops_abort : let f : Firing := { probeFiring 0 0 0 with notified := true };
    let s : State := { boosted false 512 0 [] [] with firings := [f] };
    s.firing? 0 = some f ∧ f.retired = false ∧ f.kept = false ∧ f.cores = [0] ∧ (s.core 0).opened = true ∧ (probe.core 0).opened = false ∧
    (probe.core 0).undo = false ∧ (probe.core 0).committing = false := by decide +kernel

theorem wit_SlicesAndStops_threadResume : let s := saved (.thread 0 0 0 false);
    (∃ c, s.cores.find? (fun e => isSaved e.1 && e.1 % 0x10000 == 0 && e.2.isThread && s.onSlice (s.spaceOf e.1)) = some (0x10000, c)) ∧
    ((s.rangesAt (clusterOf 0)).any fun e => namesSpan e.2 0x10000 padWindow 0x40000) = false ∧ s.coreFree 0 = true ∧ (s.core 0x10000).grant = 0 :=
  ⟨⟨_, rfl⟩, by decide +kernel, by decide +kernel, rfl⟩

theorem wit_SlicesAndStops_waits : ∀ n, let s := sliced n fun c => { c with waitFrom := some 0, packet := some (7, 1), packetStop := some 0 };
    (s.core 0).waitFrom = some 0 ∧ (s.core 0).packet = some (7, 1) ∧ (s.core 0).packetStop = some 0 ∧ s.firingOf 0 = some (probeFiring 0 0 0) ∧ s.clock = n :=
  fun _ => ⟨rfl, rfl, rfl, rfl, rfl⟩

/-- A COPY of `n` bytes at the head of the copy engine's queue. -/
def copying (begun : Bool) (code : Option (Nat × Nat)) (n : Word) : EngCmd :=
  { probeCmd 0 [0x8000, 0x1FFFFFFF008000, n] with begun := begun, code := code }

/-- The engines at work for that command, with commands in the staging and the matrix queue of cell 0. -/
def working (c : EngCmd) (st mx : List CellCmd) : State :=
  let s := queued (ring [] false) []
  ((s.modCore 0 fun c => { c with spN := 16 }).modCluster 0 fun x => { x with copyQ := [c] }).modCell 0 0 fun x => { x with staging := st, matrix := mx }

/-- Whether a computation of the engines succeeds. -/
def ranOk {α ε σ : Type} (r : Except ε α × σ) : Bool := match r.1 with | .ok _ => true | .error _ => false

theorem ranOk_eq {α ε σ : Type} {r : Except ε α × σ} (h : ranOk r = true) : ∃ a u, r = (.ok a, u) := by
  obtain ⟨e, u⟩ := r
  cases e with
  | error e => cases h
  | ok a => exact ⟨a, u, rfl⟩

/-- The engines at work for a COPY of `n` bytes. -/
def copyAt (n : Nat) : State := working (copying false none (BitVec.ofNat 64 n)) [] []

theorem wit_UnitEvents_engine : ∀ n ∈ [0, 64], let c := copying false none (BitVec.ofNat 64 n)
    ((copyAt n).cluster 0).queue 0 = [c] ∧ (copyAt n).onSlice c.who.space = true ∧ (copyAt n).cmdHeld 0 0 = false ∧
    ∃ c' u, (beginCmd 0 c).run.run (copyAt n) = (.ok c', u) := by
  intro n h
  have k : ∀ n ∈ [0, 64], ranOk ((beginCmd 0 (copying false none (BitVec.ofNat 64 n))).run.run (copyAt n)) = true := by decide +kernel
  have e : ∀ n ∈ [0, 64], (copyAt n).cmdHeld 0 0 = false := by decide +kernel
  have o : ∀ n ∈ [0, 64], (copyAt n).onSlice (copying false none (BitVec.ofNat 64 n)).who.space = true := by decide +kernel
  exact ⟨rfl, o n h, e n h, ranOk_eq (k n h)⟩

/-- A COPY neither of whose sides is in a window. -/
def farCopy : EngCmd := probeCmd 0 [0x8000, 0x9000, 64]

theorem wit_UnitEvents_far : farCopy.op = 0 ∧ 0 < (farCopy.operand 2).toNat ∧ (farCopy.operand 0).toNat + (farCopy.operand 2).toNat ≤ windowBase ∧
    (farCopy.operand 1).toNat + (farCopy.operand 2).toNat ≤ windowBase := by decide +kernel

/-- A COPY of 64 bytes within the core's pad, begun. -/
def padCopy : EngCmd := { probeCmd 0 [0x1FFFFFFF008000, 0x1FFFFFFF0080C0, 64] with begun := true }

theorem wit_UnitEvents_copy : let s := working padCopy [] []
    padCopy.report.getLsbD 61 = false ∧ s.memOk = true ∧ padCopy.done < 64 ∧ windowBase ≤ 0x1FFFFFFF008000 ∧
    s.window 0 0x1FFFFFFF008000 true = some (.arr 0 0x8000) ∧ s.window 0 0x1FFFFFFF0080C0 true = some (.arr 0 0x80C0) ∧
    (∀ i, i < 64 → s.seenBad 0 .so ((Place.arr 0 0x8000).add i) = false) ∧ 0x1FFFFFFF008000 % 0x2000 + 64 ≤ 0x2000 := by
  refine ⟨?_, ?_, ?_, ?_, ?_, ?_, ?_, ?_⟩ <;> decide +kernel

theorem wit_UnitEvents_piece : (copying true none 64).begun = true ∧ (copying true none 64).code = none ∧
    (∃ x u, (pieceCmd 0 (copying true none 64)).run.run (working (copying true none 64) [] []) = (.ok x, u)) ∧
    (copying true (some (0, 0)) 64).code = some (0, 0) := ⟨rfl, rfl, ranOk_eq (by decide +kernel), rfl⟩

/-- A command of a cell's queue. -/
def cellCommand (op done : Nat) (ops : List Word) : CellCmd := { product op with ops := ops, done := done }

theorem wit_UnitEvents_staging : let a := cellCommand 0 0 [0x1FFFFFFF008000, 0x8001110000, 0x20];
    let p := cellCommand 1 0 [0x8000, 0x130010000, 0x20];
    let s (m : CellCmd) : State := working (copying true none 0) [m] [];
    (((s a).cell 0 0).staging = [a] ∧ (s a).cmdHeld 0 a.at_ = false ∧ ((s a).cell 0 0).matrix = []) ∧
    ((s p).cmdHeld 0 p.at_ = false ∧ ((s p).cluster 0).panelBusy 0 0 = false ∧
      ((s p).beginPanel 0 0 0 0x13 1 0 0x8000).2 = none ∧ (cellCommand 1 1 [0x8000, 0x130010000, 0x20]).done = 1) := by decide +kernel

/-- The stager of cell 0 of cluster 16 with a full pad. -/
def stagingPad : State := probe.modCore 264 fun c => { c with spN := 16 }

theorem wit_UnitEvents_stage : ((stagingPad.cell 16 0).abuf.wf && ((List.range 128).all fun i => (List.range 64).all fun x =>
    match stagingPad.localPlace 264 ((0x1FFFFFFF008000 + i * 0x40 + x) % 2 ^ 53) with
    | some p => stagingPad.seenBad 264 .rc p == false
    | none => false)) = true := by decide +kernel

theorem wit_UnitEvents_matrix : let z := cellCommand 2 0 []; let p := cellCommand 3 0 [0x10000000, 0x20, 0x14];
    let s (m : CellCmd) : State := working (copying true none 0) [] [m];
    ((s z).cell 0 0).matrix = [z] ∧ ((s z).cell 0 0).parked = none ∧ ((s p).cell 0 0).staging = [] ∧ panelState (((s p).cell 0 0).panel p.panelNo).1 = 0 ∧
    ((issuerParked 3).cell 0 0).parked ≠ none := by decide +kernel

/-- A product of panel 5 whose A units and panel are in BF16. -/
def goodProduct : CellCmd := cellCommand 3 0 [0x10000A00, 0x20, 0x14]

/-- The matrix queue of cell 0 with that product, which nothing keeps from accumulating. -/
def multiplying : State := (working (copying true none 0) [] [goodProduct]).modCell 0 0 fun x =>
  { x with utags := (List.range 16).map fun n => (n, 0x13), panels := [(5, (0x11302, 0x8000))] }

theorem wit_UnitEvents_product : goodProduct.done = goodProduct.koff ∧ (multiplying.cluster 0).productCheck true 0 0 goodProduct = none ∧
    (∀ n, n < 1 → (multiplying.cluster 0).blockBad 0 0 goodProduct n = false) ∧ goodProduct.kcnt = 1 ∧ goodProduct.koff = 0 ∧
    panelState ((multiplying.cell 0 0).panel goodProduct.panelNo).1 = 2 := by decide +kernel

/-- A parked product whose panel is to be loaded again: entry 5 has KB 1, BF16 and its source in the stager's pad. -/
def reloading : State :=
  ((working (copying true none 0) [] []).modCore 8 fun c => { c with spN := 16 }).modCell 0 0 fun x =>
    { x with parked := some goodProduct, reloading := some 5, panels := [(5, (0x11300, 0x1FFFFFFF008000))] }

/-- The state in which the panel of `reloading` is LOADING. -/
def loading : State := (reloading.beginPanel 0 0 5 0x13 1 0 0x1FFFFFFF008000).1

theorem wit_UnitEvents_reload : (reloading.cell 0 0).reloading = some 5 ∧ (reloading.cell 0 0).parked = some goodProduct ∧
    (reloading.cluster 0).panelBusy 0 5 = false ∧ (reloading.beginPanel 0 0 5 0x13 1 0 0x1FFFFFFF008000).2 = none ∧
    (let p := ((reloading.cell 0 0).panel 5).1; panelFmt p = 0x13 ∧ panelKb p = 1 ∧ panelBase p + panelUnits 0x13 1 ≤ 256) := by decide +kernel

theorem wit_UnitEvents_loaded : (loading.copyPanel { probeWho 12 with core := 8 } 0 0 5).2 = none ∧
    ranOk ((loadParts { probeWho 12 with core := 8 } 0 (pagesOf 0x1FFFFFFF008000 0x8000 6)).run.run loading) = true := by decide +kernel

theorem wit_UnitEvents_holdoff : ((probe.modCell 0 0 fun x => { x with holdoff := some 0 }).cell 0 0).holdoff = some 0 ∧ 0 + 4096 ≤ 4096 ∧ 4095 < 0 + 4096 ∧
    lineFind homed.homes (0x100F / 16) = some { num := 0x100, data := 5, dirty := 0, poison := 0x8000, hint := .default, way := 0, uo := false } := by decide +kernel

theorem wit_EncodeDecode : wf (.loop 0x3FFFE 4 0) = true ∧ encode (.loop 0x3FFFE 4 0) = some (4, 0xFFFFA209) := by decide +kernel

theorem wit_DecodeEncode : decode (leBytes 8 0xFFFFA209) = .ok (.loop 0x3FFFE 4 0, leBytes 4 0) := by decide +kernel

/-- An ADDI stands at the PC. -/
def stepping : State := State.reset.withFetchWord 32 0x00500203

theorem stepping_runs : Spec.Runs stepping :=
  ⟨.inl ⟨0, rfl⟩, by decide, rfl, rfl, rfl, rfl, fun f h => by obtain rfl := Option.some.inj h; exact ⟨rfl, rfl⟩, rfl, rfl, rfl, rfl⟩

theorem wit_StepRunsDecoded : stepping.agenda = [] ∧ Spec.Runs stepping ∧ stepping.me.pc.toNat = Spec.sysBase + 0x4000 ∧ stepping.me.hide = [] ∧
    (∀ a, stepping.me.arr.isBad a = false) ∧ decode (stepping.me.arr.read 0x4000 8) = .ok (.addi 5 0 4 0, leBytes 4 0) ∧
    (∃ t i, stepping.fetch stepping.cur = .instr t i) ∧ encode (.regionComplete 0) = none ∧ stepping.stillSieves = true :=
  ⟨rfl, stepping_runs, by decide +kernel, rfl, fun _ => rfl, by decide +kernel, ⟨_, _, rfl⟩, rfl, by decide +kernel⟩

theorem wit_StepRunsDecoded_bad : ∀ r, decode ((State.reset.withFetchWord 32 0x1F).me.arr.read 0x4000 8) ≠ .ok r := by
  have h : (decode ((State.reset.withFetchWord 32 0x1F).me.arr.read 0x4000 8)).isOk = false := by decide +kernel
  intro r hr
  rw [hr] at h
  cases h

/-- A step answers a next state. -/
def goesOn (r : Outcome State Fault Refusal) : Bool := match r with | .next _ => true | _ => false

theorem goesOn_eq {r : Outcome State Fault Refusal} (h : goesOn r = true) : ∃ t, r = .next t := by
  cases r with
  | next t => exact ⟨t, rfl⟩
  | fault x => cases h
  | refused x => cases h

theorem wit_MemoryFormKept : stepping.memOk = true ∧ ∃ t, step stepping = .next t := ⟨by decide +kernel, goesOn_eq (by decide +kernel)⟩

/-- The stream of `probeStream` with elements that it has read ahead. -/
def readStream (l : List Ahead) : State := (probeStream false 2).modCore 0 fun c => { c with ahead := [(1, l)] }

/-- An element of that stream. -/
def aheadOf (v : Word) : Ahead := { blocks := [.arr 0 0x7F80], value := v }

theorem wit_Streams_ahead : Quiet (readStream [aheadOf 9]) ∧ (readStream [aheadOf 9]).me.boundTo 16 = some 1 ∧
    ((readStream [aheadOf 9]).me.gen 1).write = false ∧ ((readStream [aheadOf 9]).me.gen 1).count ≠ 0 ∧ (readStream [aheadOf 9]).me.arr.wf = true ∧
    tget [] (readStream [aheadOf 9]).me.ahead 1 = [aheadOf 9] ∧ (readStream [aheadOf 9]).mayWrite 5 :=
  ⟨⟨rfl, rfl, rfl, by decide⟩, rfl, rfl, by decide +kernel, by decide +kernel, rfl, rfl, fun h => absurd h.1 (by decide)⟩

theorem wit_Streams_readAhead : let c := (probeStream false 2).core 0
    c.run = .firing 0 ∧ c.stopped = false ∧ (c.gen 1).bound = true ∧ (c.gen 1).write = false ∧ 0 < (c.gen 1).count.toNat ∧ (c.gen 1).sz ≠ 4 ∧
    (c.gen 1).addr.toNat = 0x1FFFFFFF007FFC ∧ Spec.sysBase ≤ 0x1FFFFFFF007FFC ∧ 0x1FFFFFFF007FFC + 4 ≤ Spec.sysBase + 0x8000 + c.spN * 0x4000 ∧
    c.spN ≤ 16 ∧ c.regOff 32 ≤ 0x7FFC ∧ (probeStream false 2).me.ahead = [] := by
  decide +kernel

/-- R267: a pop takes what the stream read before another observer changed it. -/
theorem test_stale_pop : left (exec (.addi 1 16 5 0) (readStream [aheadOf 9])) 5 = some 10 := by decide +kernel

/-- R267: a store of the core into the element's block discards it. -/
theorem test_store_discards : (match exec (.st 0 0 0 2 3 4 0) ((readStream [aheadOf 9]).modCore 0 fun c => c.setReg 3 0x1FFFFFFF007FC0) with
    | .next t => decide (t.me.ahead = [(1, [])])
    | _ => false) = true := by decide +kernel

theorem wit_Queues_waits : let s (w : Option (Nat × Bool)) (p : Option (Word × Nat)) (h : Option Nat) : State :=
      (probeQueue [] h).modCore 0 fun c => { c with qwait := w, packet := p }
    (s (some (15, true)) none none).me.qwait = some (0 * 16 + 15, true) ∧ (s none none none).me.qwait ≠ some (0 * 16 + 15, true) ∧
    (s none (some (0x0F, 0)) (some 0)).me.packet = some ((s none none none).me.reg 3, 0) ∧ (0 : Nat) < 63 ∧
    (((s none (some (0x0F, 0)) (some 0)).cluster 0).fifo 15).holder = some (s none none none).cur ∧
    (((s none none (some 3)).cluster 0).fifo 15).holder ≠ none ∧ (((s none none (some 3)).cluster 0).fifo 15).holder ≠ some 0 := by
  decide +kernel

theorem wit_TrapEntry_packet : ((probeQueue [] (some 0)).modCore 0 fun c => { c with packet := some (0x0F, 0) }).me.packet = some (0x0F, 0) ∧
    (∀ d, (probeTrap 0).me.packet ≠ some (d, 0)) := ⟨rfl, fun _ h => by cases h⟩

theorem wit_LocalMemoryShape_turn : (probeRegs [(3, 63)]).inTurn uBANKS = true ∧ (behind uBANKS (probeRegs [(3, 63)])).inTurn uBANKS = false ∧
    ((behind uBANKS (probeRegs [(3, 63)])).cluster 0).bankReqs = [] ∧ Quiet (behind uBANKS (probeRegs [(3, 63)])) ∧
    (behind uBANKS (probeRegs [(3, 63)])).plain 3 := ⟨by decide +kernel, by decide +kernel, rfl, ⟨rfl, rfl, rfl, by decide⟩, rfl⟩

theorem wit_FiringEnds_switch : Quiet (undoing 0) ∧ (undoing 0).me.undo = true ∧ (undoing 0).plain 3 := ⟨⟨rfl, rfl, rfl, by decide⟩, rfl, rfl⟩

theorem wit_HostRegisters_mapUnread : ∃ u, probe.mapImage 0x3FFFFFFFE000 = (u, none) := by
  have h : (probe.mapImage 0x3FFFFFFFE000).2.isNone = true := by decide +kernel
  cases e : probe.mapImage 0x3FFFFFFFE000 with
  | mk u o => cases o with
    | none => exact ⟨u, rfl⟩
    | some x => rw [e] at h; cases h

/-- A gang that is still forming and takes no further group. -/
def endedGang : Offer := { offered none with forming := true, ended := true }

theorem wit_MatchingAndDispatch_ended : endedGang.ended = true ∧
    (pool false (pooled false true) [endedGang]).offerRoom (poolRegion false) 0 1 = true ∧
    (pool false (pooled false false) []).pairEnabled 0 = true ∧
    (∃ x, (pool false (pooled false false) []).region? (0 / 8192) = some x) ∧
    ((pool true { pooled true false with from_ := 1 } []).tilesAt 0 0 0).any (fun (t : Tile) => decide (0 < t.from_)) = true :=
  ⟨rfl, by decide +kernel, by decide +kernel, ⟨_, rfl⟩, by decide +kernel⟩

theorem wit_SlicesAndStops_mtx : let s := sliced 0 fun c => { c with preempt := true, mtx := true, ient := c.pc, packet := some (7, 0) };
    (s.core 0).mtx = true ∧ (s.core 0).passed = false ∧ (∀ d n, (s.core 0).packet = some (d, n) → n = 0) ∧ s.atBoundary 0 = true :=
  ⟨rfl, rfl, fun _ _ h => by cases h; rfl, by decide +kernel⟩

/-- The kept firing of `saved` under a BOOSTED rule, notified, with an undo header. -/
def keptBoosted (n : Word) : State :=
  let s := boosted false 0 0 [] []
  { s with firings := [{ keptFiring with notified := true }], cores := [(0x10000, { s.core 0 with arr := (s.core 0).arr.setWord 0x1800 n })] }

theorem wit_SlicesAndStops_boosted : (keptBoosted 0).classOf { keptFiring with notified := true } = 2 ∧
    (∀ j ∈ keptFiring.cores, ((keptBoosted 0).core j).opened = false ∧ ((keptBoosted 0).core j).ucnt = 0) ∧
    (∃ j ∈ keptFiring.cores, ((keptBoosted 1).core j).opened = true ∨ 0 < ((keptBoosted 1).core j).ucnt) ∧
    ({ saved (.firing 0) with firings := [{ keptFiring with doomed := true }] } : State).firing? 0 = some { keptFiring with doomed := true } := by
  decide +kernel

/-- A product that a resume has put back at the head, its panel VALID. -/
def resumed : State := working (copying true none 0) [] [cellCommand 5 0 [0x10000000, 0x8000, 0x14]]

theorem wit_UnitEvents_resumed : (resumed.cell 0 0).matrix = [cellCommand 5 0 [0x10000000, 0x8000, 0x14]] ∧ (resumed.cell 0 0).parked = none ∧
    (resumed.cell 0 0).staging = [] ∧ panelState ((resumed.cell 0 0).panel (cellCommand 5 0 [0x10000000, 0x8000, 0x14]).panelNo).1 ≠ 1 := by
  decide +kernel

theorem wit_StepRunsDecoded_ahead : ({ stepping with agenda := [.ahead 0 1] } : State).agenda = [.ahead 0 1] := rfl

/-- R267: the turn of a read stream reads its next element. -/
theorem test_ahead_turn : (match step { probeStream false 2 with agenda := [.ahead 0 1] } with
    | .next t => decide ((tget [] t.me.ahead 1).length = 1)
    | _ => false) = true := by decide +kernel

end Sys2Proof.Tests
end

/-! Product insertion, stability and completion (spec/20_retirement.md R388 to R395): the statement fails where the record of the parents of
completed regions has a cycle. -/

namespace Sys2Proof.Machine

/-- A faulted DRAINING region with no firing in flight. A completion tile is due to its parent, region 1, which is over. -/
def orphanedRegion : Region := { probeRegion 0 with state := .draining, faulted := true, parent := some 1, cdesc := 1 }

/-- The machine after reset with that region alone, which the lineage names as the parent of the completed region 1. The statement admits
every state, and this one is not reached from reset: there a parent has a lower number than its children (R64), so no lineage has a cycle. -/
def cyclicLineage : State := { State.reset with regions := [orphanedRegion], lineage := [(1, 0)] }

/-- The region descends from itself, so that the fault with which it completes kills it too (R72): it is left with its completion tile due and
CSTAT = 4 (KILLED), where R395 gives a faulted region that was not killed 3 (FAULT). -/
theorem cyclicLineage_completes_killed :
    ((cyclicLineage.completeRegion 0).region? 0).map (fun g => (g.tileDue, g.cstat)) = some (true, 4) := by decide +kernel

/-- Refutes O52, at its clause on a drained region whose completion tile is due: a faulted region that the lineage makes its own descendant
is among the kin that `State.escalateFault` kills, and its CSTAT ends as 4 and not as 3. -/
theorem not_productsAndStability : ¬ Obligations.ProductsAndStability := by
  unfold Obligations.ProductsAndStability
  intro h
  obtain ⟨-, -, -, -, -, hregion⟩ :=
    h cyclicLineage 0 0 0 0 (probeFiring 0 0 0) { index := 0, d := [], lslice := 0, inserted := false } orphanedRegion
  obtain ⟨hdrained, -⟩ := hregion rfl
  have hchild : ∀ c ∈ cyclicLineage.regions, c.parent ≠ some 0 := by decide
  obtain ⟨-, -, -, hdue⟩ := hdrained rfl rfl nofun rfl rfl rfl hchild
  obtain ⟨g, hg, -, hcstat⟩ := hdue ⟨nofun, by decide, rfl⟩
  have hfault : g.cstat = 3 := hcstat
  have hkilled : g.cstat = 4 := by
    have := cyclicLineage_completes_killed
    rw [hg] at this
    exact congrArg Prod.snd (Option.some.inj this)
  omega

end Sys2Proof.Machine

/-! Floating-point results (spec/03_number_formats.md R37, R45, R48): the encodings of an IEEE format in the order of their magnitudes, and
the neighbours of a real number among them. -/

namespace Sys2Proof.Machine

/-! ### The encoded magnitudes of a format -/

/-- What the three formats of R37 have in common: infinity is the encoding after the largest finite one, with every exponent bit set and no
significand bit. (The significand of `mb` = 3 marks F8, whose zero has no sign.) -/
structure Fmt.IsIeee (f : Fmt) : Prop where
  ieee : f.ieee = true
  mb_pos : 1 ≤ f.mb
  mb_ne_three : f.mb ≠ 3
  eb_ge : 2 ≤ f.eb
  infEnc_eq : f.infEnc = (2 ^ f.eb - 1) * 2 ^ f.mb

theorem isIeee_of_mem {f : Fmt} (hf : f = bf16 ∨ f = fp32 ∨ f = fp64) : f.IsIeee := by
  rcases hf with rfl | rfl | rfl <;> exact ⟨rfl, by decide, by decide, by decide, by decide⟩

/-- The value of an encoded magnitude (R37), for every natural number: the encodings from infinity on stand for the values that would follow
if the exponent went on. -/
def Fmt.magnitude (f : Fmt) (c : Nat) : ℚ :=
  if c / 2 ^ f.mb = 0 then ((c % 2 ^ f.mb : Nat) : ℚ) * 2 ^ f.qmin
  else ((c % 2 ^ f.mb + 2 ^ f.mb : Nat) : ℚ) * 2 ^ (f.qmin + (c / 2 ^ f.mb - 1 : Nat))

/-- A magnitude with a sign. -/
def signed {α : Type} [Neg α] (neg : Bool) (x : α) : α := if neg then -x else x

@[simp] theorem signed_true {α : Type} [Neg α] (x : α) : signed true x = -x := rfl
@[simp] theorem signed_false {α : Type} [Neg α] (x : α) : signed false x = x := rfl

@[simp] theorem cast_signed (neg : Bool) (q : ℚ) : ((signed neg q : ℚ) : ℝ) = signed neg (q : ℝ) := by
  cases neg <;> simp

theorem signed_injective (neg : Bool) : Function.Injective (signed neg : ℝ → ℝ) := by
  cases neg
  · exact fun _ _ h => h
  · exact neg_injective

@[simp] theorem abs_signed {x : ℝ} (hx : 0 ≤ x) (neg : Bool) : |signed neg x| = x := by
  cases neg <;> simp [abs_of_nonneg hx]

/-- The sign is that of the number, unless the number is zero. -/
theorem signed_neg_iff {x : ℝ} (hx : 0 ≤ x) {neg : Bool} (hne : signed neg x ≠ 0) : neg = true ↔ signed neg x < 0 := by
  cases neg
  · simpa using hx
  · exact iff_of_true rfl (lt_of_le_of_ne (neg_nonpos.2 hx) hne)

theorem rat_fin (n : Bool) (m : Nat) (e : Int) : Spec.rat (.fin n m e) = some (signed n ((m : ℚ) * 2 ^ e)) := by
  cases n <;> simp [Spec.rat]

theorem finite_eq_fin (f : Fmt) (n : Bool) (c : Nat) :
    ∃ k e, f.finite n c = .fin n k e ∧ (k : ℚ) * 2 ^ e = f.magnitude c := by
  by_cases h : c / 2 ^ f.mb = 0
  · exact ⟨_, _, if_pos h, (if_pos h).symm⟩
  · exact ⟨_, _, if_neg h, (if_neg h).symm⟩

theorem rat_finite (f : Fmt) (n : Bool) (c : Nat) : Spec.rat (f.finite n c) = some (signed n (f.magnitude c)) := by
  obtain ⟨k, e, heq, hval⟩ := finite_eq_fin f n c
  rw [heq, rat_fin, hval]

/-- The encoding of `t` units of `2 ^ (qmin + k)`, where `t` has at most `mb + 1` bits, and exactly so many unless the number is subnormal;
`t = 2 ^ (mb + 1)` is the carry into the next exponent. -/
theorem magnitude_units (f : Fmt) (k t : Nat) (ht : t ≤ 2 ^ (f.mb + 1)) (hk : k = 0 ∨ 2 ^ f.mb ≤ t) :
    f.magnitude (k * 2 ^ f.mb + t) = t * 2 ^ (f.qmin + k) := by
  have hp : 0 < 2 ^ f.mb := by positivity
  have h2 : 2 ^ (f.mb + 1) = 2 * 2 ^ f.mb := by ring
  rcases Nat.lt_or_ge t (2 ^ f.mb) with hlt | hge
  · obtain rfl : k = 0 := by omega
    simp [Fmt.magnitude, Nat.div_eq_of_lt hlt, Nat.mod_eq_of_lt hlt]
  rcases Nat.lt_or_ge t (2 ^ (f.mb + 1)) with hlt | hge'
  · have hc : k * 2 ^ f.mb + t = (t - 2 ^ f.mb) + 2 ^ f.mb * (k + 1) := by
      rw [Nat.mul_add, Nat.mul_comm k]; omega
    have hr : t - 2 ^ f.mb < 2 ^ f.mb := by omega
    rw [Fmt.magnitude, hc, Nat.add_mul_div_left _ _ hp, Nat.add_mul_mod_self_left, Nat.div_eq_of_lt hr, Nat.mod_eq_of_lt hr,
      if_neg (by omega), Nat.sub_add_cancel hge, show 0 + (k + 1) - 1 = k by omega]
  · obtain rfl : t = 2 ^ (f.mb + 1) := by omega
    have hc : k * 2 ^ f.mb + 2 ^ (f.mb + 1) = 0 + 2 ^ f.mb * (k + 2) := by ring
    rw [Fmt.magnitude, hc, Nat.add_mul_div_left _ _ hp, Nat.add_mul_mod_self_left, Nat.zero_div, Nat.zero_mod,
      if_neg (by omega), show 0 + (k + 2) - 1 = k + 1 by omega]
    push_cast
    rw [← add_assoc, zpow_add_one₀ two_ne_zero]
    ring

@[simp] theorem magnitude_zero (f : Fmt) : f.magnitude 0 = 0 := by
  simpa using magnitude_units f 0 0 (by positivity) (.inl rfl)

/-- A larger encoding has a larger magnitude: next in order is one more unit. -/
theorem magnitude_strictMono (f : Fmt) : StrictMono f.magnitude := by
  refine strictMono_nat_of_lt_succ fun c => ?_
  have h2 : 2 ^ (f.mb + 1) = 2 * 2 ^ f.mb := by ring
  have hp : 0 < 2 ^ f.mb := by positivity
  obtain ⟨k, t, rfl, ht, hk⟩ : ∃ k t, c = k * 2 ^ f.mb + t ∧ t < 2 ^ (f.mb + 1) ∧ (k = 0 ∨ 2 ^ f.mb ≤ t) := by
    have hdm := Nat.div_add_mod' c (2 ^ f.mb)
    have hr := Nat.mod_lt c hp
    rcases Nat.eq_zero_or_eq_succ_pred (c / 2 ^ f.mb) with h0 | hs
    · exact ⟨0, c % 2 ^ f.mb, by rw [h0] at hdm; omega, by omega, .inl rfl⟩
    · refine ⟨(c / 2 ^ f.mb).pred, c % 2 ^ f.mb + 2 ^ f.mb, ?_, by omega, .inr (by omega)⟩
      rw [hs, Nat.succ_mul] at hdm
      omega
  rw [magnitude_units f k t (by omega) hk, add_assoc, magnitude_units f k (t + 1) (by omega) (by omega)]
  gcongr
  simp

theorem magnitude_nonneg (f : Fmt) (c : Nat) : 0 ≤ f.magnitude c := by
  simpa using (magnitude_strictMono f).monotone (Nat.zero_le c)

/-! ### Encoding and decoding -/

theorem Fmt.IsIeee.infEnc_lt_signBit {f : Fmt} (hf : f.IsIeee) : f.infEnc < f.signBit := by
  have hp : 0 < 2 ^ f.mb := by positivity
  have he : 0 < 2 ^ f.eb := by positivity
  rw [hf.infEnc_eq, Fmt.signBit, pow_add, Nat.mul_comm (2 ^ f.mb)]
  exact Nat.mul_lt_mul_of_pos_right (by omega) hp

theorem Fmt.IsIeee.sign_eq {f : Fmt} (hf : f.IsIeee) (n : Bool) (c : Nat) : f.sign n c = c + if n then f.signBit else 0 := by
  cases n <;> simp [Fmt.sign, hf.mb_ne_three]

/-- The magnitude and the sign of an encoding that has been put together from them. -/
theorem signBit_split {s c : Nat} (hc : c < s) (n : Bool) :
    (c + if n then s else 0) % s = c ∧ ((c + if n then s else 0) / s % 2 == 1) = n := by
  have hs : 0 < s := by omega
  cases n
  · simp [Nat.mod_eq_of_lt hc, Nat.div_eq_of_lt hc]
  · simp [Nat.mod_eq_of_lt hc, Nat.div_eq_of_lt hc, Nat.add_div_right _ hs]

theorem Fmt.IsIeee.decode_eq {f : Fmt} (hf : f.IsIeee) {c : Nat} (hc : c < f.signBit) (n : Bool) :
    f.decode (c + if n then f.signBit else 0) =
      if c = f.infEnc then .inf n else if f.infEnc < c then .nan (c / 2 ^ (f.mb - 1) % 2 == 0) else f.finite n c := by
  obtain ⟨hmag, hneg⟩ := signBit_split hc n
  simp only [Fmt.decode, hmag, hneg, hf.ieee, if_true]

theorem Fmt.IsIeee.decode_inf {f : Fmt} (hf : f.IsIeee) (n : Bool) :
    f.decode (f.infEnc + if n then f.signBit else 0) = .inf n := by
  rw [hf.decode_eq hf.infEnc_lt_signBit, if_pos rfl]

theorem Fmt.IsIeee.decode_finite {f : Fmt} (hf : f.IsIeee) {c : Nat} (hc : c ≤ f.maxEnc) (n : Bool) :
    f.decode (c + if n then f.signBit else 0) = f.finite n c := by
  have hinf : f.infEnc = f.maxEnc + 1 := rfl
  have hlt := hf.infEnc_lt_signBit
  rw [hf.decode_eq (by omega), if_neg (by omega), if_neg (by omega)]

/-- The finite values of a format are the magnitudes up to the largest one, with either sign. -/
theorem Fmt.IsIeee.rat_decode_iff {f : Fmt} (hf : f.IsIeee) (z : ℚ) :
    (∃ c, Spec.rat (f.decode c) = some z) ↔ ∃ n, ∃ c ≤ f.maxEnc, z = signed n (f.magnitude c) := by
  constructor
  · rintro ⟨x, hx⟩
    simp only [Fmt.decode, hf.ieee, if_true] at hx
    split at hx
    · cases hx
    split at hx
    · cases hx
    next hne hle =>
      have hinf : f.infEnc = f.maxEnc + 1 := rfl
      rw [rat_finite] at hx
      exact ⟨_, _, by omega, (Option.some.inj hx).symm⟩
  · rintro ⟨n, c, hc, rfl⟩
    exact ⟨_, by rw [hf.decode_finite hc n, rat_finite]⟩

theorem Fmt.IsIeee.rat_decode_neg {f : Fmt} (hf : f.IsIeee) {c : Nat} {z : ℚ} (hz : Spec.rat (f.decode c) = some z) :
    ∃ c', Spec.rat (f.decode c') = some (-z) := by
  obtain ⟨n, k, hk, rfl⟩ := (hf.rat_decode_iff z).1 ⟨c, hz⟩
  exact (hf.rat_decode_iff _).2 ⟨!n, k, hk, by cases n <;> simp⟩

/-- No value of the format lies between two magnitudes that follow each other. -/
theorem Fmt.IsIeee.gap {f : Fmt} (hf : f.IsIeee) (l : Nat) {c : Nat} {z : ℚ} (hz : Spec.rat (f.decode c) = some z) :
    z ≤ f.magnitude l ∨ f.magnitude (l + 1) ≤ z := by
  obtain ⟨n, k, -, rfl⟩ := (hf.rat_decode_iff z).1 ⟨c, hz⟩
  have hmono := (magnitude_strictMono f).monotone
  cases n
  · rcases Nat.lt_or_ge l k with h | h
    · exact .inr (hmono h)
    · exact .inl (hmono h)
  · have hk := magnitude_nonneg f k
    have hl := magnitude_nonneg f l
    exact .inl (by simp only [signed_true]; linarith)

theorem Fmt.IsIeee.abs_le_top {f : Fmt} (hf : f.IsIeee) {c : Nat} {z : ℚ} (hz : Spec.rat (f.decode c) = some z) :
    |z| ≤ f.magnitude f.maxEnc := by
  obtain ⟨n, k, hk, rfl⟩ := (hf.rat_decode_iff z).1 ⟨c, hz⟩
  have hle := (magnitude_strictMono f).monotone hk
  have h0 := magnitude_nonneg f k
  cases n <;> simpa [abs_of_nonneg h0] using hle

theorem Fmt.IsIeee.top_eq {f : Fmt} (hf : f.IsIeee) : Spec.top f = f.magnitude f.maxEnc := by
  have h := hf.decode_finite (le_refl f.maxEnc) false
  simp only [Bool.false_eq_true, if_false, Nat.add_zero] at h
  simp [Spec.top, h, rat_finite]

/-- The bound of the results rounded to nearest lies midway between the largest finite magnitude and the one that would follow. -/
theorem Fmt.IsIeee.overflowAt_eq {f : Fmt} (hf : f.IsIeee) :
    Spec.overflowAt f = (f.magnitude f.maxEnc + f.magnitude f.infEnc) / 2 := by
  have h2 : 2 ^ (f.mb + 1) = 2 * 2 ^ f.mb := by ring
  have hp : 0 < 2 ^ f.mb := by positivity
  have he : 2 ^ 2 ≤ 2 ^ f.eb := Nat.pow_le_pow_right (by omega) hf.eb_ge
  have hk : 2 ^ f.eb - 1 = (2 ^ f.eb - 3) + 2 := by omega
  have hinf : f.infEnc = (2 ^ f.eb - 3) * 2 ^ f.mb + 2 ^ (f.mb + 1) := by rw [hf.infEnc_eq, hk, Nat.add_mul, h2]
  have hmax : f.maxEnc = (2 ^ f.eb - 3) * 2 ^ f.mb + (2 ^ (f.mb + 1) - 1) := by
    have : f.infEnc = f.maxEnc + 1 := rfl
    omega
  rw [Spec.overflowAt, hf.top_eq, hmax, hinf, magnitude_units f _ _ (by omega) (.inr (by omega)),
    magnitude_units f _ _ le_rfl (.inr (by omega)), Nat.cast_sub (by omega)]
  have hne : (2 : ℚ) ^ (f.mb + 2) - 2 ≠ 0 := by
    have : (2 : ℚ) ^ 2 ≤ 2 ^ (f.mb + 2) := pow_le_pow_right₀ (by norm_num) (by omega)
    linarith
  push_cast
  field_simp
  ring

theorem Fmt.IsIeee.infEnc_even {f : Fmt} (hf : f.IsIeee) : f.infEnc % 2 = 0 := by
  rw [hf.infEnc_eq, ← Nat.dvd_iff_mod_eq_zero]
  exact Dvd.dvd.mul_left (dvd_pow_self 2 (by have := hf.mb_pos; omega)) _

theorem Fmt.IsIeee.signBit_even {f : Fmt} (hf : f.IsIeee) : f.signBit % 2 = 0 := by
  rw [← Nat.dvd_iff_mod_eq_zero]
  exact dvd_pow_self 2 (by have := hf.mb_pos; omega)

/-! ### The neighbour that a mode asks for -/

/-- Whether a mode of R45 delivers the upper of two neighbouring magnitudes for an exact magnitude `x` with `lo ≤ x < hi`; `odd` says that the
lower one has an odd significand. Code 4 works as code 0 in the IEEE formats. -/
def RoundsUp (mode : Nat) (neg : Bool) (lo hi x : ℝ) (odd : Prop) : Prop :=
  match mode with
  | 1 => False
  | 2 => lo < x ∧ neg = false
  | 3 => lo < x ∧ neg = true
  | _ => lo + hi < 2 * x ∨ lo + hi = 2 * x ∧ odd

/-- `x` lies between two values of the format, not below zero, that follow each other. -/
structure InGap (f : Fmt) (x : ℝ) (lo hi : ℚ) : Prop where
  nonneg : 0 ≤ lo
  le : lo ≤ x
  lt : x < hi
  gap : ∀ c z, Spec.rat (f.decode c) = some z → z ≤ lo ∨ hi ≤ z

section Neighbours

variable {f : Fmt} {x : ℝ} {lo hi y : ℚ} {odd even : Prop}

theorem InGap.nonneg_real (h : InGap f x lo hi) : (0 : ℝ) ≤ lo := by exact_mod_cast h.nonneg

/-- A value of the format below a number in the gap is not above the gap's lower end, and so on the other side. -/
theorem InGap.le_lo (h : InGap f x lo hi) {c : Nat} {z : ℚ} (hz : Spec.rat (f.decode c) = some z) (hzx : z ≤ x) : z ≤ lo :=
  (h.gap c z hz).resolve_right fun hle => (show z < hi by exact_mod_cast hzx.trans_lt h.lt).not_ge hle

theorem InGap.hi_le (h : InGap f x lo hi) (hlt : lo < x) {c : Nat} {z : ℚ} (hz : Spec.rat (f.decode c) = some z) (hxz : x ≤ z) : hi ≤ z :=
  (h.gap c z hz).resolve_left fun hle => (show lo < z by exact_mod_cast hlt.trans_le hxz).not_ge hle

/-- In the nearest modes; a tie, where another value is as near as the one delivered, is one between the two ends of the gap. -/
theorem neighbour_nearest {m : Nat} (hm : m = 0 ∨ m = 4) (h : InGap f x lo hi) (htop : x < Spec.overflowAt f)
    (hy : y = lo ∧ ¬ (lo + hi < 2 * x ∨ lo + hi = 2 * x ∧ odd) ∧ (¬ odd → even) ∨
      y = hi ∧ (lo + hi < 2 * x ∨ lo + hi = 2 * x ∧ odd) ∧ (odd → even)) :
    Spec.Neighbour f m x y even := by
  have hle := h.le
  have hlt := h.lt
  refine ⟨fun _ => ⟨by rwa [abs_of_nonneg (h.nonneg_real.trans hle)], fun c z hz => ?_⟩, by omega, by omega, by omega⟩
  have hz' : (z : ℝ) ≤ lo ∨ (hi : ℝ) ≤ z := by exact_mod_cast h.gap c z hz
  have hne : z ≠ y → (z : ℝ) ≠ y := fun h => by exact_mod_cast h
  obtain ⟨rfl, hdown, heven⟩ | ⟨rfl, hup, heven⟩ := hy
  · have hhalf : 2 * x ≤ y + hi := not_lt.1 fun h => hdown (.inl h)
    have htie : 2 * x = y + hi → even := fun h => heven fun ho => hdown (.inr ⟨h.symm, ho⟩)
    rw [abs_of_nonneg (sub_nonneg.2 hle)]
    rcases hz' with hbelow | habove
    · rw [abs_of_nonneg (by linarith)]
      exact ⟨by linarith, fun hzy heq => absurd (by linarith) (hne hzy)⟩
    · rw [abs_of_nonpos (by linarith)]
      exact ⟨by linarith, fun _ heq => htie (by linarith)⟩
  · have hhalf : lo + y ≤ 2 * x := hup.elim le_of_lt fun h => h.1.le
    have htie : lo + y = 2 * x → even := fun h => heven (hup.elim (fun hlt => absurd h hlt.ne) And.right)
    rw [abs_of_nonpos (sub_nonpos.2 hlt.le)]
    rcases hz' with hbelow | habove
    · rw [abs_of_nonneg (by linarith)]
      exact ⟨by linarith, fun _ heq => htie (by linarith)⟩
    · rw [abs_of_nonpos (by linarith)]
      exact ⟨by linarith, fun hzy heq => absurd (by linarith) (hne hzy)⟩

theorem neighbour_towardZero (h : InGap f x lo hi) : Spec.Neighbour f 1 x lo even := by
  have hlo := h.nonneg_real
  have hx := hlo.trans h.le
  refine ⟨by omega, fun _ => ⟨by rw [abs_of_nonneg hlo, abs_of_nonneg hx]; exact h.le, mul_nonneg hx hlo, fun c z hz habs hsign => ?_⟩,
    by omega, by omega⟩
  rw [abs_of_nonneg hx] at habs
  rw [abs_of_nonneg h.nonneg]
  rcases le_or_gt 0 z with hz0 | hz0
  · rw [abs_of_nonneg hz0]
    exact h.le_lo hz ((le_abs_self _).trans habs)
  · -- a value below zero has the sign of `x` only where `x` is zero
    have hz' : (z : ℝ) < 0 := by exact_mod_cast hz0
    have hx0 : x ≤ 0 := not_lt.1 fun hpos => absurd hsign (mul_neg_of_pos_of_neg hpos hz').not_ge
    have hle : |(z : ℝ)| ≤ lo := by linarith
    exact_mod_cast hle

theorem neighbour_up (h : InGap f x lo hi) (hy : y = lo ∧ ¬ lo < x ∨ y = hi ∧ lo < x) : Spec.Neighbour f 2 x y even := by
  refine ⟨by omega, by omega, fun _ => ?_, by omega⟩
  obtain ⟨rfl, hle⟩ | ⟨rfl, hlt⟩ := hy
  · exact ⟨not_lt.1 hle, fun c z _ hz => by exact_mod_cast h.le.trans hz⟩
  · exact ⟨h.lt.le, fun c z => h.hi_le hlt⟩

theorem neighbour_down (h : InGap f x lo hi) : Spec.Neighbour f 3 x lo even :=
  ⟨by omega, by omega, by omega, fun _ => ⟨h.le, fun _ _ => h.le_lo⟩⟩

/-- A nonnegative number rounds to the end of its gap that the mode asks for. -/
theorem neighbour_of_inGap {m : Nat} (hm : m < 5) (h : InGap f x lo hi) (htop : m = 0 ∨ m = 4 → x < Spec.overflowAt f)
    (hy : y = lo ∧ ¬ RoundsUp m false lo hi x odd ∧ (¬ odd → even) ∨ y = hi ∧ RoundsUp m false lo hi x odd ∧ (odd → even)) :
    Spec.Neighbour f m x y even := by
  obtain rfl | rfl | rfl | rfl | rfl : m = 0 ∨ m = 1 ∨ m = 2 ∨ m = 3 ∨ m = 4 := by omega
  · exact neighbour_nearest (.inl rfl) h (htop (.inl rfl)) hy
  · obtain ⟨rfl, -, -⟩ | ⟨-, hup, -⟩ := hy
    · exact neighbour_towardZero h
    · exact hup.elim
  · refine neighbour_up h ?_
    exact hy.imp (fun ⟨hlo, hdown, _⟩ => ⟨hlo, fun hlt => hdown ⟨hlt, rfl⟩⟩) fun ⟨hhi, ⟨hlt, _⟩, _⟩ => ⟨hhi, hlt⟩
  · obtain ⟨rfl, -, -⟩ | ⟨-, hup, -⟩ := hy
    · exact neighbour_down h
    · exact absurd hup.2 Bool.false_ne_true
  · exact neighbour_nearest (.inr rfl) h (htop (.inr rfl)) hy

end Neighbours

/-- The mode that rounds numbers below zero as `m` rounds their magnitudes. -/
def mirror (m : Nat) : Nat := if m = 2 then 3 else if m = 3 then 2 else m

theorem mirror_lt {m : Nat} (hm : m < 5) : mirror m < 5 := by unfold mirror; split_ifs <;> omega

theorem mirror_nearest_iff {m : Nat} : mirror m = 0 ∨ mirror m = 4 ↔ m = 0 ∨ m = 4 := by
  unfold mirror
  split_ifs <;> simp [*]

theorem roundsUp_true_iff {m : Nat} (hm : m < 5) (lo hi x : ℝ) (odd : Prop) :
    RoundsUp m true lo hi x odd ↔ RoundsUp (mirror m) false lo hi x odd := by
  obtain rfl | rfl | rfl | rfl | rfl : m = 0 ∨ m = 1 ∨ m = 2 ∨ m = 3 ∨ m = 4 := by omega
  all_goals simp [RoundsUp, mirror]

/-- The values of a format lie symmetric to zero, and so do the neighbours. -/
theorem Fmt.IsIeee.neighbour_neg {f : Fmt} (hf : f.IsIeee) {m : Nat} {x : ℝ} {y : ℚ} {even : Prop}
    (h : Spec.Neighbour f (mirror m) x y even) : Spec.Neighbour f m (-x) (-y) even := by
  have hneg {p : ℚ → Prop} (hp : ∀ c z, Spec.rat (f.decode c) = some z → p z) (c : Nat) (z : ℚ)
      (hz : Spec.rat (f.decode c) = some z) : p (-z) := by
    obtain ⟨c', hc'⟩ := hf.rat_decode_neg hz
    exact hp c' (-z) hc'
  obtain ⟨hnear, hzero, hup, hdown⟩ := h
  refine ⟨fun h => ?_, fun h => ?_, fun h => ?_, fun h => ?_⟩
  · obtain ⟨htop, hall⟩ := hnear (mirror_nearest_iff.2 h)
    refine ⟨by rwa [abs_neg], fun c z hz => ?_⟩
    have hdist (q : ℚ) : |-x - q| = |x - (-q : ℚ)| := by rw [← abs_neg]; push_cast; ring_nf
    obtain ⟨hle, heven⟩ := hneg hall c z hz
    rw [hdist, hdist, neg_neg]
    exact ⟨hle, fun hne => heven fun heq => hne (by rw [← heq, neg_neg])⟩
  · obtain ⟨habs, hsign, hall⟩ := hzero (by simp [mirror, h])
    refine ⟨by simpa using habs, by simpa using hsign, fun c z hz => ?_⟩
    simpa using hneg hall c z hz
  · obtain ⟨hle, hall⟩ := hdown (by simp [mirror, h])
    refine ⟨by simpa using hle, fun c z hz hxz => ?_⟩
    exact neg_le.1 (hneg hall c z hz (by push_cast; linarith))
  · obtain ⟨hle, hall⟩ := hup (by simp [mirror, h])
    refine ⟨by simpa using hle, fun c z hz hxz => ?_⟩
    exact le_neg.1 (hneg hall c z hz (by push_cast; linarith))

/-! ### Rounding to a multiple of a power of two -/

/-- A real magnitude that the model holds as `m × 2 ^ e`, or as that and a little more when `sticky`. -/
def Holds (m : Nat) (e : Int) (sticky : Bool) (x : ℝ) : Prop :=
  if sticky then m * 2 ^ e < x ∧ x < (m + 1) * 2 ^ e else x = m * 2 ^ e

theorem Holds.le {m : Nat} {e : Int} {sticky : Bool} {x : ℝ} (h : Holds m e sticky x) : m * 2 ^ e ≤ x := by
  cases sticky
  · exact (show x = _ from h).ge
  · exact (show _ < _ ∧ _ < _ from h).1.le

theorem Holds.lt {m : Nat} {e : Int} {sticky : Bool} {x : ℝ} (h : Holds m e sticky x) : x < (m + 1) * 2 ^ e := by
  cases sticky
  · rw [show x = _ from h]
    gcongr
    exact lt_add_one _
  · exact (show _ < _ ∧ _ < _ from h).2

theorem Holds.le_iff {m : Nat} {e : Int} {sticky : Bool} {x : ℝ} (h : Holds m e sticky x) (n : Nat) :
    n * (2 : ℝ) ^ e ≤ x ↔ n ≤ m := by
  have hu : (0 : ℝ) < 2 ^ e := by positivity
  constructor
  · intro hle
    have : (n : ℝ) < m + 1 := lt_of_mul_lt_mul_right (hle.trans_lt h.lt) hu.le
    exact Nat.lt_succ_iff.1 (by exact_mod_cast this)
  · intro hle
    refine le_trans ?_ h.le
    gcongr

theorem Holds.eq_iff {m : Nat} {e : Int} {sticky : Bool} {x : ℝ} (h : Holds m e sticky x) (n : Nat) :
    n * (2 : ℝ) ^ e = x ↔ n = m ∧ sticky = false := by
  have hu : (0 : ℝ) < 2 ^ e := by positivity
  cases sticky
  · have hx : x = m * 2 ^ e := h
    rw [hx, mul_left_inj' hu.ne']
    simp
  · simp only [Bool.true_eq_false, and_false, iff_false]
    intro heq
    have hnm : n ≤ m := (h.le_iff n).1 heq.le
    have hlt : (m : ℝ) * 2 ^ e < x := (show _ < _ ∧ _ < _ from h).1
    have : (n : ℝ) * 2 ^ e ≤ m * 2 ^ e := by gcongr
    linarith

theorem Holds.lt_iff {m : Nat} {e : Int} {sticky : Bool} {x : ℝ} (h : Holds m e sticky x) (n : Nat) :
    n * (2 : ℝ) ^ e < x ↔ n < m ∨ n = m ∧ sticky = true := by
  rw [lt_iff_le_and_ne, h.le_iff, Ne, h.eq_iff]
  cases sticky <;> simp <;> omega

/-- `r` is `x` as a multiple of `2 ^ q`: the `t` units below it, or one more where the mode asks for it, and whether `x` is no multiple. -/
def RoundedTo (mode : Nat) (neg : Bool) (q : Int) (x : ℝ) (r : Nat × Bool) (t : Nat) : Prop :=
  t * 2 ^ q ≤ x ∧ x < (t + 1) * 2 ^ q ∧ (r.2 = true ↔ t * 2 ^ q < x) ∧
    (r.1 = t ∧ ¬ RoundsUp mode neg (t * 2 ^ q) ((t + 1) * 2 ^ q) x (t % 2 = 1) ∨
     r.1 = t + 1 ∧ RoundsUp mode neg (t * 2 ^ q) ((t + 1) * 2 ^ q) x (t % 2 = 1))

theorem two_zpow_of_le {K : Type} [DivisionRing K] [CharZero K] {a b : Int} (h : a ≤ b) : (2 : K) ^ b = 2 ^ (b - a).toNat * 2 ^ a := by
  rw [← zpow_natCast, ← zpow_add₀ two_ne_zero]
  congr 1
  omega

/-- A number without the sticky bit, of an exponent not below the unit's, is a multiple of the unit already. -/
theorem roundAt_of_le {mode : Nat} (hmode : mode < 4) (neg : Bool) {m : Nat} {e q : Int} {x : ℝ} (h : Holds m e false x) (hqe : q ≤ e) :
    ∃ t, RoundedTo mode neg q x (roundAt mode neg m e false q) t := by
  have hx : x = (m * 2 ^ (e - q).toNat : Nat) * 2 ^ q := by
    rw [show x = m * 2 ^ e from h, two_zpow_of_le hqe]
    push_cast
    ring
  have hu : (0 : ℝ) < 2 ^ q := by positivity
  simp only [roundAt, if_pos hqe]
  refine ⟨_, hx.ge, by rw [hx]; linarith, by simp [hx], .inl ⟨rfl, ?_⟩⟩
  rw [← hx]
  obtain rfl | rfl | rfl | rfl : mode = 0 ∨ mode = 1 ∨ mode = 2 ∨ mode = 3 := by omega
  all_goals simp only [RoundsUp, lt_irrefl, false_and, not_false_eq_true]
  rw [hx]
  rintro (h | ⟨h, -⟩) <;> linarith

theorem ite_succ_spec {up : Bool} {p : Prop} {t : Nat} (h : up = true ↔ p) :
    (if up then t + 1 else t) = t ∧ ¬ p ∨ (if up then t + 1 else t) = t + 1 ∧ p := by
  cases up
  · exact .inl ⟨rfl, fun hp => absurd (h.2 hp) Bool.false_ne_true⟩
  · exact .inr ⟨rfl, h.1 rfl⟩

/-- Below the unit, the bits shifted out and the sticky bit say on which side of the midpoint the exact value lies. -/
theorem roundAt_of_lt {mode : Nat} (hmode : mode < 4) (neg : Bool) {m : Nat} {e q : Int} {sticky : Bool} {x : ℝ} (h : Holds m e sticky x)
    (hqe : e < q) : ∃ t, RoundedTo mode neg q x (roundAt mode neg m e sticky q) t := by
  obtain ⟨j, hj⟩ : ∃ j, (q - e).toNat = j + 1 := ⟨(q - e).toNat - 1, by omega⟩
  have hpow : (2 : ℝ) ^ q = 2 ^ (j + 1) * 2 ^ e := by rw [two_zpow_of_le hqe.le, hj]
  have hp : 0 < 2 ^ j := by positivity
  have hm := Nat.div_add_mod' m (2 ^ (j + 1))
  have hr := Nat.mod_lt m (show 0 < 2 ^ (j + 1) by positivity)
  simp only [roundAt, if_neg (show ¬ q ≤ e by omega), hj, Nat.add_sub_cancel]
  generalize m / 2 ^ (j + 1) = t, m % 2 ^ (j + 1) = r at hm hr ⊢
  have hlo : (t : ℝ) * 2 ^ q = (t * 2 ^ (j + 1) : Nat) * 2 ^ e := by rw [hpow]; push_cast; ring
  have hhi : ((t : ℝ) + 1) * 2 ^ q = ((t + 1) * 2 ^ (j + 1) : Nat) * 2 ^ e := by rw [hpow]; push_cast; ring
  have hmid : (t : ℝ) * 2 ^ q + (t + 1) * 2 ^ q = 2 * ((t * 2 ^ (j + 1) + 2 ^ j : Nat) * 2 ^ e) := by
    rw [hpow]; push_cast; ring
  have hinexact : t * 2 ^ q < x ↔ (r != 0 || sticky) = true := by
    rw [hlo, h.lt_iff, Bool.or_eq_true, bne_iff_ne]
    cases sticky <;> simp <;> omega
  have habove : (t : ℝ) * 2 ^ q + (t + 1) * 2 ^ q < 2 * x ↔ (decide (2 ^ j < r) || (r == 2 ^ j && sticky)) = true := by
    rw [hmid, mul_lt_mul_iff_right₀ two_pos, h.lt_iff]
    cases sticky <;> simp <;> omega
  have htie : (t : ℝ) * 2 ^ q + (t + 1) * 2 ^ q = 2 * x ↔ (r == 2 ^ j && !sticky) = true := by
    rw [hmid, mul_right_inj' two_ne_zero, h.eq_iff]
    cases sticky
    · simp; omega
    · simp
  refine ⟨t, ?_, ?_, hinexact.symm, ?_⟩
  · rw [hlo, h.le_iff]; omega
  · rw [hhi, ← not_le, h.le_iff, Nat.succ_mul]; omega
  obtain rfl | rfl | rfl | rfl : mode = 0 ∨ mode = 1 ∨ mode = 2 ∨ mode = 3 := by omega
  all_goals simp only [RoundsUp, hinexact, habove, htie]
  · exact ite_succ_spec (by simp)
  · exact ite_succ_spec (by simp)
  · exact ite_succ_spec (by simp)
  · exact ite_succ_spec (by simp)

theorem roundAt_spec {mode : Nat} (hmode : mode < 4) (neg : Bool) {m : Nat} {e q : Int} {sticky : Bool} {x : ℝ} (h : Holds m e sticky x)
    (hq : sticky = true → e < q) : ∃ t, RoundedTo mode neg q x (roundAt mode neg m e sticky q) t := by
  rcases lt_or_ge e q with hlt | hle
  · exact roundAt_of_lt hmode neg h hlt
  · obtain rfl : sticky = false := Bool.eq_false_iff.2 fun hs => (hq hs).not_ge hle
    exact roundAt_of_le hmode neg h hle

/-! ### The encoding that rounding delivers -/

theorem roundsUp_nearest_iff {m : Nat} (hm : m = 0 ∨ m = 4) (neg : Bool) (lo hi x : ℝ) (odd : Prop) :
    RoundsUp m neg lo hi x odd ↔ lo + hi < 2 * x ∨ lo + hi = 2 * x ∧ odd := by
  rcases hm with rfl | rfl <;> rfl

/-- No mode rounds up an exact magnitude. -/
theorem RoundsUp.lt {m : Nat} {neg : Bool} {lo hi x : ℝ} {odd : Prop} (hm : m < 5) (h : RoundsUp m neg lo hi x odd) (hlt : lo < hi) :
    lo < x := by
  have hnearest (h : lo + hi < 2 * x ∨ lo + hi = 2 * x ∧ odd) : lo < x := by
    rcases h with h | ⟨h, -⟩ <;> linarith
  obtain rfl | rfl | rfl | rfl | rfl : m = 0 ∨ m = 1 ∨ m = 2 ∨ m = 3 ∨ m = 4 := by omega
  · exact hnearest h
  · exact h.elim
  · exact h.1
  · exact h.1
  · exact hnearest h

theorem Fmt.IsIeee.neighbour_signed {f : Fmt} (hf : f.IsIeee) {m : Nat} {neg : Bool} {x : ℝ} {lo hi y : ℚ} {odd even : Prop} (hm : m < 5)
    (h : InGap f x lo hi) (htop : m = 0 ∨ m = 4 → x < Spec.overflowAt f)
    (hy : y = lo ∧ ¬ RoundsUp m neg lo hi x odd ∧ (¬ odd → even) ∨ y = hi ∧ RoundsUp m neg lo hi x odd ∧ (odd → even)) :
    Spec.Neighbour f m (signed neg x) (signed neg y) even := by
  cases neg
  · exact neighbour_of_inGap hm h htop hy
  · rw [roundsUp_true_iff hm] at hy
    exact hf.neighbour_neg (neighbour_of_inGap (mirror_lt hm) h (fun hn => htop (mirror_nearest_iff.1 hn)) hy)

/-- `l` is the encoding of the magnitude next below `x`, and `mag` the one that the mode rounds to: `l` or the next. -/
structure Between (f : Fmt) (m : Nat) (neg : Bool) (x : ℝ) (l mag : Nat) : Prop where
  le : f.magnitude l ≤ x
  lt : x < f.magnitude (l + 1)
  rounded : mag = l ∧ ¬ RoundsUp m neg (f.magnitude l) (f.magnitude (l + 1)) x (l % 2 = 1) ∨
    mag = l + 1 ∧ RoundsUp m neg (f.magnitude l) (f.magnitude (l + 1)) x (l % 2 = 1)

section Between

variable {f : Fmt} {m : Nat} {neg : Bool} {x : ℝ} {l mag : Nat}

theorem Between.nonneg (h : Between f m neg x l mag) : 0 ≤ x :=
  le_trans (by exact_mod_cast magnitude_nonneg f l) h.le

theorem Between.step_lt (_h : Between f m neg x l mag) : (f.magnitude l : ℝ) < f.magnitude (l + 1) := by
  exact_mod_cast magnitude_strictMono f (Nat.lt_succ_self l)

/-- The magnitude delivered is the exact one just when the magnitude below is. -/
theorem Between.exact_iff (h : Between f m neg x l mag) (hm : m < 5) : (f.magnitude mag : ℝ) = x ↔ ¬ f.magnitude l < x := by
  have hle := h.le
  have hlt := h.lt
  obtain ⟨rfl, -⟩ | ⟨rfl, hup⟩ := h.rounded
  · exact ⟨fun heq => by rw [heq]; exact lt_irrefl _, fun hnot => le_antisymm hle (not_lt.1 hnot)⟩
  · exact iff_of_false hlt.ne' (not_not.2 (hup.lt hm h.step_lt))

/-- What rounds to a finite magnitude in the nearest modes lies below the bound of overflow: the largest finite significand is odd, so that
the midpoint above it rounds up. -/
theorem Fmt.IsIeee.lt_overflowAt (hf : f.IsIeee) (h : Between f m neg x l mag) (hmag : mag ≤ f.maxEnc) (hm : m = 0 ∨ m = 4) :
    x < Spec.overflowAt f := by
  have hinf : f.infEnc = f.maxEnc + 1 := rfl
  have heven := hf.infEnc_even
  have hlt := h.lt
  have hmono {a b : Nat} (hab : a < b) : (f.magnitude a : ℝ) < f.magnitude b := by exact_mod_cast magnitude_strictMono f hab
  have hnext := hmono (show f.maxEnc < f.infEnc by omega)
  rw [hf.overflowAt_eq]
  push_cast
  obtain ⟨rfl, hdown⟩ | ⟨rfl, -⟩ := h.rounded
  · rcases hmag.lt_or_eq with hlm | rfl
    · have : (f.magnitude (mag + 1) : ℝ) ≤ f.magnitude f.maxEnc := by exact_mod_cast (magnitude_strictMono f).monotone hlm
      linarith
    · rw [roundsUp_nearest_iff hm, not_or, not_and', not_lt, ← hinf] at hdown
      exact (lt_div_iff₀' two_pos).2 (lt_of_le_of_ne hdown.1 fun heq => hdown.2 (by omega) heq.symm)
  · have : (f.magnitude (l + 1) : ℝ) ≤ f.magnitude f.maxEnc := by exact_mod_cast (magnitude_strictMono f).monotone hmag
    linarith

/-- A magnitude within the format, delivered with its sign, and NX unless it is exact. -/
theorem Fmt.IsIeee.rounds_finite (hf : f.IsIeee) (hm : m < 5) (h : Between f m neg x l mag) (hmag : mag ≤ f.maxEnc) {fl : Nat}
    (hfl : fl % 2 = 0 ↔ ¬ f.magnitude l < x) : Spec.Rounds f m (signed neg x) (f.sign neg mag, fl) := by
  have hdec : f.decode (f.sign neg mag) = f.finite neg mag := by rw [hf.sign_eq, hf.decode_finite hmag]
  have hrat := rat_finite f neg mag
  obtain ⟨k, e, hfin, -⟩ := finite_eq_fin f neg mag
  refine ⟨?_, .inl ⟨neg, k, e, _, hdec.trans hfin, hfin ▸ hrat, fun _ => signed_neg_iff h.nonneg, ?_⟩⟩
  · rw [hfl, ← h.exact_iff hm, hdec, hrat]
    simp [(signed_injective neg).eq_iff]
  have hparity : f.sign neg mag % 2 = mag % 2 := by
    have := hf.signBit_even
    rw [hf.sign_eq]
    split <;> omega
  rw [hparity]
  exact hf.neighbour_signed hm ⟨magnitude_nonneg f l, h.le, h.lt, fun _ _ => hf.gap l⟩ (hf.lt_overflowAt h hmag)
    (h.rounded.imp (fun ⟨hl, hdown⟩ => ⟨by rw [hl], hdown, by omega⟩) fun ⟨hl, hup⟩ => ⟨by rw [hl], hup, by omega⟩)

/-- A result whose exact magnitude exceeds every finite one is inexact. -/
theorem Fmt.IsIeee.not_exact_of_top_lt (hf : f.IsIeee) (hx : 0 ≤ x) (htop : f.magnitude f.maxEnc < x) (r : Nat) :
    ¬ ∃ y : ℚ, Spec.rat (f.decode r) = some y ∧ (y : ℝ) = signed neg x := by
  rintro ⟨y, hy, heq⟩
  have hle : |(y : ℝ)| ≤ f.magnitude f.maxEnc := by exact_mod_cast hf.abs_le_top hy
  rw [heq, abs_signed hx] at hle
  linarith

/-- Where the mode rounds toward it, an overflow delivers the infinity. -/
theorem Fmt.IsIeee.rounds_inf (hf : f.IsIeee) (hx : 0 ≤ x) (htop : f.magnitude f.maxEnc < x) {fl : Nat} (hfl : fl % 2 = 1)
    (hmode : (m = 0 ∨ m = 4) ∧ Spec.overflowAt f ≤ x ∨ (m = 2 ∧ neg = false ∨ m = 3 ∧ neg = true)) :
    Spec.Rounds f m (signed neg x) (f.infEnc + if neg then f.signBit else 0, fl) := by
  have hpos : 0 < x := lt_of_le_of_lt (by exact_mod_cast magnitude_nonneg f f.maxEnc) htop
  refine ⟨iff_of_false (by omega) (hf.not_exact_of_top_lt hx htop _), .inr ⟨neg, hf.decode_inf neg, ?_, ?_⟩⟩
  · exact signed_neg_iff hx (abs_pos.1 (by rwa [abs_signed hx]))
  · rw [abs_signed hx, hf.top_eq]
    exact hmode.imp id fun h => ⟨h, htop⟩

/-- Where the mode rounds away from infinity, an overflow delivers the largest finite value. -/
theorem Fmt.IsIeee.rounds_max (hf : f.IsIeee) (hx : 0 ≤ x) (htop : f.magnitude f.maxEnc < x) {fl : Nat} (hfl : fl % 2 = 1)
    (hmode : m = 1 ∨ m = 2 ∧ neg = true ∨ m = 3 ∧ neg = false) :
    Spec.Rounds f m (signed neg x) (f.maxEnc + if neg then f.signBit else 0, fl) := by
  have hdec := hf.decode_finite (le_refl f.maxEnc) neg
  have hrat := rat_finite f neg f.maxEnc
  obtain ⟨k, e, hfin, -⟩ := finite_eq_fin f neg f.maxEnc
  refine ⟨iff_of_false (by omega) (hf.not_exact_of_top_lt hx htop _),
    .inl ⟨neg, k, e, _, hdec.trans hfin, hfin ▸ hrat, fun _ => signed_neg_iff hx, ?_⟩⟩
  obtain ⟨hi, hxhi⟩ := exists_rat_gt x
  have hgap : InGap f x (f.magnitude f.maxEnc) hi :=
    ⟨magnitude_nonneg f _, htop.le, hxhi, fun _ _ hz => .inl ((le_abs_self _).trans (hf.abs_le_top hz))⟩
  refine hf.neighbour_signed (odd := True) (by omega) hgap (by omega) (.inl ⟨rfl, ?_, fun h => absurd trivial h⟩)
  rcases hmode with rfl | ⟨rfl, rfl⟩ | ⟨rfl, rfl⟩ <;> simp [RoundsUp]

/-- What rounds past the largest finite magnitude exceeds it. -/
theorem Between.top_lt (h : Between f m neg x l mag) (hm : m < 5) (hmag : f.maxEnc < mag) : f.magnitude f.maxEnc < x := by
  obtain ⟨rfl, -⟩ | ⟨rfl, hup⟩ := h.rounded
  · exact lt_of_lt_of_le (by exact_mod_cast magnitude_strictMono f hmag) h.le
  · exact lt_of_le_of_lt (by exact_mod_cast (magnitude_strictMono f).monotone (Nat.lt_succ_iff.1 hmag)) (hup.lt hm h.step_lt)

theorem Fmt.IsIeee.overflowAt_le (hf : f.IsIeee) (h : Between f m neg x l mag) (hmag : f.maxEnc < mag) (hm : m = 0 ∨ m = 4) :
    Spec.overflowAt f ≤ x := by
  have hinf : f.infEnc = f.maxEnc + 1 := rfl
  have hmono {a b : Nat} (hab : a ≤ b) : (f.magnitude a : ℝ) ≤ f.magnitude b := by exact_mod_cast (magnitude_strictMono f).monotone hab
  have hle := h.le
  have hnext := hmono (show f.maxEnc ≤ f.infEnc by omega)
  rw [hf.overflowAt_eq]
  push_cast
  rcases (show f.infEnc ≤ l ∨ l = f.maxEnc ∧ mag = l + 1 by have := h.rounded; omega) with hl | ⟨rfl, hl⟩
  · have := hmono hl
    linarith
  · obtain ⟨hl', -⟩ | ⟨-, hup⟩ := h.rounded
    · omega
    · rw [hinf]
      rcases (roundsUp_nearest_iff hm ..).1 hup with hlt | ⟨heq, -⟩ <;> linarith

/-- A magnitude past the largest finite one, delivered as R48 has it for the mode. -/
theorem Fmt.IsIeee.rounds_overflow (hf : f.IsIeee) (hm : m < 5) (h : Between f m neg x l mag) (hmag : f.maxEnc < mag) {fl : Nat}
    (hfl : fl % 2 = 1) : Spec.Rounds f m (signed neg x) (f.overflow m neg, fl) := by
  have htop := h.top_lt hm hmag
  have hinf := hf.rounds_inf (m := m) (neg := neg) h.nonneg htop hfl
  have hmax := hf.rounds_max (m := m) (neg := neg) h.nonneg htop hfl
  simp only [Fmt.overflow, hf.ieee, Bool.not_true, Bool.false_eq_true, if_false]
  obtain rfl | rfl | rfl | rfl | rfl : m = 0 ∨ m = 1 ∨ m = 2 ∨ m = 3 ∨ m = 4 := by omega
  · exact hinf (.inl ⟨.inl rfl, hf.overflowAt_le h hmag (.inl rfl)⟩)
  · exact hmax (.inl rfl)
  · cases neg
    · exact hinf (.inr (.inl ⟨rfl, rfl⟩))
    · exact hmax (.inr (.inl ⟨rfl, rfl⟩))
  · cases neg
    · exact hmax (.inr (.inr ⟨rfl, rfl⟩))
    · exact hinf (.inr (.inr ⟨rfl, rfl⟩))
  · exact hinf (.inl ⟨.inr rfl, hf.overflowAt_le h hmag (.inr rfl)⟩)

end Between

/-! ### `Fmt.round` -/

/-- The mode that the rounding of an IEEE format works in: code 4 is performed as code 0 (R45). -/
def ieeeMode (m : Nat) : Nat := if m = 4 then 0 else m

theorem ieeeMode_lt {m : Nat} (hm : m < 5) : ieeeMode m < 4 := by unfold ieeeMode; split <;> omega

@[simp] theorem roundsUp_ieeeMode (m : Nat) : RoundsUp (ieeeMode m) = RoundsUp m := by
  unfold ieeeMode
  split
  · next h => rw [h]; rfl
  · rfl

@[simp] theorem overflow_ieeeMode (f : Fmt) (m : Nat) : f.overflow (ieeeMode m) = f.overflow m := by
  unfold ieeeMode
  split
  · next h => rw [h]; rfl
  · rfl

/-- A nonzero number has its highest bit in place `bitLen - 1`. -/
theorem bitLen_spec {m : Nat} (hm : m ≠ 0) : ∃ b, bitLen m = b + 1 ∧ 2 ^ b ≤ m ∧ m < 2 ^ (b + 1) :=
  ⟨m.log2, by simp [bitLen, hm], Nat.log2_self_le hm, Nat.lt_log2_self⟩

theorem Holds.binade {m b : Nat} {e : Int} {sticky : Bool} {x : ℝ} (h : Holds m e sticky x) (hlow : 2 ^ b ≤ m) (hhigh : m < 2 ^ (b + 1)) :
    (2 : ℝ) ^ (e + b : Int) ≤ x ∧ x < 2 ^ (e + b + 1 : Int) := by
  constructor
  · refine le_trans ?_ h.le
    rw [zpow_add₀ two_ne_zero, mul_comm, zpow_natCast]
    gcongr
    exact_mod_cast hlow
  · refine h.lt.trans_le ?_
    rw [add_assoc, zpow_add₀ two_ne_zero, mul_comm]
    gcongr
    exact_mod_cast hhigh

/-- A number whose highest bit is `2 ^ top` has at most `mb + 1` bits in units of the quantum `2 ^ q`, and exactly so many unless it is
subnormal: the quantum is that of the exponent `top`, or the subnormals' where that is larger. -/
theorem units_bounds {f : Fmt} {x : ℝ} {q top : Int} {t : Nat} (hlow : 2 ^ top ≤ x) (hhigh : x < 2 ^ (top + 1))
    (hq : q = max (top - f.mb) f.qmin) (hle : t * 2 ^ q ≤ x) (hlt : x < (t + 1) * 2 ^ q) :
    t + 1 ≤ 2 ^ (f.mb + 1) ∧ ((q - f.qmin).toNat = 0 ∨ 2 ^ f.mb ≤ t) := by
  have hu : (0 : ℝ) < 2 ^ q := by positivity
  constructor
  · have hbound : x < 2 ^ (f.mb + 1) * 2 ^ q := by
      refine hhigh.trans_le ?_
      rw [← zpow_natCast, ← zpow_add₀ two_ne_zero]
      exact zpow_le_zpow_right₀ one_le_two (by push_cast; omega)
    exact_mod_cast lt_of_mul_lt_mul_right (hle.trans_lt hbound) hu.le
  · rcases (show q = f.qmin ∨ q + f.mb = top by omega) with h0 | htop
    · exact .inl (by omega)
    · have hbound : 2 ^ f.mb * 2 ^ q ≤ x := by rwa [← zpow_natCast, ← zpow_add₀ two_ne_zero, add_comm, htop]
      exact .inr (Nat.lt_succ_iff.1 (by exact_mod_cast lt_of_mul_lt_mul_right (hbound.trans_lt hlt) hu.le))

/-- The multiple of the quantum that rounding starts from, placed in the format, is the encoding next below the number. -/
theorem Fmt.IsIeee.between_of_roundedTo {f : Fmt} (hf : f.IsIeee) {m : Nat} {neg : Bool} {x : ℝ} {q top : Int} {r : Nat × Bool} {t : Nat}
    (hlow : 2 ^ top ≤ x) (hhigh : x < 2 ^ (top + 1)) (hq : q = max (top - f.mb) f.qmin) (h : RoundedTo m neg q x r t) :
    Between f m neg x ((q - f.qmin).toNat * 2 ^ f.mb + t) ((q - f.qmin).toNat * 2 ^ f.mb + r.1) ∧
      (r.2 = true ↔ f.magnitude ((q - f.qmin).toNat * 2 ^ f.mb + t) < x) := by
  obtain ⟨hle, hlt, hinexact, hrounded⟩ := h
  obtain ⟨ht, hk⟩ := units_bounds hlow hhigh hq hle hlt
  have hexp : f.qmin + (q - f.qmin).toNat = q := by omega
  have hl := magnitude_units f _ t (by omega) hk
  have hl' := magnitude_units f _ (t + 1) ht (hk.imp_right Nat.le_succ_of_le)
  rw [hexp] at hl hl'
  have hparity : ((q - f.qmin).toNat * 2 ^ f.mb + t) % 2 = t % 2 := by
    obtain ⟨b, hb⟩ := Dvd.dvd.mul_left (dvd_pow_self 2 (show f.mb ≠ 0 by have := hf.mb_pos; omega)) (q - f.qmin).toNat
    omega
  refine ⟨⟨?_, ?_, ?_⟩, ?_⟩
  · rw [hl]; push_cast; exact hle
  · rw [add_assoc, hl']; push_cast; exact hlt
  · rw [add_assoc, hl, hl', hparity]
    push_cast
    exact hrounded.imp (fun ⟨hr, hdown⟩ => ⟨by rw [hr], hdown⟩) fun ⟨hr, hup⟩ => ⟨by rw [hr], hup⟩
  · rw [hl]; push_cast; exact hinexact

/-- `Fmt.round` of a nonzero number with its highest bit in place `b`, by the multiple `r` of its quantum `2 ^ q` that `roundAt` gives. -/
theorem Fmt.IsIeee.round_eq {f : Fmt} (hf : f.IsIeee) (mode : Nat) (neg : Bool) {m b : Nat} (hm : m ≠ 0) (hb : bitLen m = b + 1) (e : Int)
    (sticky : Bool) {q : Int} (hq : q = max (e + b - f.mb) f.qmin) {r : Nat × Bool}
    (hr : r = roundAt (ieeeMode mode) neg m e sticky q) :
    ∃ uf : Bool, f.round mode neg m e sticky =
      if f.maxEnc < (q - f.qmin).toNat * 2 ^ f.mb + r.1 then (f.overflow mode neg, fOF + fNX)
      else (f.sign neg ((q - f.qmin).toNat * 2 ^ f.mb + r.1), (if r.2 then fNX else 0) + if uf then fUF else 0) := by
  have htop : e + ((b + 1 : Nat) : Int) - 1 = e + b := by omega
  have hmode : (if mode = 4 ∧ f.ieee = true then 0 else mode) = ieeeMode mode := by simp [hf.ieee, ieeeMode]
  simp only [Fmt.round, if_neg (show ¬ (m = 0 ∧ sticky = false) from fun h => hm h.1), hmode, overflow_ieeeMode, hb, htop, ← hq, ← hr]
  exact ⟨_, rfl⟩

theorem Fmt.IsIeee.rounds_zero {f : Fmt} (hf : f.IsIeee) {mode : Nat} (hmode : mode < 5) (neg : Bool) :
    Spec.Rounds f mode 0 (f.sign neg 0, 0) := by
  have hnext : (0 : ℝ) < f.magnitude 1 := by
    have := magnitude_strictMono f Nat.zero_lt_one
    rw [magnitude_zero] at this
    exact_mod_cast this
  have hbetween : Between f mode neg 0 0 0 := by
    refine ⟨by simp, by simpa using hnext, .inl ⟨rfl, fun hup => ?_⟩⟩
    simpa using hup.lt hmode (by simpa using hnext)
  have hsigned : signed neg (0 : ℝ) = 0 := by cases neg <;> simp
  rw [← hsigned]
  exact hf.rounds_finite hmode hbetween (Nat.zero_le _) (by simp)

/-- Rounding delivers the neighbour of the magnitude it is given, with its sign. A sticky bit says something only of a number of so many
bits that all of its excess lies below the unit. -/
theorem Fmt.IsIeee.round_rounds {f : Fmt} (hf : f.IsIeee) {mode : Nat} (hmode : mode < 5) (neg : Bool) {m : Nat} {e : Int} {sticky : Bool}
    {x : ℝ} (h : Holds m e sticky x) (hm : m ≠ 0) (hsticky : sticky = true → f.mb + 2 ≤ bitLen m) :
    Spec.Rounds f mode (signed neg x) (f.round mode neg m e sticky) := by
  obtain ⟨b, hb, hlow, hhigh⟩ := bitLen_spec hm
  obtain ⟨hlow', hhigh'⟩ := h.binade hlow hhigh
  obtain ⟨q, hq⟩ : ∃ q, q = max (e + b - f.mb) f.qmin := ⟨_, rfl⟩
  obtain ⟨r, hr⟩ : ∃ r, r = roundAt (ieeeMode mode) neg m e sticky q := ⟨_, rfl⟩
  obtain ⟨uf, hround⟩ := hf.round_eq mode neg hm hb e sticky hq hr
  obtain ⟨t, ht⟩ := roundAt_spec (ieeeMode_lt hmode) neg h (q := q) fun hs => by have := hsticky hs; omega
  rw [← hr, RoundedTo, roundsUp_ieeeMode] at ht
  obtain ⟨hbetween, hinexact⟩ := hf.between_of_roundedTo hlow' hhigh' hq ht
  rw [hround]
  split
  · next hmag => exact hf.rounds_overflow hmode hbetween hmag rfl
  · next hmag =>
      refine hf.rounds_finite hmode hbetween (not_lt.1 hmag) ?_
      rw [← hinexact]
      cases r.2 <;> cases uf <;> decide

/-! ### The exact results -/

theorem exists_fin_of_rat {x : Num} {q : ℚ} (h : Spec.rat x = some q) : ∃ n m e, x = .fin n m e ∧ q = signed n ((m : ℚ) * 2 ^ e) := by
  cases x with
  | nan s => cases h
  | inf n => cases h
  | fin n m e =>
    rw [rat_fin] at h
    exact ⟨n, m, e, rfl, (Option.some.inj h).symm⟩

theorem signed_mul_signed (a b : Bool) (x y : ℚ) : signed a x * signed b y = signed (a != b) (x * y) := by
  cases a <;> cases b <;> simp

theorem signed_div_signed (a b : Bool) (x y : ℚ) : signed a x / signed b y = signed (a != b) (x / y) := by
  cases a <;> cases b <;> simp [neg_div, div_neg]

theorem rat_mulNum {x y : Num} {p q : ℚ} (hx : Spec.rat x = some p) (hy : Spec.rat y = some q) :
    Spec.rat (mulNum x y) = some (p * q) := by
  obtain ⟨a, m, e, rfl, rfl⟩ := exists_fin_of_rat hx
  obtain ⟨b, m', e', rfl, rfl⟩ := exists_fin_of_rat hy
  rw [signed_mul_signed, mulNum, rat_fin, zpow_add₀ two_ne_zero]
  congr 2
  push_cast
  ring

/-- A number brought to a lower exponent. -/
theorem signed_scaled (n : Bool) (m : Nat) {e e₀ : Int} (h : e₀ ≤ e) :
    signed n ((m : ℚ) * 2 ^ e) = (((if n then -1 else 1) * ((m * 2 ^ (e - e₀).toNat : Nat) : Int) : Int) : ℚ) * 2 ^ e₀ := by
  rw [two_zpow_of_le h]
  cases n <;> simp <;> ring

theorem rat_addExact (mode : Nat) (n₁ n₂ : Bool) (m₁ m₂ : Nat) (e₁ e₂ : Int) :
    let r := addExact mode n₁ m₁ e₁ n₂ m₂ e₂
    signed r.1 ((r.2.1 : ℚ) * 2 ^ r.2.2) = signed n₁ ((m₁ : ℚ) * 2 ^ e₁) + signed n₂ ((m₂ : ℚ) * 2 ^ e₂) := by
  rw [signed_scaled n₁ m₁ (min_le_left e₁ e₂), signed_scaled n₂ m₂ (min_le_right e₁ e₂), ← add_mul, ← Int.cast_add]
  simp only [addExact]
  generalize ((if n₁ then (-1 : Int) else 1) * _ + _ : Int) = s
  split
  · next hs => simp [hs, signed]
  · next hs =>
    rcases lt_or_ge s 0 with hneg | hpos
    · simp [hneg, Nat.cast_natAbs, abs_of_neg hneg]
    · simp [hpos.not_gt, Nat.cast_natAbs, abs_of_nonneg hpos]

/-! ### The operations -/

section Operations

variable {f : Fmt} {mode : Nat} {x y : Num} {p q : ℚ}

/-- A number rounded into a format. -/
theorem Fmt.IsIeee.round_rounds_fin (hf : f.IsIeee) (hmode : mode < 5) (n : Bool) (m : Nat) (e : Int) :
    Spec.Rounds f mode (signed n ((m : ℚ) * 2 ^ e) : ℚ) (f.round mode n m e false) := by
  rcases eq_or_ne m 0 with rfl | hm
  · have : ((signed n (((0 : Nat) : ℚ) * 2 ^ e) : ℚ) : ℝ) = 0 := by cases n <;> simp
    have hround : f.round mode n 0 e false = (f.sign n 0, 0) := by simp [Fmt.round]
    rw [this, hround]
    exact hf.rounds_zero hmode n
  · rw [cast_signed]
    exact hf.round_rounds hmode n (show Holds m e false _ from by simp [Holds]) hm nofun

theorem Fmt.IsIeee.ofNum_rounds (hf : f.IsIeee) (hmode : mode < 5) (hx : Spec.rat x = some p) :
    Spec.Rounds f mode p (f.ofNum mode x) := by
  obtain ⟨n, m, e, rfl, rfl⟩ := exists_fin_of_rat hx
  exact hf.round_rounds_fin hmode n m e

theorem Fmt.IsIeee.addNum_rounds (hf : f.IsIeee) (hmode : mode < 5) (hx : Spec.rat x = some p) (hy : Spec.rat y = some q) :
    Spec.Rounds f mode (p + q : ℚ) (f.addNum mode x y) := by
  obtain ⟨n₁, m₁, e₁, rfl, rfl⟩ := exists_fin_of_rat hx
  obtain ⟨n₂, m₂, e₂, rfl, rfl⟩ := exists_fin_of_rat hy
  rw [← rat_addExact mode]
  exact hf.round_rounds_fin hmode _ _ _

/-- Cutting off a quotient leaves its whole part, and a remainder for the sticky bit. -/
theorem holds_div {a b : Nat} (hb : b ≠ 0) (e : Int) : Holds (a / b) e (a % b != 0) ((a : ℝ) / b * 2 ^ e) := by
  have hb' : (0 : ℝ) < b := by exact_mod_cast Nat.pos_of_ne_zero hb
  have hdm : ((a / b : Nat) : ℝ) * b + (a % b : Nat) = a := by exact_mod_cast Nat.div_add_mod' a b
  have hr : ((a % b : Nat) : ℝ) < b := by exact_mod_cast Nat.mod_lt a (Nat.pos_of_ne_zero hb)
  by_cases h : a % b = 0
  · simp only [h, Nat.cast_zero, add_zero] at hdm
    simp only [Holds, h, bne_self_eq_false, Bool.false_eq_true, if_false]
    rw [← hdm, mul_div_cancel_right₀ _ hb'.ne']
  · have hpos : (0 : ℝ) < (a % b : Nat) := by exact_mod_cast Nat.pos_of_ne_zero h
    simp only [Holds, bne_iff_ne.2 h, if_true]
    constructor
    · gcongr
      rw [lt_div_iff₀ hb']
      linarith
    · gcongr
      rw [div_lt_iff₀ hb']
      linarith

theorem two_pow_le_bitLen {n m : Nat} (h : 2 ^ n ≤ m) : n + 1 ≤ bitLen m := by
  obtain ⟨b, hb, -, hhigh⟩ := bitLen_spec (m := m) (by have := Nat.two_pow_pos n; omega)
  have := (Nat.pow_lt_pow_iff_right (by omega)).1 (h.trans_lt hhigh)
  omega

theorem two_pow_le_div {a b : Nat} (ha : a ≠ 0) (hb : b ≠ 0) (n : Nat) : 2 ^ n ≤ a * 2 ^ (n + bitLen b) / b := by
  obtain ⟨c, hc, -, hhigh⟩ := bitLen_spec hb
  rw [Nat.le_div_iff_mul_le (Nat.pos_of_ne_zero hb), hc]
  calc 2 ^ n * b ≤ 2 ^ n * 2 ^ (c + 1) := by gcongr
    _ = 1 * 2 ^ (n + (c + 1)) := by rw [one_mul, ← pow_add]
    _ ≤ a * 2 ^ (n + (c + 1)) := by gcongr; omega

/-- The quotient is taken of the dividend with `k` more bits, so that its whole part is long enough for the rest to be sticky. -/
theorem Fmt.IsIeee.div_rounds (hf : f.IsIeee) (hmode : mode < 5) (hx : Spec.rat x = some p) (hy : Spec.rat y = some q) (hq : q ≠ 0) :
    Spec.Rounds f mode (p / q : ℚ) (f.div mode x y) := by
  obtain ⟨n₁, m₁, e₁, rfl, rfl⟩ := exists_fin_of_rat hx
  obtain ⟨n₂, m₂, e₂, rfl, rfl⟩ := exists_fin_of_rat hy
  have hm₂ : m₂ ≠ 0 := by
    rintro rfl
    exact hq (by cases n₂ <;> simp)
  rcases eq_or_ne m₁ 0 with rfl | hm₁
  · have hzero : ((signed n₁ (((0 : Nat) : ℚ) * 2 ^ e₁) / signed n₂ ((m₂ : ℚ) * 2 ^ e₂) : ℚ) : ℝ) = 0 := by cases n₁ <;> simp
    rw [hzero, Fmt.div, if_neg hm₂, if_pos rfl]
    exact hf.rounds_zero hmode _
  rw [Fmt.div, if_neg hm₂, if_neg hm₁, signed_div_signed, cast_signed]
  obtain ⟨k, hk⟩ : ∃ k, k = f.mb + 4 + bitLen m₂ := ⟨_, rfl⟩
  have hlong : 2 ^ (f.mb + 4) ≤ m₁ * 2 ^ k / m₂ := hk ▸ two_pow_le_div hm₁ hm₂ _
  have hval : (((m₁ : ℚ) * 2 ^ e₁ / ((m₂ : ℚ) * 2 ^ e₂) : ℚ) : ℝ) =
      ((m₁ * 2 ^ k : Nat) : ℝ) / m₂ * 2 ^ (e₁ - e₂ - (k : Int)) := by
    push_cast
    rw [zpow_sub₀ two_ne_zero, zpow_sub₀ two_ne_zero, zpow_natCast]
    field_simp
  rw [hval, ← hk]
  exact hf.round_rounds hmode _ (holds_div hm₂ _) (by have := Nat.two_pow_pos (f.mb + 4); omega) fun _ => by
    have := two_pow_le_bitLen hlong
    omega

/-! ### The square root -/

/-- From a root of which the bits from `i` up are found, the bits below `i` complete the whole part of the square root. -/
theorem isqrtFrom_eq {n r : Nat} (i : Nat) (hlow : r * r ≤ n) (hhigh : n < (r + 2 ^ i) * (r + 2 ^ i)) : isqrtFrom n r i = Nat.sqrt n := by
  induction i generalizing r with
  | zero => exact Nat.eq_sqrt.2 ⟨hlow, hhigh⟩
  | succ i ih =>
    have h2 : 2 ^ (i + 1) = 2 ^ i + 2 ^ i := by ring
    rw [h2, ← Nat.add_assoc] at hhigh
    unfold isqrtFrom
    dsimp only
    split
    · next hle => exact ih hle hhigh
    · next hgt => exact ih hlow (not_le.1 hgt)

theorem isqrt_eq_sqrt (n : Nat) : isqrt n = Nat.sqrt n := by
  refine isqrtFrom_eq _ (Nat.zero_le _) ?_
  rcases eq_or_ne n 0 with rfl | hn
  · simp
  · obtain ⟨b, hb, -, hhigh⟩ := bitLen_spec hn
    refine hhigh.trans_le ?_
    rw [hb, Nat.zero_add, ← pow_add]
    exact Nat.pow_le_pow_right (by omega) (by omega)

theorem holds_sqrt (v : Nat) (e : Int) : Holds (Nat.sqrt v) e (Nat.sqrt v * Nat.sqrt v != v) (Real.sqrt v * 2 ^ e) := by
  have hle : ((Nat.sqrt v : Nat) : ℝ) ≤ Real.sqrt v := Real.nat_sqrt_le_real_sqrt
  have hlt : Real.sqrt v < (Nat.sqrt v : Nat) + 1 := Real.real_sqrt_lt_nat_sqrt_succ
  by_cases h : Nat.sqrt v * Nat.sqrt v = v
  · simp only [Holds, h, bne_self_eq_false, Bool.false_eq_true, if_false]
    congr 1
    rw [Real.sqrt_eq_iff_mul_self_eq (by positivity) (by positivity)]
    exact_mod_cast h.symm
  · simp only [Holds, bne_iff_ne.2 h, if_true]
    have hne : ((Nat.sqrt v : Nat) : ℝ) ≠ Real.sqrt v := fun heq => h (by
      have := Real.mul_self_sqrt (Nat.cast_nonneg (α := ℝ) v)
      rw [← heq] at this
      exact_mod_cast this)
    exact ⟨by gcongr; exact lt_of_le_of_ne hle hne, by gcongr⟩

theorem two_pow_le_sqrt {m n k : Nat} (hm : m ≠ 0) (hk : 2 * n ≤ k) : 2 ^ n ≤ Nat.sqrt (m * 2 ^ k) := by
  rw [Nat.le_sqrt, ← pow_add, ← Nat.two_mul]
  calc 2 ^ (2 * n) ≤ 2 ^ k := Nat.pow_le_pow_right (by omega) hk
    _ ≤ m * 2 ^ k := Nat.le_mul_of_pos_left _ (Nat.pos_of_ne_zero hm)

/-- The root is taken of the significand with `k` more bits, which also make the exponent even. -/
theorem Fmt.IsIeee.sqrt_rounds (hf : f.IsIeee) (hmode : mode < 5) (hx : Spec.rat x = some p) (hp : 0 ≤ p) :
    Spec.Rounds f mode (Real.sqrt p) (f.sqrt mode x) := by
  obtain ⟨n, m, e, rfl, rfl⟩ := exists_fin_of_rat hx
  rcases eq_or_ne m 0 with rfl | hm
  · have hzero : Real.sqrt (signed n (((0 : Nat) : ℚ) * 2 ^ e) : ℚ) = 0 := by cases n <;> simp
    rw [hzero, Fmt.sqrt, if_pos rfl]
    exact hf.rounds_zero hmode n
  have hpos : (0 : ℚ) < (m : ℚ) * 2 ^ e := by positivity
  obtain rfl : n = false := by
    by_contra hn
    rw [Bool.not_eq_false] at hn
    rw [hn, signed_true] at hp
    linarith
  obtain ⟨k, hk⟩ : ∃ k, k = 2 * (f.mb + 4) + (if e % 2 = 0 then 0 else 1) := ⟨_, rfl⟩
  rw [Fmt.sqrt, if_neg hm]
  simp only [Bool.false_eq_true, if_false, isqrt_eq_sqrt, ← hk]
  obtain ⟨j, hj⟩ : ∃ j : Int, e = k + (j + j) := ⟨(e - k) / 2, by split at hk <;> omega⟩
  have hlong : 2 ^ (f.mb + 4) ≤ Nat.sqrt (m * 2 ^ k) := two_pow_le_sqrt hm (by omega)
  have hval : Real.sqrt (signed false ((m : ℚ) * 2 ^ e) : ℚ) = Real.sqrt (m * 2 ^ k : Nat) * 2 ^ ((e - k) / 2) := by
    have hhalf : (e - k) / 2 = j := by omega
    rw [hhalf, signed_false, hj, zpow_add₀ two_ne_zero, zpow_natCast, ← mul_assoc]
    push_cast
    rw [Real.sqrt_mul (by positivity), zpow_add₀ two_ne_zero, Real.sqrt_mul_self (by positivity)]
  rw [hval]
  exact hf.round_rounds hmode false (holds_sqrt _ _) (by have := Nat.two_pow_pos (f.mb + 4); omega) fun _ => by
    have := two_pow_le_bitLen hlong
    omega

end Operations

/-- A result that raises no NX is the exact one. -/
theorem rat_decode_of_rounds {f : Fmt} {mode : Nat} {q : ℚ} {r : Nat × Nat} (h : Spec.Rounds f mode q r) (hnx : r.2 % 2 = 0) :
    Spec.rat (f.decode r.1) = some q := by
  obtain ⟨y, hy, heq⟩ := h.1.1 hnx
  rw [hy, Rat.cast_injective heq]

/-- Settles O19: each operation hands its exact result to `Fmt.round`, which rounds it once. -/
theorem fpRoundedResults : Obligations.FpRoundedResults := by
  unfold Obligations.FpRoundedResults
  intro f mode a b d hf hmode qa qb qd ha hb hd
  have hf := isIeee_of_mem hf
  have hadd := hf.addNum_rounds hmode ha hb
  have hmul := hf.ofNum_rounds hmode (rat_mulNum ha hb)
  have hfma := hf.addNum_rounds hmode (rat_mulNum ha hb) hd
  refine ⟨⟨rat_decode_of_rounds hadd, rat_decode_of_rounds hmul, rat_decode_of_rounds hfma⟩, ?_, ?_, ?_, fun hqb => ?_,
    hf.sqrt_rounds hmode ha⟩
  · exact_mod_cast hadd
  · exact_mod_cast hmul
  · exact_mod_cast hfma
  · exact_mod_cast hf.div_rounds hmode ha hb hqb

/-! ### The special cases: the worked conversions -/

/-- R45 gives code 3 to RDN. The spec's worked conversion of 1 + 2^−8 to 0x3F81 is one of RUP, code 2, in which the model delivers it
(`Tests.test_conversions_bf16_f8`). -/
theorem convert_down_fp32_bf16 : ciEncode 3 11 (ciDecode 12 0x3F808000) = (0x3F80, 1) := by decide +kernel

/-- Refutes O18, at its list of worked conversions, which holds the spec's RUP rows under code 3: rounding 1 + 2^−8 into BF16 toward −∞
gives 1 and not 1 + 2^−7. -/
theorem not_fpSpecialCases : ¬ Obligations.FpSpecialCases := by
  unfold Obligations.FpSpecialCases
  intro h
  obtain ⟨-, -, -, hworked⟩ := h
  have hrow := List.all_eq_true.1 hworked (3, 12, 11, 0x3F808000, 0x3F81, 1) (by simp)
  have hup : ciEncode 3 11 (ciDecode 12 0x3F808000) = (0x3F81, 1) := beq_iff_eq.1 hrow
  rw [convert_down_fp32_bf16] at hup
  exact absurd hup (by decide)

end Sys2Proof.Machine

namespace Sys2Proof.Machine
open Host

/-! ### The end of a step of the device -/

theorem waitOr_eq (s v : State) : Spec.waitOr s v = .next (s.orWait v) := by
  unfold Spec.waitOr State.orWait
  split <;> rfl

@[simp] theorem State.orWait_self (s : State) : s.orWait s = s := ite_self s

/-- A field of a word, in the terms of the spec's tables (R2). -/
theorem fieldNat_eq (x : Word) (lo n : Nat) : fieldNat x lo n = x.toNat / 2 ^ lo % 2 ^ n := by
  simp [fieldNat, Nat.shiftRight_eq_div_pow]

theorem fieldNat_zero (x : Word) (n : Nat) : fieldNat x 0 n = x.toNat % 2 ^ n := by simp

/-! ### The commands of a command stream (R88 to R90) -/

theorem condHolds_iff (cond : Nat) (w v : Word) : condHolds cond w v = true ↔
    if cond = 0 then w = v else if cond = 1 then w ≠ v else if cond = 2 then w.toNat < v.toNat else v.toNat ≤ w.toNat := by
  match cond with
  | 0 | 1 | 2 | n + 3 => simp [condHolds, BitVec.ult]

section Commands

variable {s u v : State} {f p slot n op : Nat} {t t' : Stream} {c : List Word} {run : List Word → Stream → State → State × CmdEnd}

/-- A valid command executes where its own OP's step is taken: what is left of `State.command` is how the command ends. -/
theorem command_go (h : Spec.AtCmd s f p slot n t c u) (hop : cmdOp c = op) (hrun : run c t u = (v, .go t')) :
    .next (s.command f p slot op run) = Spec.waitOr s (v.modQueue f p slot fun q =>
      { q with packets := q.packets.map fun x => if x.index = n then { x with stream := some t' } else x }) := by
  simp [waitOr_eq, State.command, h.stream, h.slice, h.read, h.valid, hop, hrun]

theorem command_wait (h : Spec.AtCmd s f p slot n t c u) (hop : cmdOp c = op) (hrun : run c t u = (v, .wait)) :
    .next (s.command f p slot op run) = Spec.waitOr s (v.cutStream f p slot n) := by
  simp [waitOr_eq, State.command, h.stream, h.slice, h.read, h.valid, hop, hrun]

theorem command_ret (h : Spec.AtCmd s f p slot n t c u) (hop : cmdOp c = op) (hrun : run c t u = (v, .ret)) :
    .next (s.command f p slot op run) = Spec.waitOr s (v.completePacket f p slot n 0 0 0) := by
  simp [waitOr_eq, State.command, h.stream, h.slice, h.read, h.valid, hop, hrun]

end Commands

/-- A SEED may be performed in a control cycle in which nothing of a later place in R389's order has been inserted. -/
theorem insertTurn_seed {s : State} (h : s.lastInsert.1 ≠ s.clock ∨ s.lastInsert.2 = [] ∨ s.lastInsert.2 = [0]) :
    s.insertTurn [0] = true := by
  rcases h with h | h | h <;> simp [State.insertTurn, lexLt, h]

theorem cmdOperand_direct (s : State) (space : Nat) (w : Word) : s.cmdOperand space false w = (s, some w) := rfl

/-- Settles O48: at a valid command of its OP, each step is `State.command` with the way in which the command ends. -/
theorem commandStreams : Obligations.CommandStreams := by
  unfold Obligations.CommandStreams
  intro s u f p slot n t c h op ind span cond flag va on holds
  have hop : cmdOp c = op := fieldNat_zero _ _
  have hspan : cmdSpan c = span := fieldNat_eq _ _ _
  have hcond : cmdCond c = cond := fieldNat_eq _ _ _
  have hva (i : Nat) : fieldNat (c.getD i 0) 0 53 = va i := fieldNat_zero _ _
  have hholds (w : Word) : condHolds (cmdCond c) w (c.getD 2 0) = true ↔ holds w := by
    rw [hcond]
    exact condHolds_iff cond w (c.getD 2 0)
  have hdirect (hind : ind = false) (s : State) (space : Nat) (w : Word) : s.cmdOperand space (cmdInd c) w = (s, some w) := by
    rw [show cmdInd c = false from hind, cmdOperand_direct]
  refine ⟨fun h1 hind hfits hdepth => ?_, fun h2 hfits v w hw => ?_, fun h3 hind hcode => ?_, fun h4 hind hcount hturn hcode => ?_,
    fun h5 => ?_, fun h6 v hw => ?_, fun h7 => command_ret h (hop.trans h7) rfl⟩
  · have hbody : (!t.fits span || decide (4 ≤ (t.loops.filter fun e => e.2.2 != 0).length)) = false := by
      simp only [hfits, Nat.not_le.2 hdepth, Bool.not_true, decide_false, Bool.or_false]
    refine ⟨fun hn hs => command_go h (hop.trans h1) ?_, fun hn => command_go h (hop.trans h1) ?_⟩
    · simp only [hdirect hind, hspan, hbody, hn, hs, or_self, if_false, Bool.false_eq_true]
    · simp only [hdirect hind, hspan, hbody, hn, true_or, if_true, if_false, Bool.false_eq_true]
  · refine ⟨fun hc hs => command_go h (hop.trans h2) ?_, fun hc => command_go h (hop.trans h2) ?_⟩
    · simp only [hspan, hfits, hva, hw, List.getD_cons_zero, (hholds _).2 hc, hs, Bool.not_true, Bool.false_eq_true, if_true, if_false]
    · simp only [hspan, hfits, hva, hw, List.getD_cons_zero, (hholds _).not.2 hc, Bool.not_true, Bool.false_eq_true, if_false]
  · refine command_go h (hop.trans h3) ?_
    simp only [hdirect hind, hva, show cmdFlag c = flag from rfl, hcode, if_false]
  · have hrun : exec (.cmdSeed f p slot) s = .next (s.command f p slot 4 _) :=
      if_neg (by simp [insertTurn_seed hturn])
    refine hrun.trans (command_go h (hop.trans h4) ?_)
    simp only [hdirect hind, hva, show cmdFlag c = flag from rfl, Nat.not_lt.2 hcount, hcode, if_false]
  · refine ⟨fun hne v w hw => ⟨fun hc => command_go h (hop.trans h5) ?_, fun hc => command_wait h (hop.trans h5) ?_⟩,
      fun heq v w hw hdone => command_go h (hop.trans h5) ?_⟩
    · simp only [hcond.trans_ne hne, hva, hw, List.getD_cons_zero, (hholds _).2 hc, if_true, if_false]
    · simp only [hcond.trans_ne hne, hva, hw, List.getD_cons_zero, (hholds _).not.2 hc, Bool.false_eq_true, if_false]
    · simp only [hcond.trans heq, hva, hw, fieldNat_zero, Nat.reducePow, hdone, if_true]
  · refine command_go h (hop.trans h6) ?_
    simp only [State.runSignal, hva, hw, show cmdFlag c = flag from rfl]

end Sys2Proof.Machine

namespace Sys2Proof.Machine
open Host

/-! ### Regions changed in place -/

/-- Regions keep their places when each is changed without its number. -/
theorem region?_map (s : State) {g : Region → Region} (hid : ∀ x, (g x).id = x.id) (r : Nat) :
    { s with regions := s.regions.map g }.region? r = (s.region? r).map g := by
  have hcomp : ((fun x : Region => x.id == r) ∘ g) = fun x => x.id == r := funext fun x => by simp [hid]
  simp only [State.region?, List.find?_map, hcomp]

theorem region?_modRegion (s : State) (r n : Nat) {g : Region → Region} (hid : ∀ x, (g x).id = x.id) :
    (s.modRegion r g).region? n = (s.region? n).map fun x => if x.id = r then g x else x :=
  region?_map s (fun x => by split <;> simp [hid]) n

/-! ### What accesses to memory leave alone -/

/-- Two states agree on functions, tiles, firings, time, and the effective fields of every region. -/
structure SameTables (s t : State) : Prop where
  funcs : t.funcs = s.funcs
  tiles : t.tiles = s.tiles
  firings : t.firings = s.firings
  clock : t.clock = s.clock
  eff : ∀ r, (t.region? r).map Region.eff = (s.region? r).map Region.eff

/-- They also agree on every core: what has changed lies below the first-level caches. -/
structure BelowCores (s t : State) : Prop extends SameTables s t where
  cores : t.cores = s.cores

theorem SameTables.refl (s : State) : SameTables s s := ⟨rfl, rfl, rfl, rfl, fun _ => rfl⟩

theorem SameTables.trans {s t u : State} (h : SameTables s t) (k : SameTables t u) : SameTables s u :=
  ⟨k.funcs.trans h.funcs, k.tiles.trans h.tiles, k.firings.trans h.firings, k.clock.trans h.clock, fun r => (k.eff r).trans (h.eff r)⟩

theorem BelowCores.refl (s : State) : BelowCores s s := ⟨.refl s, rfl⟩

theorem BelowCores.trans {s t u : State} (h : BelowCores s t) (k : BelowCores t u) : BelowCores s u :=
  ⟨h.toSameTables.trans k.toSameTables, k.cores.trans h.cores⟩

theorem BelowCores.foldl {α : Type} {op : State → α → State} (h : ∀ s a, BelowCores s (op s a)) (l : List α) (s : State) :
    BelowCores s (l.foldl op s) :=
  List.foldlRecOn l op (.refl s) fun t ht a _ => ht.trans (h t a)

theorem sameTables_modCore (s : State) (k : Nat) (f : Core → Core) : SameTables s (s.modCore k f) := ⟨rfl, rfl, rfl, rfl, fun _ => rfl⟩

theorem belowCores_modCluster (s : State) (n : Nat) (f : Cluster → Cluster) : BelowCores s (s.modCluster n f) :=
  ⟨⟨rfl, rfl, rfl, rfl, fun _ => rfl⟩, rfl⟩

/-- Memories, home lines, flag registers and the predictor are no part of the tables. -/
theorem belowCores_with (s : State) (hbm host : Memory) (homes : List Line) (flags : Tbl Word) (predictor : Tbl (Tbl Nat)) :
    BelowCores s { s with hbm := hbm, host := host, homes := homes, flags := flags, predictor := predictor } :=
  ⟨⟨rfl, rfl, rfl, rfl, fun _ => rfl⟩, rfl⟩

/-! ### Home slices -/

theorem belowCores_captureFrames (s : State) (p : Nat) : BelowCores s (s.captureFrames p) := by
  refine ⟨⟨rfl, rfl, rfl, rfl, fun r => ?_⟩, rfl⟩
  rw [State.captureFrames, region?_map s (fun x => by split <;> rfl), Option.map_map]
  congr 1
  funext x
  simp only [Function.comp_apply]
  split <;> rfl

theorem belowCores_writeBackHome (s : State) (n : Nat) : BelowCores s (s.writeBackHome n) := by
  unfold State.writeBackHome
  split
  · exact .refl s
  · exact belowCores_with s _ _ _ _ _

theorem belowCores_homeFill (s : State) (n : Nat) (h : Hint) : BelowCores s (s.homeFill n h) := by
  unfold State.homeFill
  split
  · exact belowCores_with s _ _ _ _ _
  · have hroom : BelowCores s (s.roomHome n) := by
      unfold State.roomHome
      split
      · exact belowCores_writeBackHome s _
      · exact .refl s
    exact hroom.trans (belowCores_with _ _ _ _ _ _)

theorem belowCores_homeWrite (s : State) (n : Nat) (f : Line → Line) : BelowCores s (s.homeWrite n f) :=
  ((belowCores_captureFrames s _).trans (belowCores_homeFill _ n .bypass)).trans (belowCores_with _ _ _ _ _ _)

theorem belowCores_mergeFlags (s : State) (n : Nat) (fs : Tbl Word) : BelowCores s (s.mergeFlags n fs) :=
  .foldl (fun s _ => belowCores_with s _ _ _ _ _) fs s

theorem belowCores_returnOwned (s : State) (c n : Nat) : BelowCores s (s.returnOwned c n) := by
  unfold State.returnOwned
  split
  · exact .refl s
  · exact ((belowCores_modCluster s c _).trans (belowCores_homeWrite _ n _)).trans (belowCores_mergeFlags _ n _)

theorem belowCores_recallAny (s : State) (n : Nat) : BelowCores s (s.recallAny n) := by
  unfold State.recallAny
  split
  · exact belowCores_returnOwned s _ n
  · exact .refl s

theorem belowCores_recall (s : State) (party n : Nat) : BelowCores s (s.recall party n) := by
  unfold State.recall
  split
  · split
    · exact .refl s
    · exact belowCores_returnOwned s _ n
  · exact .refl s

theorem belowCores_homeServe (s : State) (party n : Nat) (h : Hint) : BelowCores s (s.homeServe party n h) :=
  ((belowCores_recall s party n).trans (belowCores_with _ _ _ _ _ _)).trans (belowCores_homeFill _ n h)

theorem belowCores_homeStore (s : State) (party pa : Nat) (bs : List Byte) (h : Hint) : BelowCores s (s.homeStore party pa bs h) :=
  ((belowCores_recallAny s _).trans (belowCores_homeServe _ party _ h)).trans (belowCores_homeWrite _ _ _)

/-! ### Replicas -/

theorem belowCores_mergeHome (s : State) (party : Nat) (l : Line) : BelowCores s (s.mergeHome party l) := by
  unfold State.mergeHome
  split
  · exact .refl s
  · exact (belowCores_homeServe s party l.num .bypass).trans (belowCores_homeWrite _ l.num _)

theorem belowCores_writeBackCluster (s : State) (c n : Nat) (drop : Bool) : BelowCores s (s.writeBackCluster c n drop) := by
  unfold State.writeBackCluster
  split
  · exact .refl s
  · exact (belowCores_mergeHome s c _).trans (belowCores_modCluster _ c _)

theorem belowCores_allocCluster (s : State) (c : Nat) (l : Line) (h : Hint) : BelowCores s (s.allocCluster c l h) := by
  unfold State.allocCluster
  refine .trans ?_ (belowCores_modCluster _ c _)
  split
  · exact belowCores_writeBackCluster s c _ true
  · exact .refl s

theorem belowCores_mergeDown (s : State) (c : Nat) (l : Line) : BelowCores s (s.mergeDown c l) := by
  unfold State.mergeDown
  split
  · exact .refl s
  split
  · exact belowCores_modCluster s c _
  split
  · exact belowCores_modCluster s c _
  split
  · exact belowCores_mergeHome s c l
  · exact (belowCores_homeServe s c l.num .bypass).trans (belowCores_allocCluster _ c _ _)

/-! ### Stores of the device -/

theorem belowCores_walk (s : State) (space va : Nat) : BelowCores s (s.walk space va).1 := by
  unfold State.walk
  dsimp only
  split
  · exact .refl s
  · refine .foldl (fun s a => ?_) _ s
    split
    · exact belowCores_homeServe s _ _ _
    · exact .refl s

theorem belowCores_physOr (s : State) (pa : Nat) (v : Word) : BelowCores s (s.physOr pa v) := by
  unfold State.physOr
  split
  · exact belowCores_homeStore s _ _ _ _
  · exact belowCores_with s _ _ _ _ _
  · exact .refl s

theorem belowCores_walkAccess (s : State) (space va : Nat) (a : Acc) (handler : Bool) : BelowCores s (s.walkAccess space va a handler).1 := by
  have hwalk := belowCores_walk s space va
  unfold State.walkAccess
  split
  · next heq => rwa [heq] at hwalk
  · next heq =>
    rw [heq] at hwalk
    dsimp only
    split
    · exact hwalk
    split
    · exact hwalk
    · exact hwalk.trans (belowCores_physOr _ _ _)

theorem belowCores_xlateDev (s : State) (space va : Nat) (a : Acc) (handler : Bool) : BelowCores s (s.xlateDev space va a handler).1 := by
  have hwalk := belowCores_walkAccess s space va a handler
  unfold State.xlateDev
  split
  · exact .refl s
  split
  · next heq => rwa [heq] at hwalk
  · next heq => rwa [heq] at hwalk

theorem sameTables_forgetUo (s : State) (k n : Nat) : SameTables s (s.forgetUo k n) := by
  unfold State.forgetUo
  split
  · exact .refl s
  · exact sameTables_modCore s k _

theorem sameTables_devPut (s : State) (k : Nat) (h : Hint) (a : Nat) (bs : List Byte) (fuel : Nat) :
    SameTables s (s.devPut k .so h a bs fuel) := by
  induction fuel generalizing s a bs with
  | zero => exact .refl s
  | succ n ih =>
    have hline : SameTables s ((s.forgetUo k (a / 128)).homeStore (clusterOf k) a (bs.take (128 - a % 128)) h) :=
      (sameTables_forgetUo s k _).trans (belowCores_homeStore _ _ _ _ _).toSameTables
    simp only [State.devPut, if_true]
    split
    · exact hline
    · exact hline.trans (ih _ _ _)

theorem sameTables_homePut (s : State) (p : Place) (bs : List Byte) : SameTables s (s.homePut p bs) := by
  unfold State.homePut State.putBytes
  cases p with
  | arr k o => exact sameTables_modCore s k _
  | bank n o => exact (belowCores_modCluster s n _).toSameTables
  | dev a => exact sameTables_devPut s _ _ a bs _
  | host a => exact ((belowCores_captureFrames s _).trans (belowCores_with _ _ _ _ _ _)).toSameTables
  | panel n o => exact (belowCores_modCluster s n _).toSameTables

theorem sameTables_devWrite (s : State) (space va : Nat) (bs : List Byte) : SameTables s (s.devWrite space va bs).1 := by
  have hxlate := (belowCores_xlateDev s space va .store false).toSameTables
  unfold State.devWrite
  split
  · next heq => rwa [heq] at hxlate
  · next heq =>
    rw [heq] at hxlate
    exact hxlate.trans (sameTables_homePut _ _ _)

end Sys2Proof.Machine

namespace Sys2Proof.Machine
open Host

/-! ### Queues through the stores of the device (R77 to R79) -/

/-- A queue changed is the only change in its slot. -/
theorem queue?_modQueue {s : State} {f p slot : Nat} {q : Queue} (h : s.queue? f p slot = some q) (g : Queue → Queue) :
    (s.modQueue f p slot g).queue? f p slot = some (g q) := by
  rw [State.modQueue, h]
  simp [State.queue?, State.modProc, Func.proc]

theorem func_procs_postNotice (s : State) (f : Nat) (n : Word × Word) (by_ : Option Nat) (m : Nat) :
    ((s.postNotice f n by_).func m).procs = (s.func m).procs := by
  have hfunc (t : State) (ht : t.funcs = s.funcs) (g : Func → Func) (hg : ∀ x, (g x).procs = x.procs) :
      ((t.modFunc f g).func m).procs = (s.func m).procs := by
    have hsame (n : Nat) : t.func n = s.func n := congrArg (tget Func.init · n) ht
    rcases eq_or_ne m f with rfl | hne
    · rw [State.func_modFunc_same, hg, hsame]
    · rw [State.func_modFunc_other _ _ hne, hsame]
  unfold State.postNotice
  dsimp only
  split
  · exact hfunc (s.homePut _ _) (sameTables_homePut s _ _).funcs (fun y => { y with nhead := (y.nhead + 1) % 2 ^ 32 }) fun _ => rfl
  · exact hfunc s rfl _ fun _ => rfl

/-- A store of the device changes no queue, and neither does the notice of one that is lost (R454). -/
theorem queue?_devStore8 (s : State) (f p va : Nat) (v : Word) (by_ : Option Nat) (f' p' slot : Nat) :
    (s.devStore8 f p va v by_).queue? f' p' slot = s.queue? f' p' slot := by
  have hprocs : ((s.devStore8 f p va v by_).func f').procs = (s.func f').procs := by
    have hwrite := (sameTables_devWrite s (f * 256 + p) va (leBytes 8 v.toNat)).funcs
    unfold State.devStore8
    split
    · next heq =>
      rw [heq] at hwrite
      exact congrArg (fun t => (tget Func.init t f').procs) hwrite
    · next heq =>
      rw [heq] at hwrite
      exact (func_procs_postNotice _ f _ by_ f').trans (congrArg (fun t => (tget Func.init t f').procs) hwrite)
  simp only [State.queue?, Func.proc, hprocs]

/-- The read index passes the completed packet when no other is in progress or waits behind it (R79). -/
theorem queue?_passRead {s : State} {f p slot : Nat} {q : Queue} {x : Packet} (h : s.queue? f p slot = some q)
    (hpackets : q.packets = [x]) (hdone : x.done = true) :
    (s.passRead f p slot).queue? f p slot = some { q with ridx := q.ridx + 1, packets := [] } := by
  simp only [State.passRead, h, hpackets, hdone, List.dropWhile_cons_of_pos, List.dropWhile_nil, List.length_cons, List.length_nil,
    Nat.zero_add, Nat.sub_zero, one_ne_zero, if_false, queue?_devStore8]
  exact queue?_modQueue h _

theorem settleOff_of_not_off {s : State} {f p slot : Nat} {q : Queue} (h : s.queue? f p slot = some q) (hoff : q.off = false) :
    s.settleOff f p slot = s := by
  simp [State.settleOff, h, hoff]

theorem queue?_completePacket {s : State} {f p slot : Nat} {q : Queue} {x : Packet} (h : s.queue? f p slot = some q)
    (hpackets : q.packets = [x]) (hoff : q.off = false) (code reason extra : Nat) :
    (s.completePacket f p slot x.index code reason extra).queue? f p slot = some { q with ridx := q.ridx + 1, packets := [] } := by
  have hdone := queue?_modQueue ((queue?_devStore8 s f p (q.slotVa x.index + 56) (resultWord code reason extra) none f p slot).trans h)
    fun y => { y with packets := y.packets.map fun z =>
      if z.index = x.index then { z with done := true, result := resultWord code reason extra } else z }
  have hpass := queue?_passRead hdone (x := { x with done := true, result := resultWord code reason extra }) (by simp [hpackets]) rfl
  simp only [State.completePacket, State.completeWith, h]
  rw [settleOff_of_not_off hpass hoff, hpass]

/-! ### The start of a packet (R81, R82, R93 to R95) -/

section Packets

variable {s u : State} {f p slot type : Nat} {q : Queue} {w : List Word} {run : Nat → List Word → State → State}

/-- What is left of `State.startPacket` for a packet that starts: the step of its own type, or of any type for a reserved one. -/
theorem startPacket_eq (h : Spec.Starts s f p slot q w u) (htype : packetType w = type ∨ 6 < packetType w) :
    .next (s.startPacket f p slot type run) = Spec.waitOr s (if packetOk (s.vectors f) w then run q.next w (u.beginPacket f p slot q w)
      else (u.devStore8 f p (q.slotVa q.next + 56) (resultWord 2 0 0) none).haltQueue f p slot 2 q.next) := by
  obtain ⟨u0, hcharge, hpeek⟩ := h.paid
  have hgo : ¬ (packetType w ≠ type ∧ packetType w ≤ 6) := by omega
  simp only [waitOr_eq, State.startPacket, h.queue, Nat.not_le.2 h.room, h.chosen, hcharge, hpeek, hgo, bne_self_eq_false, decide_false,
    Bool.or_self, Bool.false_eq_true, if_false]
  cases packetOk (s.vectors f) w
  · simp only [Bool.not_false, Bool.false_eq_true, if_true, if_false]
  · simp only [Bool.not_true, Bool.false_eq_true, if_true, if_false]

theorem startPacket_ok (h : Spec.Starts s f p slot q w u) (hok : packetOk (s.vectors f) w = true) (htype : packetType w = type) :
    .next (s.startPacket f p slot type run) = Spec.waitOr s (run q.next w (u.beginPacket f p slot q w)) := by
  rw [startPacket_eq h (.inl htype), if_pos hok]

theorem startPacket_malformed (h : Spec.Starts s f p slot q w u) (hok : packetOk (s.vectors f) w = false)
    (htype : packetType w = type ∨ 6 < packetType w) : .next (s.startPacket f p slot type run) =
      Spec.waitOr s ((u.devStore8 f p (q.slotVa q.next + 56) 2 none).putQueueState f p slot 2 2 q.next) := by
  have hresult : resultWord 2 0 0 = 2 := by decide
  rw [startPacket_eq h htype, hok, if_neg Bool.false_ne_true, hresult, State.haltQueue]

end Packets

/-! ### The packets of a launch queue -/

theorem readIndex_eq {s u : State} {f p slot : Nat} {q : Queue} {w : Word} (hq : s.queue? f p slot = some q) (hrun : q.qstate = 1)
    (hread : s.devWords (f * 256 + p) q.widxVa 1 = (u, .ok [w])) : s.readIndex f p slot =
      if w.toNat < q.widx ∨ q.ridx + 2 ^ q.log2n < w.toNat then u.putQueueState f p slot 2 2 q.ridx
      else u.modQueue f p slot fun x => { x with widx := w.toNat } := by
  simp only [State.readIndex, hq, hrun, hread, List.getD_cons_zero, not_true, ne_eq, if_false, State.haltQueue]

theorem readIndex_error {s u : State} {f p slot : Nat} {q : Queue} {e : MemErr × Nat} (hq : s.queue? f p slot = some q)
    (hrun : q.qstate = 1) (hread : s.devWords (f * 256 + p) q.widxVa 1 = (u, .error e)) :
    s.readIndex f p slot = u.putQueueState f p slot 2 4 q.next := by
  simp only [State.readIndex, hq, hrun, hread, not_true, ne_eq, if_false, State.haltQueue]

theorem exec_notify (s : State) (f p slot : Nat) : exec (.notify f p slot) s = Spec.waitOr s (s.readIndex f p slot) := (waitOr_eq _ _).symm

theorem spansMeet_iff (a b n : Nat) : spansMeet (a, n) (b, n) = true ↔ a < b + n ∧ b < a + n := by
  simp only [spansMeet, Bool.and_eq_true, bne_iff_ne, decide_eq_true_eq]
  omega

/-- A SEED waits once something of a later place in R389's order has been inserted in its control cycle. -/
theorem insertTurn_seed_late {s : State} (hnow : s.lastInsert.1 = s.clock) {n : Nat} {l : List Nat} (hlast : s.lastInsert.2 = (n + 1) :: l) :
    s.insertTurn [0] = false := by
  simp [State.insertTurn, lexLt, hnow, hlast]

/-- The step of a SEED at its turn. -/
theorem exec_seed {s : State} (h : s.insertTurn [0] = true) (f p slot : Nat) : exec (.seed f p slot) s =
    .next (s.startPacket f p slot 2 fun n w s =>
      let r := s.runSeed f p (packetVa w) (fieldNat (w.getD 2 0) 0 53) (w.getD 3 0).toNat (packetFlag w)
      r.1.completePacket f p slot n r.2.1 r.2.2.1 r.2.2.2) :=
  if_neg (by simp [h])

/-- The steps that start a packet, by its type: each is `State.startPacket` for that type. -/
theorem exec_startStep {s : State} (f p slot : Nat) {i : Nat} (hi : i < 7) (hturn : i = 2 → s.insertTurn [0] = true) :
    ∃ run, exec ([.nop f p slot, .start f p slot, .seed f p slot, .await f p slot, .signal f p slot,
      .copyPacket f p slot].getD i (.cpjump f p slot)) s = .next (s.startPacket f p slot i run) := by
  match i with
  | 0 | 1 | 3 | 4 | 5 | 6 => exact ⟨_, rfl⟩
  | 2 => exact ⟨_, exec_seed (hturn rfl) f p slot⟩
  | n + 7 => omega

/-- Settles O47: a packet that starts runs its type's step from `State.beginPacket`, and completing it moves the read index. -/
theorem queuePackets : Obligations.QueuePackets := by
  unfold Obligations.QueuePackets
  intro s f p slot q
  refine ⟨fun hq hrun => ⟨fun u w hread => ⟨fun hge hle => ?_, fun hout => ?_⟩, fun u e hread => ?_⟩, fun w u h => ?_,
    fun x hq hx => ⟨fun u v hseen => ?_, fun u hseen => ?_⟩,
    fun x code reason extra hq hpackets hoff => ⟨_, queue?_completePacket hq hpackets hoff code reason extra, rfl, rfl, rfl⟩⟩
  · rw [exec_notify, readIndex_eq hq hrun hread, if_neg (by omega)]
  · rw [exec_notify, readIndex_eq hq hrun hread, if_pos hout]
  · rw [exec_notify, readIndex_error hq hrun hread]
  · intro b n va flag type ends
    have htype : packetType w = type := fieldNat_zero _ _
    have hva : packetVa w = va := fieldNat_zero _ _
    have hflag : packetFlag w = flag := rfl
    have hb : u.beginPacket f p slot q w = b := rfl
    refine ⟨fun hok => ⟨fun h0 => startPacket_ok h hok (htype.trans h0), fun h1 => ⟨fun t e hread => ?_, fun t rcb hread => ?_⟩,
      fun h2 hturn => ?_, fun h2 hnow hlast => ?_, fun h3 => startPacket_ok h hok (htype.trans h3),
      fun h4 => ⟨fun t hput => ?_, fun t e hput => ?_⟩, fun h5 => ⟨fun hlt hlt' => ?_, fun hapart => ⟨fun hcopy => ?_, fun e hcopy => ?_⟩⟩,
      fun h6 => ?_⟩, fun hbad i hi htype' hturn => ?_⟩
    · refine (startPacket_ok h hok (htype.trans h1)).trans ?_
      simp only [State.runStart, hva, hb, hread, ends, n]
    · refine (startPacket_ok h hok (htype.trans h1)).trans ?_
      simp only [State.runStart, hva, hflag, hb, hread, ends, n]
    · refine (exec_seed (insertTurn_seed hturn) f p slot).trans ((startPacket_ok h hok (htype.trans h2)).trans ?_)
      simp only [hva, fieldNat_zero, hflag, hb, ends, n]
    · obtain ⟨m, l, hlast⟩ := hlast
      exact if_pos (by simp [insertTurn_seed_late hnow hlast])
    · refine (startPacket_ok h hok (htype.trans h4)).trans ?_
      simp only [State.runSignal, hva, hflag, hb, hput, ends, n]
    · refine (startPacket_ok h hok (htype.trans h4)).trans ?_
      simp only [State.runSignal, hva, hb, hput, State.memFault, ends, n]
    · refine (startPacket_ok h hok (htype.trans h5)).trans ?_
      simp only [hva, fieldNat_zero, (spansMeet_iff _ _ _).2 ⟨hlt, hlt'⟩, if_true, hb, ends, n]
    · refine (startPacket_ok h hok (htype.trans h5)).trans ?_
      simp only [hva, fieldNat_zero, (spansMeet_iff _ _ _).not.2 hapart, Bool.false_eq_true, if_false, hb, hcopy, ends, n]
    · refine (startPacket_ok h hok (htype.trans h5)).trans ?_
      simp only [hva, fieldNat_zero, (spansMeet_iff _ _ _).not.2 hapart, Bool.false_eq_true, if_false, hb, hcopy, State.memFault, ends, n]
    · refine (startPacket_ok h hok (htype.trans h6)).trans ?_
      simp only [hva, hb, n]
    · have hstart : packetType w = i ∨ 6 < packetType w := htype'.imp (fun hi => htype.trans hi.symm) fun h6 => htype ▸ h6
      obtain ⟨run, hrun⟩ := exec_startStep f p slot hi fun h2 => insertTurn_seed ((hturn h2).imp_right .inl)
      exact hrun.trans (startPacket_malformed h hbad hstart)
  · show execAwaitCompletion f p slot s = _
    simp only [execAwaitCompletion, hq, Option.bind_some, hx, hseen, waitOr_eq]
  · show execAwaitCompletion f p slot s = _
    simp only [execAwaitCompletion, hq, Option.bind_some, hx, hseen, State.orWait_self]

end Sys2Proof.Machine

namespace Sys2Proof.Machine
open Host

/-! ### Cores through the work of their first-level caches -/

/-- What of a core is not a replica or a view of memory. -/
def Core.uncached (c : Core) : Core := { c with l1 := [], hide := [], uoOld := [] }

/-- The states agree on the tables, and on core `k` but for its replicas. -/
structure CacheOnly (k : Nat) (s t : State) : Prop extends SameTables s t where
  core : (t.core k).uncached = (s.core k).uncached

namespace CacheOnly

variable {k : Nat} {s t u : State}

theorem refl (k : Nat) (s : State) : CacheOnly k s s := ⟨.refl s, rfl⟩

theorem trans (h : CacheOnly k s t) (h' : CacheOnly k t u) : CacheOnly k s u :=
  ⟨h.toSameTables.trans h'.toSameTables, h'.core.trans h.core⟩

theorem foldl {α : Type} {op : State → α → State} (h : ∀ s a, CacheOnly k s (op s a)) (l : List α) (s : State) :
    CacheOnly k s (l.foldl op s) :=
  List.foldlRecOn l op (.refl k s) fun t ht a _ => ht.trans (h t a)

theorem run (h : CacheOnly k s t) : (t.core k).run = (s.core k).run := (congrArg Core.run h.core :)
theorem arr (h : CacheOnly k s t) : (t.core k).arr = (s.core k).arr := (congrArg Core.arr h.core :)
theorem cr (h : CacheOnly k s t) : (t.core k).cr = (s.core k).cr := (congrArg Core.cr h.core :)
theorem passed (h : CacheOnly k s t) : (t.core k).passed = (s.core k).passed := (congrArg Core.passed h.core :)
theorem mtx (h : CacheOnly k s t) : (t.core k).mtx = (s.core k).mtx := (congrArg Core.mtx h.core :)

end CacheOnly

theorem BelowCores.cacheOnly {s t : State} (h : BelowCores s t) (k : Nat) : CacheOnly k s t :=
  ⟨h.toSameTables, congrArg (fun cs => (tget Core.init cs k).uncached) h.cores⟩

theorem cacheOnly_modCore (s : State) (k : Nat) {f : Core → Core} (hf : ∀ c, (f c).uncached = c.uncached) : CacheOnly k s (s.modCore k f) :=
  ⟨sameTables_modCore s k f, by rw [State.core_modCore_same, hf]⟩

theorem cacheOnly_writeBackL1 (s : State) (k n : Nat) (drop : Bool) : CacheOnly k s (s.writeBackL1 k n drop) := by
  unfold State.writeBackL1
  split
  · exact .refl k s
  · exact ((belowCores_mergeDown s _ _).cacheOnly k).trans (cacheOnly_modCore _ k fun _ => rfl)

theorem cacheOnly_acquireAt (s : State) (k scope : Nat) (full : Bool) : CacheOnly k s (s.acquireAt k scope full) := by
  unfold State.acquireAt
  split
  · exact .refl k s
  · have hl1 := CacheOnly.foldl (fun s n => cacheOnly_writeBackL1 s k n true) (lineNums (s.core k).l1) s
    have hcluster (t : State) := (BelowCores.foldl (fun s n => belowCores_writeBackCluster s (clusterOf k) n true)
      (lineNums (t.cluster (clusterOf k)).cache) t).cacheOnly k
    dsimp only
    refine .trans ?_ (cacheOnly_modCore _ k fun _ => rfl)
    split
    · exact hl1
    · exact hl1.trans (hcluster _)

/-! ### The class of a firing -/

theorem SameTables.classOf {s t : State} (h : SameTables s t) (f : Firing) : t.classOf f = s.classOf f := by
  have hclass (u : State) : u.classOf f = ((u.region? f.region).map Region.eff).elim 0 fun e => ruleClass (e.rules.getD f.rule []) := by
    unfold State.classOf
    cases u.region? f.region <;> rfl
  rw [hclass, hclass, h.eff]

theorem SameTables.firing? {s t : State} (h : SameTables s t) (n : Nat) : t.firing? n = s.firing? n := by
  rw [State.firing?, h.firings, State.firing?]

theorem firing?_modFiring {s : State} {n : Nat} {f : Firing} (h : s.firing? n = some f) {g : Firing → Firing}
    (hid : ∀ x, (g x).id = x.id := by intro; rfl) : (s.modFiring n g).firing? n = some (g f) := by
  have hcomp : ((fun x : Firing => x.id == n) ∘ fun x => if x.id = n then g x else x) = fun x => x.id == n :=
    funext fun x => by simp only [Function.comp_apply]; split <;> simp [hid]
  have hn : f.id = n := by simpa using List.find?_some h
  rw [State.firing?, State.modFiring, List.find?_map, hcomp, ← State.firing?, h, Option.map_some, if_pos hn]

/-! ### Cores that become idle -/

theorem sameTables_closePacket (s : State) (k : Nat) : SameTables s (s.closePacket k) := by
  unfold State.closePacket
  split
  · exact .refl s
  · exact (belowCores_modCluster s _ _).toSameTables.trans (sameTables_modCore _ k _)

theorem core_closePacket (s : State) (k : Nat) : ∃ n, (s.closePacket k).core k = { s.core k with packet := none, packetStop := n } := by
  unfold State.closePacket
  split
  · next h => exact ⟨(s.core k).packetStop, by rw [← h]⟩
  · exact ⟨none, by rw [State.core_modCore_same, State.core_modCluster]⟩

theorem firingOf_closePacket (s : State) (k : Nat) : (s.closePacket k).firingOf k = s.firingOf k := by
  obtain ⟨n, hcore⟩ := core_closePacket s k
  rw [State.firingOf, hcore, State.firingOf]
  exact congrArg _ (funext fun n => (sameTables_closePacket s k).firing? n)

theorem sameTables_unopen (s : State) (k : Nat) : SameTables s (s.unopen k) := by
  unfold State.unopen
  split
  · exact sameTables_closePacket s k
  · exact .refl s

theorem core_unopen (s : State) (k : Nat) : ∃ p n, (s.unopen k).core k = { s.core k with packet := p, packetStop := n } := by
  unfold State.unopen
  split
  · exact ⟨none, core_closePacket s k⟩
  · exact ⟨_, _, rfl⟩

theorem sameTables_idleCore (s : State) (k : Nat) : SameTables s (s.idleCore k) := by
  unfold State.idleCore
  split
  · refine (belowCores_modCluster s (clusterOf k) fun x => { x with sfu := x.sfu.filter fun r => r.core != k }).toSameTables.trans ?_
    dsimp only
    split
    · exact sameTables_modCore _ k _
    · exact ⟨rfl, rfl, rfl, rfl, fun _ => rfl⟩
  · have hcluster (t : State) (f : Cluster → Cluster) := (belowCores_modCluster t (clusterOf k) f).toSameTables
    exact ((((hcluster s _).trans (sameTables_closePacket _ k)).trans (hcluster _ _)).trans (hcluster _ _)).trans
      ((hcluster _ _).trans (sameTables_modCore _ k _))

theorem run_idleCore (s : State) {k : Nat} (hk : isSaved k = false) : ((s.idleCore k).core k).run = .idle := by
  rw [State.idleCore, if_neg (by simp [hk]), State.core_modCore_same]
  rfl

theorem sameTables_parkCore (s : State) (k j : Nat) : SameTables s (s.parkCore k j) :=
  SameTables.trans (t := (s.setCore j _).renameCommands k j) ⟨rfl, rfl, rfl, rfl, fun _ => rfl⟩ (sameTables_idleCore _ k)

theorem run_parkCore (s : State) {k : Nat} (hk : isSaved k = false) (j : Nat) : ((s.parkCore k j).core k).run = .idle :=
  run_idleCore _ hk

/-! ### A firing leaves flight -/

theorem firings_releaseTiles (s : State) (r copy l : Nat) (ids : List Nat) : (s.releaseTiles r copy l ids).firings = s.firings := by
  unfold State.releaseTiles
  dsimp only
  split <;> rfl

theorem cores_releaseTiles (s : State) (r copy l : Nat) (ids : List Nat) : (s.releaseTiles r copy l ids).cores = s.cores := by
  unfold State.releaseTiles
  dsimp only
  split <;> rfl

theorem clusters_releaseTiles (s : State) (r copy l : Nat) (ids : List Nat) : (s.releaseTiles r copy l ids).clusters = s.clusters := by
  unfold State.releaseTiles
  dsimp only
  split <;> rfl

theorem tiles_releaseTiles (s : State) (r copy l : Nat) (ids : List Nat) : (s.releaseTiles r copy l ids).tiles =
    s.tiles.map fun t => if ids.contains t.id then { t with held := false, from_ := s.clock + 1 } else t := by
  unfold State.releaseTiles
  dsimp only
  split <;> rfl

theorem held_releaseTiles {s : State} {r copy l : Nat} {ids : List Nat} {x : Tile} (hx : x ∈ (s.releaseTiles r copy l ids).tiles)
    (hid : x.id ∈ ids) : x.held = false := by
  rw [tiles_releaseTiles, List.mem_map] at hx
  obtain ⟨t, -, rfl⟩ := hx
  split at hid
  · rw [if_pos ‹_›]
  · next h => exact absurd (List.contains_iff_mem.2 hid) h

theorem firing?_dropFiring (s : State) (f : Firing) : (s.dropFiring f).firing? f.id = none := by
  have hidle (t : State) : (f.cores.foldl State.idleCore t).firings = t.firings :=
    List.foldlRecOn (motive := fun u => u.firings = t.firings) f.cores _ rfl fun u hu k _ => (sameTables_idleCore u k).firings.trans hu
  have hfirings : (s.dropFiring f).firings = s.firings.filter fun x => x.id != f.id := by
    rw [State.dropFiring, firings_releaseTiles]
    exact hidle _
  simp [State.firing?, hfirings]

theorem run_dropFiring (s : State) {f : Firing} {k : Nat} (hf : f.cores = [k]) (hk : isSaved k = false) :
    ((s.dropFiring f).core k).run = .idle := by
  rw [State.dropFiring, State.core, cores_releaseTiles, hf]
  exact run_idleCore _ hk

theorem keepFiring_one (s : State) {f : Firing} {k : Nat} (hf : f.cores = [k]) :
    s.keepFiring f = (s.parkCore k (savedKey f.id 0 k)).modFiring f.id fun x =>
      { x with kept := true, cores := [savedKey f.id 0 k],
               committed := x.committed.map fun j => (tfind [(k, savedKey f.id 0 k)] j).getD j } := by
  rw [State.keepFiring, hf]
  rfl

/-- A firing of one core kept by a pre-emption, but for one of class MATRIX. -/
theorem saveFiring_one {s : State} {f : Firing} {k : Nat} (hf : f.cores = [k]) (hk : isSaved k = false) (hfiring : s.firing? f.id = some f)
    (hclass : s.classOf f ≠ 1) : ∃ f', (s.saveFiring f).firing? f.id = some f' ∧ f'.kept = true ∧ f'.tiles = f.tiles ∧
      ((s.saveFiring f).core k).run = .idle ∧ (s.saveFiring f).tiles = s.tiles := by
  have hsave : s.saveFiring f = (s.keepFiring f).modFiring f.id fun x => { x with cells := [] } := by
    simp only [State.saveFiring, hclass, if_false, List.map_nil, List.foldl_nil]
  have hpark := sameTables_parkCore s k (savedKey f.id 0 k)
  rw [hsave, keepFiring_one s hf]
  exact ⟨_, firing?_modFiring (firing?_modFiring ((hpark.firing? f.id).trans hfiring)), rfl, rfl,
    run_parkCore s hk _, hpark.tiles⟩

/-! ### Stopping a core (R382, R385) -/

theorem sameTables_count (s : State) (r copy : Nat) (g : Counters → Counters) : SameTables s (s.count r copy g) := by
  unfold State.count
  split
  · refine ⟨rfl, rfl, rfl, rfl, fun n => ?_⟩
    rw [region?_modRegion s r n (g := fun x => { x with cnt := g x.cnt }) fun _ => rfl, Option.map_map]
    congr 1
    funext x
    simp only [Function.comp_apply]
    split <;> rfl
  · exact .refl s

theorem core_count (s : State) (r copy : Nat) (g : Counters → Counters) (k : Nat) : (s.count r copy g).core k = s.core k := by
  unfold State.count
  split <;> rfl

theorem sameTables_stopCore (s : State) (k : Nat) : SameTables s (s.stopCore k) :=
  ((sameTables_unopen s k).trans (sameTables_modCore _ k _)).trans (cacheOnly_acquireAt _ k 1 true).toSameTables

/-- Saving a context block changes the core's array alone (R127). -/
theorem saveBlock_eq (c : Core) (o : Nat) (pc ient : BitVec 53) (imask : BitVec 32) (ipc : Nat) :
    ∃ m, c.saveBlock o pc ient imask ipc = { c with arr := m } := by
  unfold Core.saveBlock
  extract_lets
  exact ⟨_, rfl⟩

theorem saveBlock_passed (c : Core) (o : Nat) (pc ient : BitVec 53) (imask : BitVec 32) (ipc : Nat) :
    (c.saveBlock o pc ient imask ipc).passed = c.passed := by
  obtain ⟨m, h⟩ := saveBlock_eq c o pc ient imask ipc
  rw [h]

theorem saveBlock_mtx (c : Core) (o : Nat) (pc ient : BitVec 53) (imask : BitVec 32) (ipc : Nat) :
    (c.saveBlock o pc ient imask ipc).mtx = c.mtx := by
  obtain ⟨m, h⟩ := saveBlock_eq c o pc ient imask ipc
  rw [h]

/-- A stop keeps what the core has done since dispatch. -/
theorem passed_mtx_stopCore (s : State) (k : Nat) :
    ((s.stopCore k).core k).passed = (s.core k).passed ∧ ((s.stopCore k).core k).mtx = (s.core k).mtx := by
  obtain ⟨p, n, hcore⟩ := core_unopen s k
  have hacquire (t : State) := cacheOnly_acquireAt t k 1 true
  rw [State.stopCore]
  dsimp only
  rw [(hacquire _).passed, (hacquire _).mtx, State.core_modCore_same, hcore]
  dsimp only
  rw [saveBlock_passed, saveBlock_mtx]
  split <;> exact ⟨rfl, rfl⟩

theorem endStop_one (s : State) {f : Firing} {k : Nat} (hf : f.cores = [k]) :
    ∃ t, SameTables s t ∧ (∀ j, t.core j = s.core j) ∧
      s.endStop f = if (s.core k).passed || (s.core k).mtx then t.saveFiring f else t.dropFiring f := by
  refine ⟨_, sameTables_count s f.region f.copy fun c => { c with npre := c.npre + 1 }, core_count s _ _ _, ?_⟩
  simp only [State.endStop, hf, List.any_cons, List.any_nil, Bool.or_false, core_count]

/-- Core `k` is asked to stop, runs the PLAIN firing `f`, and nothing of R382 holds it. -/
structure PlainStop (s : State) (k : Nat) (f : Firing) : Prop where
  preempt : (s.core k).preempt = true
  run : (s.core k).run = .firing f.id
  firing : s.firing? f.id = some f
  plain : s.classOf f = 0
  handler : (s.core k).inHandler = false
  undo : (s.core k).undo = false
  packet : ∀ d n, (s.core k).packet = some (d, n) → n = 0
  noDiscard : (s.core k).noDiscard = false
  deliver : (s.core k).deliver = false
  boundary : s.atBoundary k = true

theorem sending_eq_false {c : Core} (h : ∀ d n, c.packet = some (d, n) → n = 0) : c.sending = false := by
  unfold Core.sending
  split
  · next d n heq => simp [h d n heq]
  · rfl

namespace PlainStop

variable {s : State} {k : Nat} {f : Firing}

theorem firingOf (h : PlainStop s k f) : s.firingOf k = some f := by
  rw [State.firingOf, h.run]
  exact h.firing

theorem stopHeld (h : PlainStop s k f) : s.stopHeld k = false := by
  simp [State.stopHeld, h.firingOf, h.plain, h.deliver, sending_eq_false h.packet, h.handler, h.undo, h.noDiscard, h.boundary]

theorem mustStop (h : PlainStop s k f) : s.mustStop k = true := by
  simp [State.mustStop, h.preempt, h.stopHeld]

/-- The core stops, and its firing is released or kept (R382). -/
theorem exec_preemptStop (h : PlainStop s k f) (hk : isSaved k = false) (hstopped : (s.core k).stopped = false) (hsfu : s.sfuBusy k = false) :
    exec (.preemptStop k) s = .next ((s.stopCore k).endStop f) := by
  show execPreemptStop k s = _
  simp [execPreemptStop, h.preempt, h.run, h.firingOf, h.stopHeld, h.plain, hk, hstopped, hsfu]

/-- It runs no further instruction. -/
theorem coreTurn (h : PlainStop s k f) (hcur : s.cur = k) (hdoomed : f.doomed = false) (hnotified : f.notified = false)
    (hmchk : (s.core k).mchk = none) : s.coreTurn = .next s := by
  subst hcur
  simp [State.coreTurn, h.run, h.firingOf, h.deliver, h.undo, hdoomed, hnotified, hmchk, h.mustStop]

end PlainStop

/-- A firing of one core stops: released without effect on the pool, or kept where it has passed a boundary or performed an MTX instruction. -/
theorem endStop_stopCore_drops {s : State} {f : Firing} {k : Nat} (hf : f.cores = [k])
    (hpassed : (s.core k).passed = false) (hmtx : (s.core k).mtx = false) : ∃ u : State, (s.stopCore k).endStop f = u.dropFiring f := by
  obtain ⟨t, -, -, hend⟩ := endStop_one (s.stopCore k) hf
  obtain ⟨hp, hm⟩ := passed_mtx_stopCore s k
  exact ⟨t, by rw [hend, hp, hm, hpassed, hmtx]; rfl⟩

theorem endStop_stopCore_keeps {s : State} {f : Firing} {k : Nat} (hf : f.cores = [k])
    (hkeep : (s.core k).passed = true ∨ (s.core k).mtx = true) : ∃ u, SameTables s u ∧ (s.stopCore k).endStop f = u.saveFiring f := by
  obtain ⟨t, ht, -, hend⟩ := endStop_one (s.stopCore k) hf
  obtain ⟨hp, hm⟩ := passed_mtx_stopCore s k
  exact ⟨t, (sameTables_stopCore s k).trans ht, by rw [hend, hp, hm, if_pos (by simpa using hkeep)]⟩

/-- A compatibility thread that nothing holds stops (R385). -/
theorem exec_preemptStop_thread {s : State} {k : Nat} (hk : isSaved k = false) (hpreempt : (s.core k).preempt = true)
    (hthread : (s.core k).isThread = true) (hpacket : ∀ d n, (s.core k).packet = some (d, n) → n = 0)
    (hdeliver : (s.core k).deliver = false) (hsfu : s.sfuBusy k = false) (hrecord : s.recordWaits k = false) :
    exec (.preemptStop k) s = .next (s.stopThread k) := by
  obtain ⟨fn, p, e, handler, hrun⟩ : ∃ fn p e handler, (s.core k).run = .thread fn p e handler := by
    unfold Core.isThread at hthread
    split at hthread
    · exact ⟨_, _, _, _, ‹_›⟩
    · cases hthread
  have hheld : s.stopHeld k = false := by
    simp [State.stopHeld, State.firingOf, hrun, CoreRun.firingNo, hdeliver, sending_eq_false hpacket, hrecord]
  show execPreemptStop k s = _
  simp [execPreemptStop, hpreempt, hrun, hheld, hk, hsfu]

end Sys2Proof.Machine

namespace Sys2Proof.Machine
open Host

/-! ### The end of a slice (R92, R93) -/

/-- A command of a cluster has started and not completed (R93, R318). -/
def Cluster.started (x : Cluster) : Bool :=
  x.commands.any (·.begun) || x.cells.any fun c => c.2.staging.any fun q => q.op == 1 && q.done == 1

/-- What the end of a slice waits for: the cores, and whether a cluster has a command that has started. -/
def State.underWay (s : State) : Tbl Core × Bool := (s.cores, s.clusters.any fun e => e.2.started)

theorem allStopped_eq (s : State) : s.allStopped = (!(s.underWay.1.any fun e => !isSaved e.1 && e.2.busy) && !s.underWay.2) := rfl

theorem any_tset {α : Type} {p : α → Bool} {d v : α} {t : Tbl α} {k : Nat} (hd : p d = false) (hv : p v = p (tget d t k)) :
    (tset t k v).any (fun e => p e.2) = t.any fun e => p e.2 := by
  induction t with
  | nil => simpa [tset, tget, hd] using hv
  | cons e r ih =>
    by_cases h : e.1 = k
    · simp_all [tset, tget]
    · simp_all [tset, tget]

theorem underWay_noteUnit (s : State) (cl : Nat) : (s.noteUnit cl).underWay = s.underWay :=
  congrArg (Prod.mk s.cores) (any_tset (d := Cluster.init) rfl rfl)

theorem underWay_withdraw (s : State) (o : Offer) : (s.withdraw o).underWay = s.underWay := by
  have hrelease (t : State) (g : Grp) : (t.releaseTiles o.region o.copy o.lslice g.tiles).underWay = t.underWay := by
    rw [State.underWay, cores_releaseTiles, clusters_releaseTiles, State.underWay]
  have hgroups (t : State) : (o.groups.foldl (fun s g => s.releaseTiles o.region o.copy o.lslice g.tiles) t).underWay = t.underWay :=
    List.foldlRecOn (motive := fun u => u.underWay = t.underWay) o.groups _ rfl fun u hu g _ => (hrelease u g).trans hu
  unfold State.withdraw
  refine (hgroups _).trans ?_
  split
  · exact underWay_noteUnit s _
  · rfl

theorem underWay_withdrawRegion (s : State) (r : Nat) : (s.withdrawRegion r).underWay = s.underWay :=
  List.foldlRecOn (motive := fun u => u.underWay = s.underWay) _ _ rfl fun u hu o _ => (underWay_withdraw u o).trans hu

/-- A core, by its key, asked at time `n` to stop where it runs. -/
def askStop (n : Nat) (e : Nat × Core) : Nat × Core :=
  if !isSaved e.1 && e.2.busy then (e.1, { e.2 with preempt := true, packetStop := some n }) else e

theorem askStop_fst (n : Nat) (e : Nat × Core) : (askStop n e).1 = e.1 := by
  unfold askStop
  split <;> rfl

theorem askStop_busy (n : Nat) (e : Nat × Core) : (askStop n e).2.busy = e.2.busy := by
  unfold askStop
  split <;> rfl

theorem preempt_askStop (n : Nat) {t : Tbl Core} {j : Nat} (hj : isSaved j = false) (hbusy : (tget .init t j).busy = true) :
    (tget .init (t.map (askStop n)) j).preempt = true := by
  induction t with
  | nil => cases hbusy
  | cons e r ih =>
    rw [List.map_cons, tget, askStop_fst]
    rw [tget] at hbusy
    split at hbusy
    · next h => simp [askStop, h, hj, hbusy]
    · next h => simpa [h] using ih hbusy

theorem underWay_beginSliceEnd (s : State) (fn : Nat) : ∃ n, (s.beginSliceEnd fn).underWay = (s.cores.map (askStop n), s.underWay.2) := by
  have hwithdraw : (((s.regions.filter fun g => g.func == fn).map fun (g : Region) => g.id).foldl State.withdrawRegion s).underWay = s.underWay :=
    List.foldlRecOn (motive := fun u => u.underWay = s.underWay) _ _ rfl fun u hu r _ => (underWay_withdrawRegion u r).trans hu
  have hbegin (u : State) (hu : u = ((s.regions.filter fun g => g.func == fn).map fun (g : Region) => g.id).foldl State.withdrawRegion s) :
      (s.beginSliceEnd fn).underWay = (u.underWay.1.map (askStop u.clock), u.underWay.2) := by
    subst hu
    rfl
  exact ⟨_, by rw [hbegin _ rfl, hwithdraw]; rfl⟩

theorem allStopped_beginSliceEnd (s : State) (fn : Nat) : (s.beginSliceEnd fn).allStopped = s.allStopped := by
  obtain ⟨n, h⟩ := underWay_beginSliceEnd s fn
  simp only [allStopped_eq, h, List.any_map, Function.comp_def, askStop_fst, askStop_busy]
  rfl

theorem preempt_beginSliceEnd {s : State} (fn : Nat) {j : Nat} (hj : isSaved j = false) (hbusy : (s.core j).busy = true) :
    ((s.beginSliceEnd fn).core j).preempt = true := by
  obtain ⟨n, h⟩ := underWay_beginSliceEnd s fn
  have hcores : (s.beginSliceEnd fn).cores = s.cores.map (askStop n) := congrArg Prod.fst h
  rw [State.core, hcores]
  exact preempt_askStop n hj hbusy

/-- A slice that is over ends at once where nothing has to stop, and otherwise begins to. -/
theorem exec_sliceEnd_over {s : State} {fn : Nat} (hslice : s.slice = some fn) (hover : s.sliceOver fn = true) :
    exec .sliceEnd s = if s.allStopped then
      .next (((s.beginSliceEnd fn).clusters.map fun (e : Nat × Cluster) => e.1).foldl (fun u cl => u.saveCluster u.lastSlice cl)
        { s.beginSliceEnd fn with ending := false })
      else .next (s.beginSliceEnd fn) := by
  have hending : (s.beginSliceEnd fn).ending = true := rfl
  show execSliceEnd s = _
  simp only [execSliceEnd, hslice, hover, if_true, hending, Bool.true_and, allStopped_beginSliceEnd]

theorem exec_sliceEnd_goes_on {s : State} {fn : Nat} (hslice : s.slice = some fn) (hover : s.sliceOver fn = false) (hending : s.ending = false) :
    exec .sliceEnd s = .next s := by
  show execSliceEnd s = _
  simp only [execSliceEnd, hslice, hover, hending, Bool.false_eq_true, if_false, Bool.false_and]

theorem allStopped_eq_false_of_busy {s : State} (h : ∃ e ∈ s.cores, e.1 < 0x10000 ∧ e.2.busy = true) : s.allStopped = false := by
  obtain ⟨e, he, hkey, hbusy⟩ := h
  have hany : (s.underWay.1.any fun e => !isSaved e.1 && e.2.busy) = true :=
    List.any_eq_true.2 ⟨e, he, by simp [isSaved, hbusy]; omega⟩
  rw [allStopped_eq, hany]
  rfl

/-- A cluster saved for a function keeps none of what it has saved (R237, R252). -/
theorem cluster_saveCluster (s : State) (fn cl : Nat) : ∃ x : Cluster, (s.saveCluster fn cl).cluster cl =
    { x with modes := [], bankMem := .empty, fifos := [], merge := none, copyQ := [], indQ := [], mergeQ := [], store := .empty,
             cells := x.cells.map fun e => (e.1, e.2.absent) } :=
  ⟨_, State.cluster_modCluster_same ..⟩

/-! ### The start of a slice (R92, R237) -/

theorem belowCores_emptyWay (s : State) (cl b : Nat) : BelowCores s (s.emptyWay cl b) :=
  .foldl (fun t n => belowCores_writeBackCluster t cl n true) _ s

theorem belowCores_restoreCluster (s : State) (sv : SavedCluster) : BelowCores s (s.restoreCluster sv) := by
  unfold State.restoreCluster
  exact (BelowCores.foldl (fun t (e : Nat × BankMode) => belowCores_emptyWay t sv.cluster e.1) (sv.modes.filter fun e => e.2 != .cacheWay) s).trans
    (belowCores_modCluster _ sv.cluster _)

theorem lt_of_mem_spanOf_id {a n x : Nat} (h : x ∈ spanOf id a n) : x < a + n := by
  induction n generalizing a with
  | zero => cases h
  | succ n ih =>
    rcases List.mem_cons.1 h with rfl | h
    · exact Nat.lt_add_of_pos_right (Nat.succ_pos n)
    · have := ih h
      omega

theorem exec_sliceStart {s : State} {fn : Nat} (hslice : s.slice = none) (hending : s.ending = false) (hlife : s.life = .run)
    (hmay : s.mayHold fn = true) (hfirst : ∀ n, n < 64 → s.mayHold n = true → (fn + 63 - s.lastSlice) % 64 ≤ (n + 63 - s.lastSlice) % 64) :
    ∃ u, BelowCores s u ∧ exec (.sliceStart fn) s =
      .next { u.modFunc fn fun y => { y with saved := [] } with slice := some fn, sliceStart := u.clock } := by
  refine ⟨_, .foldl belowCores_restoreCluster (s.func fn).saved s, ?_⟩
  have hall : ((spanOf id 0 64).all fun n => !s.mayHold n || decide ((fn + 63 - s.lastSlice) % 64 ≤ (n + 63 - s.lastSlice) % 64)) = true := by
    refine List.all_eq_true.2 fun n hn => ?_
    cases hm : s.mayHold n
    · rfl
    · exact decide_eq_true (hfirst n (by simpa using lt_of_mem_spanOf_id hn) hm)
  show execSliceStart fn s = _
  simp only [execSliceStart, hslice, hending, hlife, hmay, hall]
  rfl

theorem exec_sliceStart_taken {s : State} {fn : Nat} (hslice : s.slice ≠ none) : exec (.sliceStart fn) s = .next s :=
  if_pos (by simp [Option.isSome_iff_ne_none.2 hslice])

/-! ### Resuming (R384, R385) -/

theorem belowCores_noteUnit (s : State) (cl : Nat) : BelowCores s (s.noteUnit cl) := by
  unfold State.noteUnit
  exact belowCores_modCluster s cl _

theorem sameTables_setPad (s : State) (k m : Nat) : SameTables s (s.setPad k m) := by
  unfold State.setPad
  exact (CacheOnly.foldl (fun t l => cacheOnly_writeBackL1 t k l true) _ s).toSameTables.trans (sameTables_modCore _ k _)

section PlaceCore

variable (s : State) (j k fn : Nat) (g : Nat × Nat)

theorem sameTables_placeCore : SameTables s (s.placeCore j k fn g) := by
  have hpad : SameTables s ((s.noteUnit (clusterOf k)).setPad k (s.core j).spN) :=
    (belowCores_noteUnit s (clusterOf k)).toSameTables.trans (sameTables_setPad _ k _)
  unfold State.placeCore
  refine .trans (.trans hpad ?_) (cacheOnly_acquireAt _ k 1 true).toSameTables
  exact ⟨rfl, rfl, rfl, rfl, fun _ => rfl⟩

/-- The core's work and context come with it. -/
theorem core_placeCore : ((s.placeCore j k fn g).core k).run = (s.core j).run ∧ ((s.placeCore j k fn g).core k).arr = (s.core j).arr ∧
    ((s.placeCore j k fn g).core k).cr = (s.core j).cr := by
  have hacquire (t : State) := cacheOnly_acquireAt t k 1 true
  have hnew (t : State) (c : Core) : ((t.setCore k c).renameCommands j k).core k = c := tget_tset_same ..
  unfold State.placeCore
  dsimp only
  rw [(hacquire _).run, (hacquire _).arr, (hacquire _).cr, State.core_modCluster, hnew]
  exact ⟨rfl, rfl, rfl⟩

end PlaceCore

theorem reclaim_of_no_grant {s : State} {j : Nat} (h : (s.core j).grant = 0) (k : Nat) : s.reclaim j k = some (s, 0, 0) := if_pos h

theorem sameTables_resumeCore (s : State) (asIs : Bool) (j k fn : Nat) (g : Nat × Nat) : SameTables s (s.resumeCore asIs j k fn g) := by
  unfold State.resumeCore
  exact (sameTables_placeCore s j k fn g).trans (sameTables_modCore _ k _)

theorem loadBlock_run (c : Core) (k o : Nat) : (c.loadBlock k o).1.run = c.run := rfl

theorem loadBlock_ient (c : Core) (k o : Nat) : (c.loadBlock k o).1.ient = ((c.arr.word (o + 0x108)).setWidth 53) &&& ~~~1 := rfl

theorem loadBlock_pc (c : Core) (k o : Nat) : (c.loadBlock k o).2 = ((c.arr.word (o + 8)).setWidth 53) &&& ~~~1 := rfl

/-- A saved core of a firing fetches from the entry of its region when it resumes (R384). -/
theorem core_resumeCore (s : State) {j k fn n : Nat} {g : Nat × Nat} (hrun : (s.core j).run = .firing n) :
    ((s.resumeCore false j k fn g).core k).run = .firing n ∧ ((s.resumeCore false j k fn g).core k).pc =
      (((s.core j).arr.word ((s.core j).cr.ctx.toNat % 0x8000 + 0x108)).setWidth 53 : BitVec 53) &&& ~~~1 := by
  obtain ⟨hrun', harr, hcr⟩ := core_placeCore s j k fn g
  have hcore : (s.resumeCore false j k fn g).core k = ((s.placeCore j k fn g).core k).reloaded k := by
    rw [State.resumeCore, State.core_modCore_same, hrun', hrun]
    dsimp only
    rw [if_neg Bool.false_ne_true]
  rw [hcore, Core.reloaded]
  dsimp only
  rw [loadBlock_run, loadBlock_ient, hrun', harr, hcr, hrun]
  exact ⟨rfl, rfl⟩

section ResumeOne

variable {s : State} {f : Firing} {j k : Nat}

theorem resumePlan_plain {cl : Nat} (hclass : s.classOf f = 0) (hfree : (s.freeCores cl).head? = some k) : s.resumePlan cl [f] = some [[k]] := by
  obtain ⟨r, hr⟩ := List.head?_eq_some_iff.1 hfree
  simp [State.resumePlan, hclass, hr]

theorem resumeOn_one (hcores : f.cores = [j]) (hcells : f.cells = []) (hcheck : s.carriesCheck f = false) (hgrant : (s.core j).grant = 0)
    (k : Nat) : ∃ fn, s.resumeOn f [k] = some ((s.resumeCore false j k fn (0, 0)).modFiring f.id fun x =>
      { x with kept := false, cells := [], cores := [k], committed := x.committed.map fun i => (tfind [(j, k)] i).getD i }) := by
  refine ⟨(s.region? f.region).elim 0 Region.func, ?_⟩
  cases hr : s.region? f.region <;>
    simp only [State.resumeOn, hr, hcores, hcells, hcheck, List.zip_cons_cons, List.zip_nil_right, List.foldl_cons, List.foldl_nil,
      Option.bind_some, reclaim_of_no_grant hgrant, Option.map_some, Option.elim_none, Option.elim_some]

/-- A kept PLAIN firing, the only one of its gang, resumes on the first free core of its cluster. -/
theorem exec_firingResume {g : Region} {fi : Nat} (hf : s.firing? fi = some f) (hkept : f.kept = true) (hnotified : f.notified = false)
    (hdoomed : f.doomed = false) (hcores : f.cores = [j]) (hcells : f.cells = []) (hclass : s.classOf f = 0)
    (hregion : s.region? f.region = some g) (hslice : s.onSlice g.space = true) (hcheck : s.carriesCheck f = false)
    (hgang : s.firings.filter (fun x => x.region == f.region && x.gang == f.gang && !x.retired) = [f])
    (hnamed : ((s.rangesAt (clusterOf j)).any fun e => namesSpan e.2 j padWindow 0x40000) = false)
    (hfree : (s.freeCores (clusterOf j)).head? = some k) (hgrant : (s.core j).grant = 0) :
    ∃ fn, exec (.firingResume fi) s = .next ((s.resumeCore false j k fn (0, 0)).modFiring f.id fun x =>
      { x with kept := false, cells := [], cores := [k], committed := x.committed.map fun i => (tfind [(j, k)] i).getD i }) := by
  obtain ⟨fn, hon⟩ := resumeOn_one hcores hcells hcheck hgrant k
  refine ⟨fn, ?_⟩
  show execFiringResume fi s = _
  simp [execFiringResume, hf, hkept, hnotified, hdoomed, hcheck, hgang, sortBy, insertBy, hcores, hregion, hslice, hnamed,
    resumePlan_plain hclass hfree, hon]

end ResumeOne

end Sys2Proof.Machine

namespace Sys2Proof.Machine
open Host

/-! ### The end of a firing that a notice reaches (R223, R384) -/

section Notified

variable {s : State} {f : Firing} {fi k : Nat}

theorem undoPending_of_class_ne (h : s.classOf f ≠ 2) : s.undoPending f = false := by simp [State.undoPending, h]

theorem undoPending_of_clear (h : ∀ j ∈ f.cores, (s.core j).opened = false ∧ (s.core j).ucnt = 0) : s.undoPending f = false := by
  have hany : (f.cores.any fun j => (s.core j).opened || decide (0 < (s.core j).ucnt)) = false :=
    List.any_eq_false.2 fun j hj => by simp [h j hj]
  rw [State.undoPending, hany, Bool.and_false]

theorem undoPending_of_begun (hclass : s.classOf f = 2) (h : ∃ j ∈ f.cores, (s.core j).opened = true ∨ 0 < (s.core j).ucnt) :
    s.undoPending f = true := by
  simpa [State.undoPending, hclass] using h

theorem endKept_of_class_ne (h : s.classOf f ≠ 2) : s.endKept f = s.dropFiring f := congrArg (State.dropFiring · f) (if_neg h)

theorem endKept_of_class_eq (h : s.classOf f = 2) : s.endKept f = (s.release (f.cores.headD 0) s.regionScope).dropFiring f :=
  congrArg (State.dropFiring · f) (if_pos h)

/-- A kept firing that a notice has reached, or that is to leave flight, ends instead of resuming. -/
theorem exec_firingResume_ends (hf : s.firing? fi = some f) (hkept : f.kept = true) (hends : f.notified = true ∨ f.doomed = true)
    (hundo : s.undoPending f = false) : exec (.firingResume fi) s = .next (s.endKept f) := by
  show execFiringResume fi s = _
  simp only [execFiringResume, hf, hkept, hundo, Bool.true_and, Bool.not_false, Bool.and_true, Bool.or_eq_true]
  exact if_pos hends

section ConflictAbort

variable (hf : s.firing? fi = some f) (hnotified : f.notified = true) (hretired : f.retired = false)
include hf hnotified hretired

theorem exec_conflictAbort_kept (hkept : f.kept = true) :
    exec (.conflictAbort fi) s = .next (if s.undoPending f then s else s.endKept f) := by
  show execConflictAbort fi s = _
  simp [execConflictAbort, hf, hnotified, hretired, hkept]

theorem exec_conflictAbort_running {r : List Nat} (hkept : f.kept = false) (hcores : f.cores = k :: r) :
    exec (.conflictAbort fi) s = if (s.core k).mayAbort then .next (s.abortFiring k f) else .next s := by
  show execConflictAbort fi s = _
  simp [execConflictAbort, hf, hnotified, hretired, hkept, hcores]

end ConflictAbort

end Notified

/-! ### Threads that resume, and the device's timeouts (R385, R377, R271, R384) -/

/-- The context of a compatibility thread loaded again from its block in the core's array, the block marked as not saved (R385). -/
def Core.threadReloaded (c : Core) (k : Nat) : Core :=
  let b := c.loadBlock k 0x800
  { b.1 with pc := b.2, arr := b.1.arr.setWord 0xA00 (c.arr.word 0xA00 &&& ~~~1) }

theorem run_threadReloaded (c : Core) (k : Nat) : (c.threadReloaded k).run = c.run := loadBlock_run c k 0x800

theorem pc_threadReloaded (c : Core) (k : Nat) : (c.threadReloaded k).pc = ((c.arr.word 0x808).setWidth 53) &&& ~~~1 := loadBlock_pc c k 0x800

/-- A saved thread with no lanes to claim again resumes on its free core. -/
theorem exec_compatThreadResume {s : State} {j k : Nat} {c : Core}
    (hfind : s.cores.find? (fun e => isSaved e.1 && e.1 % 0x10000 == k && e.2.isThread && s.onSlice (s.spaceOf e.1)) = some (j, c))
    (hnamed : ((s.rangesAt (clusterOf k)).any fun e => namesSpan e.2 j padWindow 0x40000) = false) (hk : isSaved k = false)
    (hfree : s.coreFree k = true) (hgrant : (s.core j).grant = 0) : exec (.compatThreadResume k) s =
      .next ((s.placeCore j k (s.spaceOf j / 256) (0, 0)).modCore k fun c => c.threadReloaded k) := by
  show execCompatThreadResume k s = _
  simp only [execCompatThreadResume, hfind, hnamed, hk, hfree, reclaim_of_no_grant hgrant, Bool.not_true, Bool.or_false,
    Bool.false_eq_true, if_false]
  rfl

theorem exec_waitiTimeout {s : State} {k n : Nat} (h : (s.core k).waitFrom = some n) : exec (.waitiTimeout k) s =
    if s.clock < n + 4096 then .next s else .next (s.modCore k fun c => { c with waitOver := true }) := by
  show execWaitiTimeout k s = _
  simp only [execWaitiTimeout, h]

section QsendBound

variable {s : State} {k n m : Nat} {d : Word}

/-- A packet that owes no word is not open. -/
theorem exec_qsendBoundExpiry_closed (h : (s.core k).packet = some (d, 0)) : exec (.qsendBoundExpiry k) s = .next s := by
  show execQsendBoundExpiry k s = _
  simp only [execQsendBoundExpiry, h]

section OpenPacket

variable (h : (s.core k).packet = some (d, n + 1)) (hstop : (s.core k).packetStop = some m)
include h hstop

theorem exec_qsendBoundExpiry_early (hearly : s.clock < m + 2 ^ 24) : exec (.qsendBoundExpiry k) s = .next s := by
  show execQsendBoundExpiry k s = _
  simp only [execQsendBoundExpiry, h, hstop, hearly, if_true]

theorem exec_qsendBoundExpiry_firing {f : Firing} (hover : m + 2 ^ 24 ≤ s.clock) (hf : s.firingOf k = some f) :
    exec (.qsendBoundExpiry k) s = .next (((s.closePacket k).faultRegion f.region 37).abortFiring k f) := by
  show execQsendBoundExpiry k s = _
  simp only [execQsendBoundExpiry, h, hstop, hover.not_gt, if_false, firingOf_closePacket, hf]
  rfl

theorem exec_qsendBoundExpiry_thread (hover : m + 2 ^ 24 ≤ s.clock) (hf : s.firingOf k = none) :
    exec (.qsendBoundExpiry k) s = .next ((s.closePacket k).endThread k 2) := by
  show execQsendBoundExpiry k s = _
  simp only [execQsendBoundExpiry, h, hstop, hover.not_gt, if_false, firingOf_closePacket, hf]

end OpenPacket

end QsendBound

/-! ### O53 -/

theorem isSaved_eq_false {k : Nat} (hk : k < 0x10000) : isSaved k = false := decide_eq_false (Nat.not_le.2 hk)

/-- The firing of a stopped core that has begun nothing is released with its tiles (R382). -/
theorem PlainStop.released {s : State} {k : Nat} {f : Firing} (h : PlainStop s k f) (hcores : f.cores = [k]) (hk : isSaved k = false)
    (hstopped : (s.core k).stopped = false) (hsfu : s.sfuBusy k = false) (hpassed : (s.core k).passed = false) (hmtx : (s.core k).mtx = false) :
    ∃ t, exec (.preemptStop k) s = .next t ∧ t.firing? f.id = none ∧ (t.core k).run = .idle ∧ ∀ x ∈ t.tiles, x.id ∈ f.tiles → x.held = false := by
  obtain ⟨u, hu⟩ := endStop_stopCore_drops hcores hpassed hmtx
  exact ⟨u.dropFiring f, by rw [h.exec_preemptStop hk hstopped hsfu, hu], firing?_dropFiring u f, run_dropFiring u hcores hk,
    fun x hx => held_releaseTiles hx⟩

/-- One that has passed a boundary or performed an MTX instruction is kept with its tiles (R382). -/
theorem PlainStop.kept {s : State} {k : Nat} {f : Firing} (h : PlainStop s k f) (hcores : f.cores = [k]) (hk : isSaved k = false)
    (hstopped : (s.core k).stopped = false) (hsfu : s.sfuBusy k = false) (hkeep : (s.core k).passed = true ∨ (s.core k).mtx = true) :
    ∃ t f', exec (.preemptStop k) s = .next t ∧ t.firing? f.id = some f' ∧ f'.kept = true ∧ f'.tiles = f.tiles ∧ (t.core k).run = .idle ∧
      t.tiles = s.tiles := by
  obtain ⟨u, hsame, hu⟩ := endStop_stopCore_keeps hcores hkeep
  have hclass : u.classOf f ≠ 1 := by simp [hsame.classOf, h.plain]
  obtain ⟨f', hf', hkept, htiles, hrun, hpool⟩ := saveFiring_one hcores hk ((hsame.firing? f.id).trans h.firing) hclass
  exact ⟨u.saveFiring f, f', by rw [h.exec_preemptStop hk hstopped hsfu, hu], hf', hkept, htiles, hrun, hpool.trans hsame.tiles⟩

/-- A resumed firing of one core runs on its new core from the entry of its region (R384). -/
theorem resumed_firing {s : State} {f : Firing} {fi : Nat} (hf : s.firing? fi = some f) (j k fn : Nat)
    (committed : Firing → List Nat) :
    ∃ f', ((s.resumeCore false j k fn (0, 0)).modFiring f.id fun x =>
        { x with kept := false, cells := [], cores := [k], committed := committed x }).firing? fi = some f' ∧
      f'.kept = false ∧ f'.cores = [k] := by
  obtain rfl : f.id = fi := by simpa using List.find?_some hf
  exact ⟨_, firing?_modFiring (((sameTables_resumeCore s false j k fn (0, 0)).firing? f.id).trans hf), rfl, rfl⟩

theorem run_stopThread (s : State) {k : Nat} (hk : isSaved k = false) : ((s.stopThread k).core k).run = .idle := by
  unfold State.stopThread
  exact run_parkCore _ hk _

/-- Settles O53, clause by clause: the slice's end and start, a core asked to stop, a kept firing's end or resumption, the abort by a notice,
a thread's resumption and the two timeouts. -/
theorem slicesAndStops : Obligations.SlicesAndStops := by
  intro s k fi fn f g
  refine ⟨fun hslice hover _ => ⟨fun hbusy => ?_, fun hall => ?_⟩, fun cl => ?_, exec_sliceEnd_goes_on, ?_, exec_sliceStart_taken,
    fun hk => ⟨?_, ?_, ?_, ?_, ?_⟩, fun hf hkept hends => ⟨fun hclass => ?_, fun hclass hclear => ?_⟩, ?_,
    fun hf hnotified hretired => ⟨fun hkept hclass => ?_, fun hkept hclass => ⟨fun hclear => ?_, fun hbegun => ?_⟩,
      fun r hkept hcores hopened hundo hcommitting => ?_, fun r hkept hcores hheld => ?_⟩, ?_,
    fun t hwait => ⟨fun hover => ?_, fun hearly => ?_⟩, fun d hpacket => exec_qsendBoundExpiry_closed hpacket,
    fun d n t hpacket hstop => ⟨exec_qsendBoundExpiry_early hpacket hstop, exec_qsendBoundExpiry_firing hpacket hstop,
      exec_qsendBoundExpiry_thread hpacket hstop⟩⟩
  -- The slice's end and start.
  · exact ⟨s.beginSliceEnd fn, (exec_sliceEnd_over hslice hover).trans (if_neg (by simp [allStopped_eq_false_of_busy hbusy])), rfl, rfl, rfl,
      fun j hj => preempt_beginSliceEnd fn (isSaved_eq_false hj)⟩
  · exact (exec_sliceEnd_over hslice hover).trans (if_pos hall)
  · obtain ⟨x, h⟩ := cluster_saveCluster s fn cl
    rw [h]
    exact ⟨rfl, rfl, rfl, rfl, rfl⟩
  · intro hslice hending hlife hmay hfirst
    obtain ⟨u, hbelow, hexec⟩ := exec_sliceStart hslice hending hlife hmay hfirst
    have hfunc := State.func_modFunc_same (s := u) fn fun y => { y with saved := [] }
    exact ⟨_, hexec, rfl, hbelow.clock, congrArg Func.saved hfunc⟩
  -- A core that is asked to stop.
  · exact fun hpreempt => if_pos (by simp [hpreempt])
  · rintro _ hpreempt hrun hf rfl hcores hclass hstopped hhandler hundo hpacket hdisc hdeliver hbound hsfu hpassed hmtx
    exact PlainStop.released ⟨hpreempt, hrun, hf, hclass, hhandler, hundo, hpacket, hdisc, hdeliver, hbound⟩ hcores (isSaved_eq_false hk) hstopped
      hsfu hpassed hmtx
  · rintro _ hpreempt hrun hf rfl hcores hclass hstopped hhandler hundo hpacket hdisc hdeliver hbound hsfu hkeep
    exact PlainStop.kept ⟨hpreempt, hrun, hf, hclass, hhandler, hundo, hpacket, hdisc, hdeliver, hbound⟩ hcores (isSaved_eq_false hk) hstopped
      hsfu hkeep
  · intro n hagenda hcur hpreempt hrun hf hdoomed hnotified hclass _ hdeliver hhandler hundo hpacket hdisc hbound hmchk
    obtain rfl : f.id = n := by simpa using List.find?_some hf
    have hstop : PlainStop s k f := ⟨hpreempt, hrun, hf, hclass, hhandler, hundo, hpacket, hdisc, hdeliver, hbound⟩
    rw [step, hagenda]
    exact hstop.coreTurn hcur hdoomed hnotified hmchk
  · intro hpreempt hthread hpacket hdeliver hsfu hrecord
    exact ⟨_, exec_preemptStop_thread (isSaved_eq_false hk) hpreempt hthread hpacket hdeliver hsfu hrecord, run_stopThread s (isSaved_eq_false hk)⟩
  -- A kept firing ends or resumes.
  · rw [exec_firingResume_ends hf hkept hends (undoPending_of_class_ne hclass), endKept_of_class_ne hclass]
  · rw [exec_firingResume_ends hf hkept hends (undoPending_of_clear hclear), endKept_of_class_eq hclass]
  · intro j n hf hkept hnotified hdoomed hcores hcells hclass hregion hslice hmchk hrun _ _ hgang hnamed hfree hgrant
    have hcheck : s.carriesCheck f = false := by simp [State.carriesCheck, hcores, hmchk]
    obtain ⟨fn, hexec⟩ := exec_firingResume hf hkept hnotified hdoomed hcores hcells hclass hregion hslice hcheck hgang hnamed hfree hgrant
    obtain ⟨f', hf', hkept', hcores'⟩ := resumed_firing hf j k fn fun x => x.committed.map fun i => (tfind [(j, k)] i).getD i
    refine ⟨_, f', hexec, hf', hkept', hcores', ?_⟩
    rw [State.core_modFiring]
    exact core_resumeCore s hrun
  -- A notice reaches a firing.
  · rw [exec_conflictAbort_kept hf hnotified hretired hkept, undoPending_of_class_ne hclass, endKept_of_class_ne hclass]
    rfl
  · rw [exec_conflictAbort_kept hf hnotified hretired hkept, undoPending_of_clear hclear, endKept_of_class_eq hclass]
    rfl
  · rw [exec_conflictAbort_kept hf hnotified hretired hkept, undoPending_of_begun hclass hbegun]
    rfl
  · exact (exec_conflictAbort_running hf hnotified hretired hkept hcores).trans (if_pos (by simp [Core.mayAbort, hopened, hundo, hcommitting]))
  · refine (exec_conflictAbort_running hf hnotified hretired hkept hcores).trans (if_neg ?_)
    obtain hopened | hcommitting := hheld
    · simp [Core.mayAbort, hopened]
    · simp [Core.mayAbort, hcommitting]
  -- A thread resumes, and the time of a WAITI ends.
  · intro j c hfind hnamed hk hfree hgrant
    obtain ⟨hrun, harr, -⟩ := core_placeCore s j k (s.spaceOf j / 256) (0, 0)
    refine ⟨_, exec_compatThreadResume hfind hnamed (isSaved_eq_false hk) hfree hgrant, ?_⟩
    rw [State.core_modCore_same, run_threadReloaded, pc_threadReloaded, hrun, harr]
    exact ⟨rfl, rfl⟩
  · exact (exec_waitiTimeout hwait).trans (if_neg hover.not_gt)
  · exact (exec_waitiTimeout hwait).trans (if_pos hearly)

end Sys2Proof.Machine

namespace Sys2Proof.Machine
open Host

/-! ### What lies beyond memory -/

/-- A region without its shadow frames. -/
def Region.unframed (g : Region) : Region := { g with frames := [] }

/-- What of a state is no part of its memories and their replicas, of its shadow frames, of its cores and clusters, or of its functions
with their notices: what the work of the memory hierarchy leaves alone. -/
def State.beyondMemory (s : State) : State :=
  { s with hbm := .empty, host := .empty, homes := [], flags := [], predictor := [], cores := [], clusters := [], funcs := [], irqs := [],
           regions := s.regions.map Region.unframed }

theorem beyondMemory_foldl {α : Type} {op : State → α → State} (h : ∀ s a, (op s a).beyondMemory = s.beyondMemory) (l : List α) (s : State) :
    (l.foldl op s).beyondMemory = s.beyondMemory :=
  List.foldlRecOn (motive := fun t => t.beyondMemory = s.beyondMemory) l op rfl fun t ht a _ => (h t a).trans ht

theorem beyondMemory_modCore (s : State) (k : Nat) (f : Core → Core) : (s.modCore k f).beyondMemory = s.beyondMemory := rfl

theorem beyondMemory_modCluster (s : State) (n : Nat) (f : Cluster → Cluster) : (s.modCluster n f).beyondMemory = s.beyondMemory := rfl

theorem beyondMemory_with (s : State) (hbm host : Memory) (homes : List Line) (flags : Tbl Word) (predictor : Tbl (Tbl Nat)) :
    { s with hbm := hbm, host := host, homes := homes, flags := flags, predictor := predictor }.beyondMemory = s.beyondMemory := rfl

theorem beyondMemory_captureFrames (s : State) (p : Nat) : (s.captureFrames p).beyondMemory = s.beyondMemory := by
  have hregions : (s.captureFrames p).regions.map Region.unframed = s.regions.map Region.unframed := by
    rw [State.captureFrames, List.map_map]
    refine List.map_congr_left fun g _ => ?_
    rw [Function.comp_apply]
    split <;> rfl
  exact congrArg (fun rs => { s.beyondMemory with regions := rs }) hregions

theorem beyondMemory_writeBackHome (s : State) (n : Nat) : (s.writeBackHome n).beyondMemory = s.beyondMemory := by
  unfold State.writeBackHome
  split <;> rfl

theorem beyondMemory_homeFill (s : State) (n : Nat) (h : Hint) : (s.homeFill n h).beyondMemory = s.beyondMemory := by
  unfold State.homeFill
  split
  · rfl
  · refine (beyondMemory_with _ _ _ _ _ _).trans ?_
    unfold State.roomHome
    split
    · exact beyondMemory_writeBackHome s _
    · rfl

theorem beyondMemory_homeWrite (s : State) (n : Nat) (f : Line → Line) : (s.homeWrite n f).beyondMemory = s.beyondMemory :=
  (beyondMemory_with _ _ _ _ _ _).trans ((beyondMemory_homeFill _ n .bypass).trans (beyondMemory_captureFrames s _))

theorem beyondMemory_mergeFlags (s : State) (n : Nat) (fs : Tbl Word) : (s.mergeFlags n fs).beyondMemory = s.beyondMemory :=
  beyondMemory_foldl (fun s _ => beyondMemory_with s _ _ _ _ _) fs s

theorem beyondMemory_returnOwned (s : State) (c n : Nat) : (s.returnOwned c n).beyondMemory = s.beyondMemory := by
  unfold State.returnOwned
  split
  · rfl
  · exact (beyondMemory_mergeFlags _ n _).trans (beyondMemory_homeWrite _ n _)

theorem beyondMemory_recallAny (s : State) (n : Nat) : (s.recallAny n).beyondMemory = s.beyondMemory := by
  unfold State.recallAny
  split
  · exact beyondMemory_returnOwned s _ n
  · rfl

theorem beyondMemory_recall (s : State) (party n : Nat) : (s.recall party n).beyondMemory = s.beyondMemory := by
  unfold State.recall
  split
  · split
    · rfl
    · exact beyondMemory_returnOwned s _ n
  · rfl

theorem beyondMemory_homeServe (s : State) (party n : Nat) (h : Hint) : (s.homeServe party n h).beyondMemory = s.beyondMemory :=
  (beyondMemory_homeFill _ n h).trans (beyondMemory_recall s party n)

theorem beyondMemory_homeStore (s : State) (party pa : Nat) (bs : List Byte) (h : Hint) :
    (s.homeStore party pa bs h).beyondMemory = s.beyondMemory :=
  (beyondMemory_homeWrite _ _ _).trans ((beyondMemory_homeServe _ party _ h).trans (beyondMemory_recallAny s _))

theorem beyondMemory_mergeHome (s : State) (party : Nat) (l : Line) : (s.mergeHome party l).beyondMemory = s.beyondMemory := by
  unfold State.mergeHome
  split
  · rfl
  · exact (beyondMemory_homeWrite _ l.num _).trans (beyondMemory_homeServe s party l.num .bypass)

theorem beyondMemory_writeBackCluster (s : State) (c n : Nat) (drop : Bool) : (s.writeBackCluster c n drop).beyondMemory = s.beyondMemory := by
  unfold State.writeBackCluster
  split
  · rfl
  · exact beyondMemory_mergeHome s c _

theorem beyondMemory_allocCluster (s : State) (c : Nat) (l : Line) (h : Hint) : (s.allocCluster c l h).beyondMemory = s.beyondMemory := by
  unfold State.allocCluster
  refine (beyondMemory_modCluster _ c _).trans ?_
  split
  · exact beyondMemory_writeBackCluster s c _ true
  · rfl

theorem beyondMemory_mergeDown (s : State) (c : Nat) (l : Line) : (s.mergeDown c l).beyondMemory = s.beyondMemory := by
  unfold State.mergeDown
  split
  · rfl
  split
  · rfl
  split
  · rfl
  split
  · exact beyondMemory_mergeHome s c l
  · exact (beyondMemory_allocCluster _ c _ _).trans (beyondMemory_homeServe s c l.num .bypass)

theorem beyondMemory_writeBackL1 (s : State) (k n : Nat) (drop : Bool) : (s.writeBackL1 k n drop).beyondMemory = s.beyondMemory := by
  unfold State.writeBackL1
  split
  · rfl
  · exact beyondMemory_mergeDown s _ _

theorem beyondMemory_acquireAt (s : State) (k scope : Nat) (full : Bool) : (s.acquireAt k scope full).beyondMemory = s.beyondMemory := by
  have hl1 := beyondMemory_foldl (fun s n => beyondMemory_writeBackL1 s k n true) (lineNums (s.core k).l1) s
  unfold State.acquireAt
  split
  · rfl
  · refine (beyondMemory_modCore _ k _).trans ?_
    split
    · exact hl1
    · exact (beyondMemory_foldl (fun s n => beyondMemory_writeBackCluster s (clusterOf k) n true) _ _).trans hl1

theorem beyondMemory_setPad (s : State) (k m : Nat) : (s.setPad k m).beyondMemory = s.beyondMemory :=
  (beyondMemory_modCore _ k _).trans (beyondMemory_foldl (fun s l => beyondMemory_writeBackL1 s k l true) _ s)

theorem beyondMemory_freshPad (s : State) (k f : Nat) : (s.freshPad k f).beyondMemory = s.beyondMemory := by
  unfold State.freshPad
  refine (beyondMemory_modCluster _ (clusterOf k) _).trans ?_
  split
  · rfl
  · exact beyondMemory_setPad s k 0

theorem beyondMemory_noteUnit (s : State) (cl : Nat) : (s.noteUnit cl).beyondMemory = s.beyondMemory := rfl

/-! ### Stores of the device, beyond memory -/

theorem beyondMemory_walk (s : State) (space va : Nat) : (s.walk space va).1.beyondMemory = s.beyondMemory := by
  unfold State.walk
  dsimp only
  split
  · rfl
  · refine beyondMemory_foldl (fun s a => ?_) _ s
    split
    · exact beyondMemory_homeServe s _ _ _
    · rfl

theorem beyondMemory_physOr (s : State) (pa : Nat) (v : Word) : (s.physOr pa v).beyondMemory = s.beyondMemory := by
  unfold State.physOr
  split
  · exact beyondMemory_homeStore s _ _ _ _
  · rfl
  · rfl

theorem beyondMemory_walkAccess (s : State) (space va : Nat) (a : Acc) (handler : Bool) :
    (s.walkAccess space va a handler).1.beyondMemory = s.beyondMemory := by
  have hwalk := beyondMemory_walk s space va
  unfold State.walkAccess
  split
  · next heq => rwa [heq] at hwalk
  · next heq =>
    rw [heq] at hwalk
    dsimp only
    split
    · exact hwalk
    split
    · exact hwalk
    · exact (beyondMemory_physOr _ _ _).trans hwalk

theorem beyondMemory_xlateDev (s : State) (space va : Nat) (a : Acc) (handler : Bool) :
    (s.xlateDev space va a handler).1.beyondMemory = s.beyondMemory := by
  have hwalk := beyondMemory_walkAccess s space va a handler
  unfold State.xlateDev
  split
  · rfl
  split
  · next heq => rwa [heq] at hwalk
  · next heq => rwa [heq] at hwalk

theorem beyondMemory_forgetUo (s : State) (k n : Nat) : (s.forgetUo k n).beyondMemory = s.beyondMemory := by
  unfold State.forgetUo
  split <;> rfl

theorem beyondMemory_devPut (s : State) (k : Nat) (h : Hint) (a : Nat) (bs : List Byte) (fuel : Nat) :
    (s.devPut k .so h a bs fuel).beyondMemory = s.beyondMemory := by
  induction fuel generalizing s a bs with
  | zero => rfl
  | succ n ih =>
    have hline : ((s.forgetUo k (a / 128)).homeStore (clusterOf k) a (bs.take (128 - a % 128)) h).beyondMemory = s.beyondMemory :=
      (beyondMemory_homeStore _ _ _ _ _).trans (beyondMemory_forgetUo s k _)
    simp only [State.devPut, if_true]
    split
    · exact hline
    · exact (ih _ _ _).trans hline

theorem beyondMemory_homePut (s : State) (p : Place) (bs : List Byte) : (s.homePut p bs).beyondMemory = s.beyondMemory := by
  unfold State.homePut State.putBytes
  cases p with
  | arr k o => rfl
  | bank n o => rfl
  | dev a => exact beyondMemory_devPut s _ _ a bs _
  | host a => exact beyondMemory_captureFrames s _
  | panel n o => rfl

theorem beyondMemory_devWrite (s : State) (space va : Nat) (bs : List Byte) : (s.devWrite space va bs).1.beyondMemory = s.beyondMemory := by
  have hxlate := beyondMemory_xlateDev s space va .store false
  unfold State.devWrite
  split
  · next heq => rwa [heq] at hxlate
  · next heq =>
    rw [heq] at hxlate
    exact (beyondMemory_homePut _ _ _).trans hxlate

theorem beyondMemory_postNotice (s : State) (f : Nat) (n : Word × Word) (by_ : Option Nat) :
    (s.postNotice f n by_).beyondMemory = s.beyondMemory := by
  unfold State.postNotice
  dsimp only
  split
  · exact beyondMemory_homePut s _ _
  · rfl

theorem beyondMemory_devStore8 (s : State) (f p va : Nat) (v : Word) (by_ : Option Nat) :
    (s.devStore8 f p va v by_).beyondMemory = s.beyondMemory := by
  have hwrite := beyondMemory_devWrite s (f * 256 + p) va (leBytes 8 v.toNat)
  unfold State.devStore8
  split
  · next heq => rwa [heq] at hwrite
  · next heq =>
    rw [heq] at hwrite
    exact (beyondMemory_postNotice _ f _ by_).trans hwrite

theorem beyondMemory_putStatus (s : State) (r : Nat) : (s.putStatus r).beyondMemory = s.beyondMemory := by
  unfold State.putStatus
  split
  · rfl
  · exact beyondMemory_devStore8 s _ _ _ _ _

/-! ### A region that faults (R68, R73) -/

theorem region?_id {s : State} {r : Nat} {g : Region} (h : s.region? r = some g) : g.id = r := by simpa using List.find?_some h

/-- Whether region `r` has faulted, if it is not over. -/
def State.faultOf (s : State) (r : Nat) : Option Bool := (s.region? r).map Region.faulted

theorem faultOf_of_beyondMemory {s t : State} (h : t.beyondMemory = s.beyondMemory) (r : Nat) : t.faultOf r = s.faultOf r := by
  have hseen (u : State) : u.faultOf r = (u.beyondMemory.region? r).map Region.faulted := by
    rw [show u.beyondMemory.region? r = _ from region?_map u (g := Region.unframed) (fun _ => rfl) r, Option.map_map]
    rfl
  rw [hseen, hseen, h]

theorem faultOf_modRegion (s : State) (n r : Nat) {g : Region → Region} (hid : ∀ x, (g x).id = x.id) (hfaulted : ∀ x, (g x).faulted = x.faulted) :
    (s.modRegion n g).faultOf r = s.faultOf r := by
  rw [State.faultOf, region?_modRegion s n r hid, Option.map_map, State.faultOf]
  congr 1
  funext x
  rw [Function.comp_apply]
  split
  · exact hfaulted x
  · rfl

theorem markDirty_id (g : Region) (sl : Nat) : (g.markDirty sl).id = g.id := by
  unfold Region.markDirty
  split <;> rfl

theorem markDirty_faulted (g : Region) (sl : Nat) : (g.markDirty sl).faulted = g.faulted := by
  unfold Region.markDirty
  split <;> rfl

theorem faultOf_releaseTiles (s : State) (n copy l : Nat) (ids : List Nat) (r : Nat) : (s.releaseTiles n copy l ids).faultOf r = s.faultOf r := by
  unfold State.releaseTiles
  dsimp only
  split
  · rfl
  · exact faultOf_modRegion _ n r (fun x => markDirty_id x _) fun x => markDirty_faulted x _

theorem faultOf_withdraw (s : State) (o : Offer) (r : Nat) : (s.withdraw o).faultOf r = s.faultOf r := by
  unfold State.withdraw
  refine (List.foldlRecOn (motive := fun u => u.faultOf r = s.faultOf r) o.groups _ ?_ fun u hu g _ =>
    (faultOf_releaseTiles u _ _ _ _ r).trans hu :)
  split
  · next cl _ => exact faultOf_of_beyondMemory (beyondMemory_noteUnit s cl) r
  · rfl

theorem faultOf_withdrawRegion (s : State) (n r : Nat) : (s.withdrawRegion n).faultOf r = s.faultOf r :=
  List.foldlRecOn (motive := fun u => u.faultOf r = s.faultOf r) _ _ rfl fun u hu o _ => (faultOf_withdraw u o r).trans hu

theorem faultOf_drain (s : State) (n r : Nat) : (s.drain n).faultOf r = s.faultOf r := by
  unfold State.drain
  split
  · rfl
  split
  · exact (faultOf_withdrawRegion _ n r).trans ((faultOf_of_beyondMemory (beyondMemory_putStatus _ n) r).trans
      (faultOf_modRegion s n r (g := fun x => { x with state := .draining }) (fun _ => rfl) fun _ => rfl))
  · rfl

theorem faulted_faultRegion {s : State} {r : Nat} {g : Region} (h : s.region? r = some g) (d : Word) :
    ∃ g', (s.faultRegion r d).region? r = some g' ∧ g'.faulted = true := by
  have hid : g.id = r := region?_id h
  have hfault : (s.faultRegion r d).faultOf r = some true := by
    refine (faultOf_drain _ r r).trans ?_
    rw [State.faultOf, region?_modRegion s r r (by intro; rfl), h, Option.map_some, if_pos hid]
    rfl
  exact Option.map_eq_some_iff.1 hfault

/-! ### Destroyed descriptors (R32, R73) -/

theorem region_of_mem_tilesAt {s : State} {r copy l : Nat} {t : Tile} (h : t ∈ s.tilesAt r copy l) : t.region = r := by
  simp only [State.tilesAt, List.mem_filter, Bool.and_eq_true, beq_iff_eq] at h
  obtain ⟨-, ⟨hregion, -⟩, -⟩ := h
  exact hregion

section DestroyTile

variable {s : State} {t : Tile} {g : Region}

/-- A region that rolls back repeats its step for a destroyed descriptor, twice at most. -/
theorem destroyTile_repeats (hg : s.region? t.region = some g) (hrolls : g.rolls = true) (hrepeats : g.repeats < 2) :
    s.destroyTile t = s.repeatStep g.id := by
  simp only [State.destroyTile, hg, hrolls, hrepeats, if_true]

/-- Where the step is not repeated, the tile leaves the pool. -/
theorem destroyTile_gone (hg : s.region? t.region = some g) (h : g.rolls = false ∨ 2 ≤ g.repeats) : ∀ x ∈ (s.destroyTile t).tiles, x.id ≠ t.id := by
  intro x hx
  have hgone (u : State) (hu : x ∈ u.tiles.filter fun y => y.id != t.id) : x.id ≠ t.id := by simpa using (List.mem_filter.1 hu).2
  cases hrolls : g.rolls with
  | false =>
    simp only [State.destroyTile, hg, hrolls, Bool.false_eq_true, if_false] at hx
    exact hgone _ hx
  | true =>
    have hrepeats : ¬ g.repeats < 2 := (h.resolve_left (by simp [hrolls])).not_gt
    simp only [State.destroyTile, hg, hrolls, hrepeats, if_true, if_false] at hx
    exact hgone _ hx

/-- A region that does not roll back faults. -/
theorem destroyTile_faults (hg : s.region? t.region = some g) (hrolls : g.rolls = false) :
    ∃ g', (s.destroyTile t).region? t.region = some g' ∧ g'.faulted = true := by
  have hid : g.id = t.region := region?_id hg
  simp only [State.destroyTile, hg, hrolls, Bool.false_eq_true, if_false, hid]
  exact faulted_faultRegion hg _

end DestroyTile

section DescriptorEccError

variable {s : State} {region lslice age : Nat}

theorem exec_descriptorEccError_one {t : Tile}
    (h : (s.tilesAt region (lslice / 4096 % 2) (lslice % 4096)).filter (fun t => t.age == age) = [t]) :
    exec (.descriptorEccError region lslice age) s = .next (s.destroyTile t) := by
  show execDescriptorEccError region lslice age s = _
  simp only [execDescriptorEccError, h]

theorem exec_descriptorEccError_many
    (h : 2 ≤ ((s.tilesAt region (lslice / 4096 % 2) (lslice % 4096)).filter fun t => t.age == age).length) :
    ∃ t ∈ (s.tilesAt region (lslice / 4096 % 2) (lslice % 4096)).filter fun t => t.age == age,
      exec (.descriptorEccError region lslice age) s = .next (s.tick.destroyTile t) := by
  match hit : (s.tilesAt region (lslice / 4096 % 2) (lslice % 4096)).filter fun t => t.age == age with
  | [] | [_] => rw [hit] at h; exact absurd h (by simp)
  | t :: u :: ts =>
    have hlt : Config.freeChoice s.fresh % ((u :: ts).length + 1) < (t :: u :: ts).length := Nat.mod_lt _ (Nat.succ_pos _)
    rw [hit]
    refine ⟨(t :: u :: ts)[Config.freeChoice s.fresh % ((u :: ts).length + 1)], List.getElem_mem hlt, ?_⟩
    show execDescriptorEccError region lslice age s = _
    simp only [execDescriptorEccError, hit]
    rw [List.getD_eq_getElem _ _ hlt]

end DescriptorEccError

/-! ### Matching (R107, R109, R112, R117) -/

section SieveMatch

variable {s : State} {sl : Nat}

/-- A sieve whose first pair from its pointer on has work serves that pair. -/
theorem exec_sieveMatch_first {k : Nat} {u : State} (hclock : tget 0 s.matchAt sl ≤ s.clock)
    (hhead : (rotated (s.pairsAt sl) (tget 0 s.matchPtr sl)).head? = some k) (hserve : s.servePair sl k = some u) :
    exec (.sieveMatch sl) s = .next (s.served u sl k) := by
  obtain ⟨r, hr⟩ := List.head?_eq_some_iff.1 hhead
  show execSieveMatch sl s = _
  simp only [execSieveMatch, hclock.not_gt, if_false, hr, List.findSome?_cons, hserve, Option.map_some]

theorem exec_sieveMatch_early (h : s.clock < tget 0 s.matchAt sl) : exec (.sieveMatch sl) s = .next s := if_pos h

theorem exec_sieveMatch_no_pair (h : s.pairsAt sl = []) : exec (.sieveMatch sl) s = .next s := by
  show execSieveMatch sl s = _
  simp [execSieveMatch, h, rotated]

end SieveMatch

theorem pairEnabled_iff {s : State} {k : Nat} {g : Region} (h : s.region? (k / 8192) = some g) : s.pairEnabled k = true ↔
    (g.matchAll (k / 4096 % 2) (k % 4096) (s.visible g (k / 4096 % 2) (k % 4096) false false)).isSome = true := by
  simp only [State.pairEnabled, h]

section EndedGang

variable {s : State} {g : Region} {o : Offer}

theorem nextOfGang_ended (h : o.ended = true) (ts : List Tile) : s.nextOfGang g o ts = none := by
  simp [State.nextOfGang, h]

theorem growGang_ended (h : o.ended = true) {sl : Nat} (hroom : s.offerRoom g sl o.groups.length = false) (ts : List Tile) :
    s.growGang g sl o ts = none := by
  simp [State.growGang, nextOfGang_ended h, hroom, h]

end EndedGang

theorem servePair_reserves {s : State} {sl region copy l : Nat} {g : Region} {m : Nat × List Tile × Nat} (hg : s.region? region = some g)
    (hcopy : copy < 2) (hl : l < 4096) (hstepped : g.eff.stepped = false) (hnotice : s.noticeWaits region = false)
    (hforming : s.formingAt region copy l = none) (hmatch : g.matchAll copy l (s.visible g copy l false false) = some m)
    (hspent : g.fireSpent copy = false) (hoffers : s.offersFull g sl = false) (hfire : s.fireFull g copy = false) :
    s.servePair sl (region * 8192 + copy * 4096 + l) = some (s.reserve g copy l m) := by
  have hid : g.id = region := region?_id hg
  have hregion : (region * 8192 + copy * 4096 + l) / 8192 = region := by omega
  have hcopy' : (region * 8192 + copy * 4096 + l) / 4096 % 2 = copy := by omega
  have hl' : (region * 8192 + copy * 4096 + l) % 4096 = l := by omega
  simp only [State.servePair, hregion, hcopy', hl', hg, hid, hstepped, hnotice, hforming, hmatch, hspent, hoffers, hfire, Bool.false_and,
    Bool.or_self, Bool.false_eq_true, if_false]

theorem offers_reserve (s : State) (g : Region) (copy l : Nat) (m : Nat × List Tile × Nat) :
    ∃ o, (s.reserve g copy l m).offers = s.offers ++ [o] := by
  unfold State.reserve
  dsimp only
  split <;> exact ⟨_, rfl⟩

theorem tiles_reserve (s : State) (g : Region) (copy l : Nat) (m : Nat × List Tile × Nat) : (s.reserve g copy l m).tiles =
    s.tiles.map fun t => if (m.2.1.map fun (y : Tile) => y.id).contains t.id then { t with held := true } else t := by
  unfold State.reserve
  dsimp only
  split <;> rfl

theorem held_reserve {s : State} {g : Region} {copy l : Nat} {m : Nat × List Tile × Nat} {x : Tile} (hx : x ∈ (s.reserve g copy l m).tiles)
    (hid : x.id ∈ m.2.1.map fun (y : Tile) => y.id) : x.held = true := by
  rw [tiles_reserve, List.mem_map] at hx
  obtain ⟨t, -, rfl⟩ := hx
  split
  · rfl
  · next h => exact absurd (List.contains_iff_mem.2 (by rwa [if_neg h] at hid)) h

/-! ### Sweeps (R105) -/

/-- A sweep of a logical slice whose tiles have no match marks it, unless one of them is of this cycle. -/
theorem exec_overflowSweep_marks {s : State} {region copy l : Nat} {g : Region} (hcopy : copy < 2) (hl : l < 4096)
    (hg : s.region? region = some g) (hactive : g.state = .active) (hheld : g.held = false) (hslice : s.onSlice g.space = true)
    (hover : ((s.tilesAt region copy l).any fun (t : Tile) => t.overflow) = true) (hswept : g.swept.contains (copy * 4096 + l) = false)
    (hreserved : s.reservedAt region copy l g.eff.stepped = false) (hnotice : s.noticeWaits region = false)
    (hresident : g.eff.stepped = true ∨ g.matchAll copy l (s.visible g copy l false true) = none)
    (hforming : s.formingAt region copy l = none) (hmatch : g.matchAll copy l (s.visible g copy l true false) = none) :
    exec (.overflowSweep region (copy * 4096 + l)) s =
      .next (if (s.tilesAt region copy l).any fun (t : Tile) => decide (s.clock < t.from_) then s
        else s.modRegion region fun x => { x with swept := numPut x.swept (copy * 4096 + l) }) := by
  have hcopy' : (copy * 4096 + l) / 4096 % 2 = copy := by omega
  have hl' : (copy * 4096 + l) % 4096 = l := by omega
  have hquiet : (!g.eff.stepped && (g.matchAll copy l (s.visible g copy l false true)).isSome) = false := by
    rcases hresident with h | h <;> simp [h]
  show execOverflowSweep region (copy * 4096 + l) s = _
  simp only [execOverflowSweep, hcopy', hl', hg, hactive, hheld, hslice, hnotice, hover, hswept, hreserved, hquiet, hforming, hmatch,
    bne_self_eq_false, Bool.not_true, Bool.or_self, Bool.false_eq_true, if_false]
  split <;> rfl

/-! ### Arrival at a cluster (R96, R113) -/

theorem chargeDispatch_modFunc {s u : State} {f p : Nat} {rivals : List Offer} (h : s.chargeDispatch f p rivals = some u) :
    ∃ g, u = s.modFunc f g := by
  unfold State.chargeDispatch at h
  dsimp only at h
  split at h
  · cases h
  · exact ⟨_, (Option.some.inj h).symm⟩

section GroupArrival

variable {s u : State} {group cl : Nat} {o : Offer} (ho : s.offers.find? (fun x => x.id == group) = some o)
  (htarget : s.targetOf s.fresh o = some cl) (hbehind : s.offerBehind s.fresh o = false)
  (hbest : s.bestOffer cl ((s.offers.filter fun x => s.targetOf s.fresh x == some cl && !s.offerBehind s.fresh x).filter
    fun x => (s.offerOf x).2.1 == (s.offerOf o).2.1) = some group)
  (hcharge : s.chargeDispatch (s.offerOf o).1 (s.offerOf o).2.1
    (s.offers.filter fun x => s.targetOf s.fresh x == some cl && !s.offerBehind s.fresh x) = some u)
include ho htarget hbehind hbest hcharge

theorem exec_groupArrival : exec (.groupArrival group cl) s = .next (if s.unitFree cl o && !s.keptIn cl then
    { u.tick.noteUnit cl with offers := u.offers.map fun x => if x.id = group then { x with cluster := some cl } else x }
    else { s.tick with offers := o :: s.offers.filter (fun (x : Offer) => x.id != group) }) := by
  show execGroupArrival group cl s = _
  simp only [execGroupArrival, ho, htarget, hbehind, hbest, hcharge, ne_eq, not_true, false_or, Bool.false_eq_true, if_false]
  split <;> rfl

end GroupArrival

/-! ### Dispatch (R114, R115, R129) -/

section StartCore

variable (s : State) (k : Nat) (g : Region) (f pc : Nat) (slots : List (List Word)) (word stamp : Word)

theorem beyondMemory_startCore : (s.startCore k g f pc slots word stamp).beyondMemory = s.beyondMemory :=
  (beyondMemory_acquireAt _ k _ true).trans (beyondMemory_freshPad s k g.func)

/-- A core that starts is as dispatch sets it up, but for its replicas. -/
theorem core_startCore : ∃ c : Core, ((s.startCore k g f pc slots word stamp).core k).uncached =
    (c.dispatched (.firing f) g.eff.trap g.eff.frmi (BitVec.ofNat 53 pc) slots word stamp).uncached :=
  ⟨(s.freshPad k g.func).core k, by
    unfold State.startCore
    rw [(cacheOnly_acquireAt _ k _ true).core, State.core_modCore_same]⟩

end StartCore

/-- What dispatch gives a core, whatever the core held (R129). -/
theorem fields_dispatched {d c : Core} {run : CoreRun} {trap frmi : Word} {pc : BitVec 53} {slots : List (List Word)} {word stamp : Word}
    (h : d.uncached = (c.dispatched run trap frmi pc slots word stamp).uncached) : d.run = run ∧ d.pc = pc ∧
      d.cr = { Ctl.reset with frm := frmi } ∧ d.preds = 0 ∧ d.pcnt = 0 ∧ d.ient = pc ∧ d.imask = 0 :=
  ⟨(congrArg Core.run h :), (congrArg Core.pc h :), (congrArg Core.cr h :), (congrArg Core.preds h :), (congrArg Core.pcnt h :),
    (congrArg Core.ient h :), (congrArg Core.imask h :)⟩

/-- The firing that a group becomes on its cores (R114, R115). -/
def State.firingFor (s : State) (g : Region) (o : Offer) (grp : Grp) (member : Nat) (ks : List Nat) : Firing :=
  { id := s.nextFiring, region := g.id, copy := o.copy, rule := o.rule, lslice := o.lslice, tiles := grp.tiles, fseq := grp.fseq,
    at_ := grp.at_, order := grp.order, member := member, gsize := o.groups.length, gang := o.id, stamp := s.stamp, cores := ks,
    committed := [], products := [], retired := false, notified := false, doomed := false, kept := false, cells := [] }

/-- A dispatch counted in its region, whose slice becomes dirty (R67, R392). -/
def State.noteDispatch (s : State) (g : Region) (o : Offer) : State :=
  let s := if o.copy = 1 then s.modRegion g.id fun x => { x with ndisp1 := x.ndisp1 + 1 } else s
  (s.count g.id o.copy fun c => { c with ndisp := c.ndisp + 1 }).modRegion g.id fun x => x.markDirty (s.sliceOf g o.copy o.lslice)

/-- Counting changes regions alone. -/
theorem noteDispatch_eq (s : State) (g : Region) (o : Offer) : ∃ rs, s.noteDispatch g o = { s with regions := rs } := by
  unfold State.noteDispatch State.count
  dsimp only
  split <;> split <;> exact ⟨_, rfl⟩

/-- A firing begun: it takes the next number and the next value of the dispatch counter (R221). -/
def State.addFiring (s : State) (f : Firing) : State :=
  { s with firings := s.firings ++ [f], nextFiring := s.nextFiring + 1, stamp := s.stamp + 1 }

theorem startGroup_one (s : State) (g : Region) (o : Offer) (grp : Grp) (member k : Nat) : ∃ slots word stamp,
    s.startGroup g o grp member [k] = (((s.addFiring (s.firingFor g o grp member [k])).startCore k g s.nextFiring
      (ruleEntry (g.rule o.rule)) slots word stamp).noteDispatch g o) :=
  ⟨_, _, _, rfl⟩

/-- A group that starts on one core: one firing more, and the core as dispatch sets it up at the entry of the group's rule (R115, R129). -/
theorem startGroup_starts (s : State) (g : Region) (o : Offer) (grp : Grp) (member k : Nat) :
    (s.startGroup g o grp member [k]).offers = s.offers ∧ (s.startGroup g o grp member [k]).nextFiring = s.nextFiring + 1 ∧
    (s.startGroup g o grp member [k]).firings = s.firings ++ [s.firingFor g o grp member [k]] ∧
    ∃ (c : Core) (slots : List (List Word)) (word stamp : Word), ((s.startGroup g o grp member [k]).core k).uncached =
      (c.dispatched (.firing s.nextFiring) g.eff.trap g.eff.frmi (BitVec.ofNat 53 (ruleEntry (g.rule o.rule))) slots word stamp).uncached := by
  obtain ⟨slots, word, stamp, hstart⟩ := startGroup_one s g o grp member k
  obtain ⟨rs, hnote⟩ := noteDispatch_eq ((s.addFiring (s.firingFor g o grp member [k])).startCore k g s.nextFiring
    (ruleEntry (g.rule o.rule)) slots word stamp) g o
  have hbeyond := beyondMemory_startCore (s.addFiring (s.firingFor g o grp member [k])) k g s.nextFiring (ruleEntry (g.rule o.rule)) slots
    word stamp
  obtain ⟨c, hcore⟩ := core_startCore (s.addFiring (s.firingFor g o grp member [k])) k g s.nextFiring (ruleEntry (g.rule o.rule)) slots
    word stamp
  rw [hstart, hnote]
  exact ⟨(congrArg State.offers hbeyond :), (congrArg State.nextFiring hbeyond :), (congrArg State.firings hbeyond :), c, slots, word, stamp, hcore⟩

section Dispatch

variable {s : State} {group cl : Nat} {o : Offer} {g : Region} (ho : s.offers.find? (fun x => x.id == group) = some o)
  (hcluster : o.cluster = some cl) (hg : s.region? o.region = some g)
include ho hcluster hg

theorem exec_dispatch_passed (hpassed : s.corePassed g o 0 = true) : exec (.dispatch group) s = .next s := by
  show execDispatch group s = _
  simp only [execDispatch, ho, hcluster, hg, hpassed, Bool.or_true, if_true]

variable (hkept : s.keptIn cl = false) (hactive : g.state = .active) (hheld : g.held = false) (hnotice : s.noticeWaits g.id = false)
  (hpassed : s.corePassed g o 0 = false)
include hkept hactive hheld hnotice hpassed

/-- A group of one general core takes the lowest-numbered free one. -/
theorem exec_dispatch_core {grp : Grp} {k : Nat} {r : List Nat} (hclass : ruleClass (g.rule o.rule) ≠ 1) (hgroups : o.groups = [grp])
    (hfree : s.freeCores cl = k :: r) : exec (.dispatch group) s =
      .next (State.startGroup { s with offers := s.offers.filter fun x => x.id != group } g o grp 0 [k]) := by
  have hmatrix : s.offerMatrix o = false := by simp [State.offerMatrix, hg, hclass]
  show execDispatch group s = _
  simp [execDispatch, ho, hcluster, hg, hkept, hactive, hheld, hnotice, hpassed, hmatrix, hgroups, hfree]

/-- A group of class MATRIX takes both cores of the lowest-numbered free cell. -/
theorem exec_dispatch_cell {grp : Grp} {gs : List Grp} {ce : Nat} {r : List Nat} (hclass : ruleClass (g.rule o.rule) = 1)
    (hgroups : o.groups = grp :: gs) (hfree : s.freeCells cl = ce :: r) : exec (.dispatch group) s =
      .next ((State.modCell { s with offers := s.offers.filter fun x => x.id != group } cl ce Cell.dispatched).startGroup g o grp 0
        [cl * 16 + 8 + ce, cl * 16 + 12 + ce]) := by
  have hmatrix : s.offerMatrix o = true := by simp [State.offerMatrix, hg, hclass]
  show execDispatch group s = _
  simp [execDispatch, ho, hcluster, hg, hkept, hactive, hheld, hnotice, hpassed, hmatrix, hgroups, hfree]

end Dispatch

theorem exec_dispatchLost (s : State) (group : Nat) : ∃ t, (t = s ∨ ∃ cl, t = s.noteUnit cl) ∧ exec (.dispatchLost group) s =
    .next { t with offers := t.offers.map fun x => if x.id = group then { x with cluster := none } else x } := by
  refine ⟨_, ?_, rfl⟩
  split
  · exact .inr ⟨_, rfl⟩
  · exact .inl rfl

/-! ### O51 -/

/-- Settles O51, clause by clause: matching, the sweep, the arrival, the dispatch and its loss, and a destroyed descriptor. -/
theorem matchingAndDispatch : Obligations.MatchingAndDispatch := by
  intro s sl group cl region lslice age o g
  refine ⟨fun k u hclock hhead hserve => exec_sieveMatch_first hclock hhead hserve, fun k x hx => pairEnabled_iff hx,
    fun hended ts => ⟨nextOfGang_ended hended ts, fun hroom => growGang_ended hended hroom ts⟩, exec_sieveMatch_early, exec_sieveMatch_no_pair,
    ?_, ?_, ?_, ?_, ?_, exec_descriptorEccError_many, ?_⟩
  -- A reservation.
  · intro copy l m hg hcopy hl _ hstepped hnotice hforming hmatch hspent hoffers hfire
    refine ⟨servePair_reserves hg hcopy hl hstepped hnotice hforming hmatch hspent hoffers hfire, ?_, fun x hx hid => held_reserve hx hid⟩
    obtain ⟨o', ho'⟩ := offers_reserve s g copy l m
    rw [ho', List.length_append, List.length_singleton]
  -- The sweep.
  · rintro copy l rfl hcopy hl hg hactive hheld hslice hover hswept hreserved hnotice hresident hforming hmatch
    exact exec_overflowSweep_marks hcopy hl hg hactive hheld hslice hover hswept hreserved hnotice hresident hforming hmatch
  -- The arrival.
  · rintro u ho htarget hbehind ⟨hbest, hcharge⟩
    have harrival := exec_groupArrival ho htarget hbehind hbest hcharge
    refine ⟨fun hfree hkept => ?_, fun h => harrival.trans ?_⟩
    · obtain ⟨f, rfl⟩ := chargeDispatch_modFunc hcharge
      exact ⟨_, harrival.trans (congrArg _ (if_pos (by simp [hfree, hkept]))), rfl, rfl, rfl⟩
    · rw [if_neg (by rcases h with h | h <;> simp [h])]
  -- The dispatch.
  · intro ho hcluster hg hkept hactive hheld hnotice
    refine ⟨exec_dispatch_passed ho hcluster hg, fun hpassed => ⟨fun grp k r hclass hgroups hfree _ => ?_, fun grp gs ce r hclass hgroups hfree =>
      exec_dispatch_cell ho hcluster hg hkept hactive hheld hnotice hpassed hclass hgroups hfree⟩⟩
    have hexec := exec_dispatch_core ho hcluster hg hkept hactive hheld hnotice hpassed (by omega) hgroups hfree
    obtain ⟨hoffers, hnext, hfirings, c, slots, word, stamp, hcore⟩ :=
      startGroup_starts { s with offers := s.offers.filter fun x => x.id != group } g o grp 0 k
    obtain ⟨hrun, hpc, hcr, hpreds, hpcnt, hient, himask⟩ := fields_dispatched hcore
    refine ⟨_, hexec, hrun, hnext, hpc, ?_, ?_, ?_, hpreds, hpcnt, hient.trans hpc.symm, himask, ?_, hoffers⟩
    · rw [hcr]
    · rw [hcr]; rfl
    · rw [hcr]; rfl
    · exact ⟨_, hfirings ▸ List.mem_append_right _ (List.mem_singleton_self _), rfl, rfl, rfl, rfl⟩
  -- Its loss.
  · obtain ⟨t, rfl | ⟨cl', rfl⟩, hexec⟩ := exec_dispatchLost s group
    · exact ⟨_, hexec, rfl, rfl, rfl, rfl, rfl⟩
    · exact ⟨_, hexec, rfl, rfl, rfl, rfl, rfl⟩
  -- A destroyed descriptor.
  · intro t hg hhit
    have hmem : t ∈ s.tilesAt region (lslice / 4096 % 2) (lslice % 4096) := List.mem_of_mem_filter (hhit ▸ List.mem_singleton_self t)
    obtain rfl : t.region = region := region_of_mem_tilesAt hmem
    have hid : g.id = t.region := region?_id hg
    have hexec := exec_descriptorEccError_one hhit
    refine ⟨fun hrolls hrepeats => ?_, fun _ hrepeats => ⟨_, hexec, destroyTile_gone hg (.inr hrepeats)⟩, fun hrolls => ?_⟩
    · rw [hexec, destroyTile_repeats hg hrolls hrepeats, hid]
    · obtain ⟨g', hg', hfaulted⟩ := destroyTile_faults hg hrolls
      exact ⟨_, g', hexec, hg', hfaulted, destroyTile_gone hg (.inl hrolls)⟩

end Sys2Proof.Machine

namespace Sys2Proof.Machine
open Host

/-! ### A register's result (R123, R131) -/

/-- Writing a register changes the core's array alone. -/
theorem setReg_eq (c : Core) (n : Nat) (v : Word) : c.setReg n v = { c with arr := (c.setReg n v).arr } := by
  unfold Core.setReg
  split <;> rfl

/-- A result written with a latency is the register's write, with what is noted of writes still pending. -/
theorem putReg_eq (c : Core) (n : Nat) (v : Word) (lat : Nat) :
    ∃ pend vpend, c.putReg n v lat = { c.setReg n v with pend := pend, vpend := vpend } := by
  unfold Core.putReg
  dsimp only
  split
  · next hn => exact ⟨c.pend, c.vpend, by rw [hn, Core.setReg_zero]⟩
  split
  · rw [setReg_eq]
    exact ⟨_, _, rfl⟩
  split
  · exact ⟨_, _, rfl⟩
  · rw [setReg_eq]
    exact ⟨_, _, rfl⟩

theorem byte_setReg_other (c : Core) {n a : Nat} (v : Word) (h : n = 0 ∨ a < c.regOff n ∨ c.regOff n + 8 ≤ a) :
    (c.setReg n v).arr.byte a = c.arr.byte a := by
  by_cases hn : n = 0
  · rw [hn, Core.setReg_zero]
  · rw [Core.reg_setReg_same c hn]
    exact Memory.byte_setWord_other _ _ (h.resolve_left hn)

theorem reg_setReg (c : Core) (n : Nat) (v : Word) (hm : c.arr.wf = true) : (c.setReg n v).reg n = if n = 0 then 0 else v := by
  split
  · next hn => rw [hn, Core.setReg_zero, Core.reg_zero]
  · next hn => exact Core.reg_setReg_same' c v hn hm

/-- The core that has written a result: the array is that of the register's write, the PC and the cycle have moved on. -/
theorem me_wrote (s : State) (len : Nat) (stl : BitVec 2) (rd : BitVec 5) (v : Word) (lat : Nat) : ∃ pend vpend,
    (s.wrote len stl rd v lat).me =
      Core.retired { s.me.begin len with arr := (s.me.setReg rd.toNat v).arr, pend := pend, vpend := vpend } stl := by
  obtain ⟨pend, vpend, hput⟩ := putReg_eq (s.me.begin len) rd.toNat v lat
  have harr : ((s.me.begin len).setReg rd.toNat v).arr = (s.me.setReg rd.toNat v).arr := by
    unfold Core.setReg
    split <;> rfl
  refine ⟨pend, vpend, (s.me_setCore _).trans ?_⟩
  show Core.retired ((s.me.begin len).putReg rd.toNat v lat) stl = _
  rw [hput, setReg_eq, harr]

/-! ### O8 -/

/-- Settles O8: a register's write changes the array alone, and there its own doubleword. -/
theorem registerWriteFrame : Obligations.RegisterWriteFrame := by
  intro s len rd stl v lat hwf t
  obtain ⟨pend, vpend, hme⟩ := me_wrote s len stl rd v lat
  have hzero : rd.toNat = 0 ↔ rd = 0 := by simp [BitVec.toNat_eq]
  have hreg (n : Nat) : t.me.reg n = (s.me.setReg rd.toNat v).reg n := by
    rw [setReg_eq, hme]
    rfl
  have harr : t.me.arr = (s.me.setReg rd.toNat v).arr := (congrArg Core.arr hme :)
  refine ⟨(congrArg (s.setCore s.cur) (s.me_setCore _)).symm, (congrArg Core.pc hme :), (congrArg Core.cycle hme :), ?_,
    fun n hn => ?_, fun a ha => ?_, (congrArg Core.preds hme :), (congrArg Core.cr hme :), (congrArg Core.gens hme :),
    (congrArg Core.vregs hme :), (congrArg Core.masks hme :), (congrArg Core.vtags hme :), (congrArg Core.atags hme :),
    (congrArg Core.evs hme :), (congrArg Core.l1 hme :), (congrArg Core.ient hme :), (congrArg Core.imask hme :),
    (congrArg Core.run hme :), fun k hk => s.core_setCore_other _ hk, rfl, rfl, rfl, rfl⟩
  · simp only [hreg, reg_setReg _ _ _ hwf, hzero]
  · rw [hreg, Core.reg_setReg_other _ _ (Ne.symm hn)]
  · rw [harr, byte_setReg_other _ _ (ha.imp_left hzero.2)]

end Sys2Proof.Machine

namespace Sys2Proof.Machine
open Host

/-! ### Results in the terms of the spec (R158, R161) -/

/-- The low bits of a word read as signed are the integer of its narrower form. -/
theorem sgn_eq_toInt {n : Nat} (hn : 0 < n) (a : Word) : Spec.sgn n a = (a.setWidth n).toInt := by
  have hhalf : a.toNat % 2 ^ n < 2 ^ (n - 1) ↔ 2 * (a.toNat % 2 ^ n) < 2 ^ n := by rw [← Nat.two_pow_pred_mul_two hn]; omega
  simp only [Spec.sgn, Spec.uns, BitVec.toInt_eq_toNat_cond, BitVec.toNat_setWidth, hhalf]
  push_cast
  congr

/-- An integer reduced to a width and sign-extended is a bit vector of that width, sign-extended. -/
theorem low_eq_signExtend {n : Nat} (hn : 0 < n) (v : Int) : Spec.low n v = (BitVec.ofInt n v).signExtend 64 := by
  have hhalf : (((2 ^ n : Nat) : Int) + 1) / 2 = 2 ^ (n - 1) := by
    rw [← Nat.two_pow_pred_mul_two hn]
    push_cast
    omega
  rw [BitVec.signExtend, BitVec.toInt_ofInt, Int.bmod, hhalf, Spec.low]
  push_cast
  congr

/-- The result of ADD is the sum at the width (R161). -/
theorem addRes_eq (w : BitVec 1) (a b : Word) :
    addRes w a b = Spec.low (Spec.width w) (Spec.sgn (Spec.width w) a + Spec.sgn (Spec.width w) b) := by
  have hsum {n : Nat} (hn : 0 < n) : Spec.low n (Spec.sgn n a + Spec.sgn n b) = (a.setWidth n + b.setWidth n).signExtend 64 := by
    rw [low_eq_signExtend hn, sgn_eq_toInt hn, sgn_eq_toInt hn, BitVec.ofInt_add, BitVec.ofInt_toInt, BitVec.ofInt_toInt]
  by_cases hw : w = 1
  · rw [show Spec.width w = 32 from if_pos hw, hsum (by decide)]
    exact if_pos hw
  · rw [show Spec.width w = 64 from if_neg hw, hsum (by decide), BitVec.signExtend_eq, BitVec.setWidth_eq, BitVec.setWidth_eq]
    exact if_neg hw

/-! ### A read of a late result (R131, R132) -/

/-- The current core has issued nothing to the SFU that is still to come. -/
theorem sfuPending_of_none {s : State} (h : ∀ r ∈ (s.cluster (clusterOf s.cur)).sfu, r.core ≠ s.cur) (c : Core) (l : Loc) :
    (s.setCore s.cur c).sfuPending s.cur l = false := by
  have hquiet : Quiet (s.setCore s.cur .init) := by
    refine ⟨?_, ?_, ?_, h⟩ <;> rw [State.me_setCore] <;> rfl
  simpa using hquiet.sfuPending c l

/-- An instruction that pops no stream waits for no variable-latency result where none is on its way. -/
theorem slow_eq_false {c : Core} (hvpend : c.vpend = []) {reads : List Loc} (hreads : reads.any Loc.isStream = false) (writes : List Loc) :
    c.slow reads writes = false := by
  simp [Core.slow, hvpend, hreads]

/-- The location of a register that no stream is bound to. -/
theorem locOf_plain {c : Core} {r : BitVec 5} (h : c.boundTo r.toNat = none) :
    c.locOf r = if r = 0 then [] else [.w (c.regOff r.toNat)] := by
  simp only [Core.locOf, h]

theorem regOff_inj (c : Core) {a b : BitVec 5} : c.regOff a.toNat = c.regOff b.toNat ↔ a = b := by
  rw [Core.regOff, Core.regOff, BitVec.toNat_eq]
  omega

section Late

variable {c : Core} {p : Pend} (hpend : c.pend = [p]) (hready : c.cycle < p.ready)
include hpend

theorem late_other {l : Loc} (hl : p.loc ≠ l) : c.late l = none := by
  simp [Core.late, hpend, hl]

/-- A register that no late result is written to. -/
theorem seen_other {n : Nat} (hn : p.loc ≠ .w (c.regOff n)) : c.seen n = c.reg n := by
  by_cases h : n = 0
  · rw [h, Core.seen_zero, Core.reg_zero]
  · rw [Core.seen, if_neg h, late_other hpend hn]

include hready

theorem late_same {l : Loc} (hl : p.loc = l) : c.late l = some p := by
  simp [Core.late, hpend, hl, hready]

/-- The register of a late result is seen with its old value. -/
theorem seen_late {n : Nat} (hn : n ≠ 0) (hloc : p.loc = .w (c.regOff n)) : c.seen n = p.old := by
  rw [Core.seen, if_neg hn, late_same hpend hready hloc]

variable (hvpend : c.vpend = [])
include hvpend

theorem waits_late {reads writes : List Loc} (hreads : reads.any Loc.isStream = false) (hwrites : p.loc ∉ writes) (free : Nat) :
    c.waits free reads writes = c := by
  have hslow := slow_eq_false hvpend hreads writes
  obtain ⟨⟩ := c
  simp only at hpend hvpend hready
  subst hpend hvpend
  simp [Core.waits, hslow, hwrites, hready]

/-- The readiness of an instruction that may read the late result: STALLCHK with CHK set, and no wait without (R132). -/
theorem readyLocsM_late {s : State} (hlost : c.sfuLost = []) (hsfu : ∀ r ∈ (s.cluster (clusterOf s.cur)).sfu, r.core ≠ s.cur)
    {reads writes : List Loc} (hreads : reads.any Loc.isStream = false) (hwrites : p.loc ∉ writes) :
    readyLocsM reads writes (s.setCore s.cur c) =
      match (if c.cr.sbchk.getLsbD 0 then reads.find? fun l => (c.late l).isSome else none) with
      | some l => .error (.trap cSTALLCHK (c.stallTval l))
      | none => .ok ((), s.setCore s.cur c) := by
  have hpending : (reads ++ writes).any ((s.setCore s.cur c).sfuPending s.cur) = false := by
    rw [List.any_eq_false]
    exact fun l _ => by simp [sfuPending_of_none hsfu c l]
  have hnone : reads.findSome? c.sfuLostAt = none := by
    rw [List.findSome?_eq_none_iff]
    exact fun l _ => Core.sfuLostAt_nil hlost l
  have hslow := slow_eq_false hvpend hreads writes
  unfold readyLocsM
  simp only [M.bind_run, M.get_run, State.me_setCore, State.setCore_cur, hpending, hnone, hslow, Bool.false_eq_true, if_false, M.set_run,
    M.modC_run, State.modCore_setCore, waits_late hpend hready hvpend hreads hwrites, M.getC_run]
  cases c.cr.sbchk.getLsbD 0
  · simp only [Bool.false_eq_true, if_false, M.pure_run]
  · simp only [if_true]
    cases reads.find? fun l => (c.late l).isSome <;> simp only [M.trap_run, M.pure_run]

end Late

/-- The current core's one pending result is of register `ra` and not due yet, and nothing else that it issued is outstanding (R131). -/
structure OneLate (s : State) (p : Pend) (ra : BitVec 5) : Prop where
  pend : s.me.pend = [p]
  vpend : s.me.vpend = []
  lost : s.me.sfuLost = []
  sfu : ∀ r ∈ (s.cluster (clusterOf s.cur)).sfu, r.core ≠ s.cur
  loc : p.loc = .w (s.me.regOff ra.toNat)
  late : s.me.cycle < p.ready
  nonzero : ra ≠ 0

section AddLate

variable {s : State} {p : Pend} {ra rb rd : BitVec 5} {stl : BitVec 2}

theorem OneLate.loc_ne (h : OneLate s p ra) {r : BitVec 5} (hr : r ≠ ra) : p.loc ≠ .w (s.me.regOff r.toNat) := by
  rw [h.loc, ne_eq, Loc.w.injEq, regOff_inj]
  exact hr.symm

variable (h : OneLate s p ra) (ha : s.plain ra) (hb : s.plain rb) (hd : s.plain rd) (hda : rd ≠ ra)
include h ha hb hd hda

/-- The readiness of an instruction that reads `ra` and another register: of its operands `ra` alone is late. -/
theorem readyM_oneLate {len : Nat} : readyM [ra, rb] [] [rd] [] (s.at len) =
    if s.me.cr.sbchk.getLsbD 0 then .error (.trap cSTALLCHK (BitVec.ofNat 64 ra.toNat)) else .ok ((), s.at len) := by
  have hloc {r : BitVec 5} (hr : s.plain r) : (s.me.begin len).locOf r = if r = 0 then [] else [.w (s.me.regOff r.toNat)] :=
    locOf_plain (c := s.me.begin len) hr
  have hlocA : (s.me.begin len).locOf ra = [.w (s.me.regOff ra.toNat)] := by rw [hloc ha, if_neg h.nonzero]
  have hlocB : ((s.me.begin len).locOf rb).any Loc.isStream = false := by rw [hloc hb]; split <;> rfl
  have hlocD : p.loc ∉ (s.me.begin len).locOf rd := by
    rw [hloc hd]
    split
    · exact List.not_mem_nil
    · exact fun hmem => h.loc_ne hda (List.mem_singleton.1 hmem)
  have hfind : ((s.me.begin len).locOf ra ++ (s.me.begin len).locOf rb).find? (fun l => ((s.me.begin len).late l).isSome) =
      some (.w (s.me.regOff ra.toNat)) := by
    rw [hlocA]
    exact List.find?_cons_of_pos (by rw [late_same (c := s.me.begin len) h.pend h.late h.loc]; rfl)
  have htval : (s.me.begin len).stallTval (.w (s.me.regOff ra.toNat)) = BitVec.ofNat 64 ra.toNat := by
    have hnum : (s.me.regOff ra.toNat - s.me.regOff 0) / 8 % 32 = ra.toNat := by
      rw [Core.regOff, Core.regOff]
      omega
    exact congrArg (BitVec.ofNat 64) hnum
  have hready := readyLocsM_late (c := s.me.begin len) (reads := (s.me.begin len).locOf ra ++ (s.me.begin len).locOf rb)
    h.pend h.late h.vpend h.lost h.sfu (by rw [hlocA]; exact hlocB) hlocD
  simp only [readyM, M.bind_run, M.getC_run, State.at_me, List.flatMap_cons, List.flatMap_nil, List.append_nil]
  refine hready.trans ?_
  rw [hfind]
  cases hchk : s.me.cr.sbchk.getLsbD 0 with
  | false => rw [Core.begin_cr, hchk]; rfl
  | true =>
    rw [Core.begin_cr, hchk, if_pos rfl, if_pos rfl, ← htval]

/-- With CHK set, ADD traps STALLCHK (R132). -/
theorem exec_add_stallchk (w : BitVec 1) (hchk : s.me.cr.sbchk.getLsbD 0 = true) :
    exec (.add 0 w rb ra rd stl) s = .next (s.takeTrap s.cur 2 (BitVec.ofNat 64 ra.toNat)) := by
  show execAdd 0 w rb ra rd stl s = _
  refine issue_trap ?_
  have hready := readyM_oneLate h ha hb hd hda (len := 4)
  rw [hchk, if_pos rfl] at hready
  show (aluM _ 0 rb ra rd 1 (addRes w)) (s.at 4) = _
  simp only [aluM, M.bind_run, show opbRegs 0 rb = [rb] from rfl, hready]
  rfl

/-- Without CHK, ADD reads the old value (R131, R132). -/
theorem exec_add_late (w : BitVec 1) (hchk : s.me.cr.sbchk.getLsbD 0 = false) (hba : rb ≠ ra) (hw : s.mayWrite rd) :
    exec (.add 0 w rb ra rd stl) s = .next (s.wrote 4 stl rd (addRes w p.old (s.me.reg rb.toNat)) 1) := by
  show execAdd 0 w rb ra rd stl s = _
  refine issue_after (u := ()) ?_
  have hready := readyM_oneLate h ha hb hd hda (len := 4)
  rw [hchk, if_neg (by decide)] at hready
  have hsrcA : src ra (s.at 4) = .ok (p.old, s.at 4) := by
    rw [src_plain (plain_at ha), State.at_me, seen_late (c := s.me.begin 4) h.pend h.late (by simpa [BitVec.toNat_eq] using h.nonzero) h.loc]
  have hsrcB : src rb (s.at 4) = .ok (s.me.reg rb.toNat, s.at 4) := by
    rw [src_plain (plain_at hb), State.at_me, seen_other (c := s.me.begin 4) h.pend (h.loc_ne hba)]
    rfl
  have hopb (bits : Word) : opb 0 rb bits (s.at 4) = .ok (s.me.reg rb.toNat, s.at 4) := hsrcB
  simp only [aluM, M.bind_run, show opbRegs 0 rb = [rb] from rfl, hready, hsrcA, hopb, put_at _ _ hw]

end AddLate

/-! ### A write of a live-in register (R219) -/

section LiveIn

variable {s : State} {ra rd : BitVec 5} {len : Nat} {stl : BitVec 2} (hd : s.plain rd) (hcheck : s.me.idemOn = true)
  (hlive : s.me.imask.getLsbD rd.toNat = true)
include hd hcheck hlive

theorem put_liveIn (v : Word) (lat : Nat) : put rd v lat (s.at len) = .error (.trap cIDEMVIOL (BitVec.ofNat 64 rd.toNat)) := by
  have hbound : (s.at len).me.boundTo rd.toNat = none := plain_at hd
  have hon : (s.at len).me.idemOn = true := by rw [State.at_me]; exact hcheck
  have himask : (s.at len).me.imask.getLsbD rd.toNat = true := by rw [State.at_me]; exact hlive
  simp only [put, putWith, M.bind_run, M.getC_run, hbound, hon, himask, Bool.and_self, Bool.not_true, M.need_false]

variable (h : Quiet s) (ha : s.plain ra)
include h ha

theorem aluM_liveIn (bits : Word) {k : BitVec 1} {rb : BitVec 5} (hb : s.hasB k rb) (lat : Nat) (f : Word → Word → Word) :
    issue len stl (aluM bits k rb ra rd lat f) s = .next (s.takeTrap s.cur 4 (BitVec.ofNat 64 rd.toNat)) := by
  refine issue_trap ?_
  simp only [aluM, M.bind_run, readyM_at h, src_at h ha, opb_at h hb, put_liveIn hd hcheck hlive]
  rfl

theorem unaryM_liveIn (lat : Nat) (f : Word → Word) :
    issue len stl (unaryM ra rd lat f) s = .next (s.takeTrap s.cur 4 (BitVec.ofNat 64 rd.toNat)) := by
  refine issue_trap ?_
  simp only [unaryM, M.bind_run, readyM_at h, src_at h ha, put_liveIn hd hcheck hlive]
  rfl

end LiveIn

/-! ### O9 -/

/-- Settles O9: the late operand by the readiness check, the live-in register by the check of the result's write. -/
theorem registerChecks : Obligations.RegisterChecks := by
  refine ⟨fun s k w rb ra rd stl p hpend hvpend hlost hsfu hloc hnonzero hda hba hk hlate ha hb hw => ?_,
    fun s k w rb ra rd stl i12 h ha hb hd hthread hchk hlive => ?_⟩
  · have h : OneLate s p ra := ⟨hpend, hvpend, hlost, hsfu, hloc, hlate, hnonzero⟩
    subst hk
    refine ⟨exec_add_stallchk h ha hb hw.1 hda w, fun hchk => ?_⟩
    rw [exec_add_late h ha hb hw.1 hda w hchk hba hw, addRes_eq]
  · have hon : s.me.idemOn = true := by rw [Core.idemOn, hchk, hthread]; rfl
    exact ⟨aluM_liveIn hd hon hlive h ha _ hb 1 _, aluM_liveIn hd hon hlive h ha _ hb 3 _, unaryM_liveIn hd hon hlive h ha 1 _,
      unaryM_liveIn hd hon hlive h ha 1 _⟩

end Sys2Proof.Machine

namespace Sys2Proof.Machine
open Host

/-! ### A context block as a layout of bytes (R127, R128) -/

/-- Byte strings written in their order, each at its offset from `o`. -/
def Memory.writeAll (m : Memory) (o : Nat) (ps : List (Nat × List Byte)) : Memory := ps.foldl (fun m p => m.write (o + p.1) p.2) m

/-- Byte strings that lie one behind the other between two offsets. -/
def LaidOut (lo : Nat) (ps : List (Nat × List Byte)) (hi : Nat) : Prop :=
  match ps with
  | [] => lo ≤ hi
  | p :: r => lo ≤ p.1 ∧ LaidOut (p.1 + p.2.length) r hi

/-- A doubleword of a layout. -/
def wordAt (x : Nat) (v : Word) : Nat × List Byte := (x, leBytes 8 v.toNat)

theorem Memory.writeAll_cons (m : Memory) (o : Nat) (p : Nat × List Byte) (ps : List (Nat × List Byte)) :
    m.writeAll o (p :: ps) = (m.write (o + p.1) p.2).writeAll o ps := rfl

theorem Memory.writeAll_nil (m : Memory) (o : Nat) : m.writeAll o [] = m := rfl

theorem LaidOut.le {lo hi : Nat} {ps : List (Nat × List Byte)} (h : LaidOut lo ps hi) : lo ≤ hi := by
  induction ps generalizing lo with
  | nil => exact h
  | cons p r ih =>
    obtain ⟨hlo, hr⟩ := h
    exact hlo.trans ((Nat.le_add_right _ _).trans (ih hr))

theorem Memory.byte_writeAll_other (m : Memory) (o : Nat) {lo hi : Nat} {ps : List (Nat × List Byte)} (h : LaidOut lo ps hi) {a : Nat}
    (ha : a < o + lo ∨ o + hi ≤ a) : (m.writeAll o ps).byte a = m.byte a := by
  induction ps generalizing m lo with
  | nil => rfl
  | cons p r ih =>
    obtain ⟨hlo, hr⟩ := h
    have hle := hr.le
    refine (ih (m.write (o + p.1) p.2) hr (by omega)).trans ?_
    rw [Memory.byte_write_eq, Memory.byte_setBytes_other _ _ _ (by omega)]

theorem Memory.read_writeAll {m : Memory} (hm : m.wf = true) (o : Nat) {lo hi : Nat} {ps : List (Nat × List Byte)} (h : LaidOut lo ps hi)
    {p : Nat × List Byte} (hp : p ∈ ps) : (m.writeAll o ps).read (o + p.1) p.2.length = p.2 := by
  induction ps generalizing m lo with
  | nil => cases hp
  | cons q r ih =>
    obtain ⟨-, hr⟩ := h
    cases hp with
    | tail _ hp => exact ih (Memory.wf_write hm _ _) hr hp
    | head =>
      have hafter : ((m.write (o + p.1) p.2).writeAll o r).read (o + p.1) p.2.length = (m.write (o + p.1) p.2).read (o + p.1) p.2.length :=
        spanOf_congr _ fun i hi => Memory.byte_writeAll_other _ _ hr (by omega)
      exact hafter.trans (Memory.read_write_same hm _ _)

theorem Memory.word_writeAll {m : Memory} (hm : m.wf = true) (o : Nat) {lo hi : Nat} {ps : List (Nat × List Byte)} (h : LaidOut lo ps hi)
    {x : Nat} {v : Word} (hp : wordAt x v ∈ ps) : (m.writeAll o ps).word (o + x) = v := by
  have hread := Memory.read_writeAll hm o h hp
  rw [wordAt, length_leBytes] at hread
  rw [Memory.word, hread, leNat_leBytes]
  exact BitVec.eq_of_toNat_eq (by rw [BitVec.toNat_ofNat]; omega)

theorem Memory.word_congr {m m' : Memory} {x : Nat} (h : ∀ i < 8, m.byte (x + i) = m'.byte (x + i)) : m.word x = m'.word x := by
  rw [Memory.word, Memory.word, Memory.read, Memory.read, spanOf_congr 8 h]

/-- The fields of a block, in the order of R127's table. -/
def Core.blockParts (c : Core) (pc ient : BitVec 53) (imask : BitVec 32) (ipc : Nat) : List (Nat × List Byte) :=
  [wordAt 0 c.cr.wp, wordAt 8 (pc.setWidth 64), wordAt 0x10 (predWord c.preds), wordAt 0x18 (BitVec.ofNat 64 (c.req + c.grant * 2 ^ 16))] ++
  ([0, 1, 2, 3].flatMap fun i =>
    [wordAt (0x20 + 32 * i) ((c.gen i).addr.setWidth 64), wordAt (0x28 + 32 * i) (c.gen i).stride, wordAt (0x30 + 32 * i) (c.gen i).ctlWord,
     wordAt (0x38 + 32 * i) 0]) ++
  [(0xA0, spanOf (tget 0 c.vtags) 0 32), (0xC0, spanOf (tget 0 c.atags) 0 4)] ++
  (c.cr.crs.zipIdx.map fun e => wordAt (0xC8 + 8 * e.2) e.1) ++
  [wordAt 0x108 (ient.setWidth 64), wordAt 0x110 (BitVec.ofNat 64 (imask.toNat + ipc * 2 ^ 32))]

section Block

variable (c : Core) (o : Nat) (pc ient : BitVec 53) (imask : BitVec 32) (ipc : Nat)

/-- Saving a block writes its fields. -/
theorem saveBlock_arr : (c.saveBlock o pc ient imask ipc).arr = c.arr.writeAll o (c.blockParts pc ient imask ipc) := by
  simp only [Core.saveBlock, Core.blockParts, Ctl.crs, wordAt, Memory.setWord, List.zipIdx_cons, List.zipIdx_nil, List.foldl_cons,
    List.foldl_nil, List.map_cons, List.map_nil, List.flatMap_cons, List.flatMap_nil, List.cons_append, List.nil_append,
    Memory.writeAll_cons, Memory.writeAll_nil, Nat.add_assoc, Nat.reduceMul, Nat.reduceAdd, Nat.add_zero]

theorem laidOut_blockParts : LaidOut 0 (c.blockParts pc ient imask ipc) 0x118 := by
  simp [LaidOut, Core.blockParts, wordAt, Ctl.crs]

theorem byte_saveBlock_other {a : Nat} (h : a < o ∨ o + 0x118 ≤ a) : (c.saveBlock o pc ient imask ipc).arr.byte a = c.arr.byte a :=
  Memory.byte_writeAll_other _ o (laidOut_blockParts c pc ient imask ipc) h

theorem word_saveBlock_other {x : Nat} (h : x + 8 ≤ o ∨ o + 0x118 ≤ x) : (c.saveBlock o pc ient imask ipc).arr.word x = c.arr.word x :=
  Memory.word_congr fun _ _ => byte_saveBlock_other c o pc ient imask ipc (by omega)

variable {c}

theorem word_saveBlock (hm : c.arr.wf = true) {x : Nat} {v : Word} (h : wordAt x v ∈ c.blockParts pc ient imask ipc) :
    (c.saveBlock o pc ient imask ipc).arr.word (o + x) = v :=
  Memory.word_writeAll hm o (laidOut_blockParts c pc ient imask ipc) h

theorem word_saveBlock_wp (hm : c.arr.wf = true) : (c.saveBlock o pc ient imask ipc).arr.word o = c.cr.wp :=
  word_saveBlock o pc ient imask ipc hm (x := 0) (by simp [Core.blockParts])

theorem word_saveBlock_pc (hm : c.arr.wf = true) : (c.saveBlock o pc ient imask ipc).arr.word (o + 8) = pc.setWidth 64 :=
  word_saveBlock o pc ient imask ipc hm (by simp [Core.blockParts])

theorem word_saveBlock_preds (hm : c.arr.wf = true) : (c.saveBlock o pc ient imask ipc).arr.word (o + 0x10) = predWord c.preds :=
  word_saveBlock o pc ient imask ipc hm (by simp [Core.blockParts])

theorem word_saveBlock_ient (hm : c.arr.wf = true) : (c.saveBlock o pc ient imask ipc).arr.word (o + 0x108) = ient.setWidth 64 :=
  word_saveBlock o pc ient imask ipc hm (by simp [Core.blockParts])

/-- The CRS field holds the control registers in its order. -/
theorem crsAt_saveBlock (hm : c.arr.wf = true) : Spec.crsAt (c.saveBlock o pc ient imask ipc).arr o = c.cr.crs := by
  have hcrs {i : Nat} {v : Word} (h : (v, i) ∈ c.cr.crs.zipIdx) : (c.saveBlock o pc ient imask ipc).arr.word (o + 0xC8 + 8 * i) = v := by
    rw [Nat.add_assoc]
    exact word_saveBlock o pc ient imask ipc hm (List.mem_append_left _ (List.mem_append_right _ (List.mem_map_of_mem h)))
  have hlen : c.cr.crs.length = 8 := rfl
  refine List.ext_getElem (by simp [Spec.crsAt, hlen]) fun i hi hi' => ?_
  simp only [Spec.crsAt, List.getElem_map, List.getElem_range]
  exact hcrs (List.mk_mem_zipIdx_iff_getElem?.2 (List.getElem?_eq_getElem hi'))

end Block

/-! ### Entering the handler (R370) -/

theorem cur_unopen (s : State) (k : Nat) : (s.unopen k).cur = s.cur := by
  unfold State.unopen State.closePacket
  split
  · split <;> rfl
  · rfl

/-- No packet waits with its first word. -/
theorem unopen_of_packet {s : State} {k : Nat} (h : ∀ d, (s.core k).packet ≠ some (d, 0)) : s.unopen k = s := by
  unfold State.unopen
  split
  · next heq => exact absurd heq (h _)
  · rfl

theorem Quiet.sfuBusy_eq_false {s : State} (h : Quiet s) : s.sfuBusy s.cur = false := by
  simp only [State.sfuBusy, List.any_eq_false, beq_iff_eq]
  exact h.sfu

/-- A trap other than POISON repeats no step (R399). -/
theorem rollOf_eq_none (s : State) (k : Nat) {code : Nat} (h : code ≠ 8) : s.rollOf k code = none := by
  rw [State.rollOf, Option.filter_eq_none_iff]
  intro g _
  simp [cPOISON, h]

theorem takeTrap_quiet {s : State} (h : Quiet s) {code : Nat} (hcode : code ≠ 8) (tval : Word) :
    s.takeTrap s.cur code tval = s.enterTrap s.cur code tval := by
  have hwaits : s.trapWaits s.cur code = false := by rw [State.trapWaits, h.sfuBusy_eq_false]; rfl
  rw [State.takeTrap, hwaits, rollOf_eq_none s _ hcode]
  rfl

/-- The core as a trap on it is taken, with or without its packet. -/
def Core.atTrap (c : Core) (packet : Option (Word × Nat)) (stop : Option Nat) (code : Nat) (tval : Word) : Core :=
  { c with packet := packet, packetStop := stop }.trapped code tval

/-- With nothing outstanding, a trap enters the handler or escalates (R370). -/
theorem enterTrap_quiet {s : State} (h : Quiet s) (code : Nat) (tval : Word) : ∃ packet stop,
    s.enterTrap s.cur code tval =
      if s.me.escalates then ((s.unopen s.cur).setCore s.cur (s.me.atTrap packet stop code tval)).escalate s.cur code
      else (s.unopen s.cur).setCore s.cur ((s.me.atTrap packet stop code tval).enterHandler s.cur) := by
  obtain ⟨packet, stop, hcore⟩ := core_unopen s s.cur
  have hsettle : ((s.unopen s.cur).core s.cur).settle = { s.me with packet := packet, packetStop := stop } := by
    rw [hcore]
    exact Core.settle_quiet h.pend h.vpend
  refine ⟨packet, stop, ?_⟩
  rw [State.enterTrap, hsettle]
  rfl

/-- A state whose current core alone was set. -/
theorem own_setCore {u : State} {k : Nat} (hk : u.cur = k) (c : Core) : Spec.Own u (u.setCore k c) ∧ (u.setCore k c).me = c := by
  subst hk
  exact ⟨(congrArg (u.setCore u.cur) (u.me_setCore c)).symm, u.me_setCore c⟩

/-- cr.cause holds the context's offset and the code (R369). -/
theorem toNat_causeWord (ctx : Word) {code : Nat} (h : code < 256) : (causeWord ctx code).toNat = ctx.toNat / 512 % 64 * 512 + code := by
  rw [causeWord, fieldNat_eq, BitVec.toNat_ofNat]
  omega

theorem toNat_predWord (p : BitVec 8) : (predWord p).toNat = p.toNat ||| 1 := by
  rw [predWord, BitVec.toNat_setWidth_of_le (by decide), BitVec.toNat_or]
  rfl

/-- The workspace pointer that a block's field gives, a multiple of 256 (R127). -/
theorem toNat_wpField (w : Word) : (BitVec.ofNat 64 (fieldNat w 8 7 * 256)).toNat = w.toNat / 256 % 128 * 256 := by
  rw [fieldNat_eq, BitVec.toNat_ofNat]
  omega

section EnterHandler

variable (c : Core) (k : Nat) (hrange : c.cr.ctx.toNat ≤ 0x7E00)
include hrange

/-- Entering the handler saves the interrupted state in the block at cr.ctx. -/
theorem arr_enterHandler : (c.enterHandler k).arr = (c.saveBlock c.cr.ctx.toNat c.pc c.ient c.imask c.ipc).arr := by
  rw [show (c.enterHandler k).arr = (c.saveBlock (c.cr.ctx.toNat % 0x8000) c.pc c.ient c.imask c.ipc).arr from rfl,
    Nat.mod_eq_of_lt (by omega)]

/-- The handler's own block is not the one that is written. -/
theorem word_enterHandler (hplace : c.cr.ctx.toNat = 0 ∨ 0x4000 ≤ c.cr.ctx.toNat) {x : Nat} (hlow : 0x200 ≤ x) (hhigh : x ≤ 0x3F8) :
    (c.enterHandler k).arr.word x = c.arr.word x := by
  rw [arr_enterHandler c k hrange]
  exact word_saveBlock_other _ _ _ _ _ _ (by omega)

end EnterHandler

/-- A trap that enters the handler (R370). -/
theorem takeTrap_enters {s : State} (h : Spec.TakesTraps s) {code : Nat} (hcode : code ≠ 8) (tval : Word) : ∃ packet stop,
    s.takeTrap s.cur code tval = (s.unopen s.cur).setCore s.cur ((s.me.atTrap packet stop code tval).enterHandler s.cur) := by
  obtain ⟨packet, stop, htrap⟩ := enterTrap_quiet h.quiet code tval
  have hctx : (s.me.cr.ctx == 0x200) = false := by
    rw [beq_eq_false_iff_ne]
    intro heq
    have hplace := h.place
    rw [heq] at hplace
    exact absurd hplace (by decide)
  have hentry : (s.me.handlerPc == 0) = false := beq_eq_false_iff_ne.2 h.entry
  have hesc : s.me.escalates = false := by rw [Core.escalates, Core.inHandler, hctx, h.undo, hentry]; rfl
  exact ⟨packet, stop, by rw [takeTrap_quiet h.quiet hcode, htrap, hesc]; rfl⟩

/-! ### A trap that is not taken (R370, R226) -/

/-- What of a core no store of the device reaches. -/
def Core.unstored (c : Core) : Core := { c with arr := .empty, uoOld := [] }

/-- The states agree on what decides how a firing ends: the effective fields of each region, and each core but for what stores reach. -/
structure EndsAlike (s t : State) : Prop where
  eff : ∀ r, (t.region? r).map Region.eff = (s.region? r).map Region.eff
  core : ∀ k, (t.core k).unstored = (s.core k).unstored

namespace EndsAlike

variable {s t u : State}

theorem refl (s : State) : EndsAlike s s := ⟨fun _ => rfl, fun _ => rfl⟩

theorem trans (h : EndsAlike s t) (h' : EndsAlike t u) : EndsAlike s u :=
  ⟨fun r => (h'.eff r).trans (h.eff r), fun k => (h'.core k).trans (h.core k)⟩

theorem foldl {α : Type} {op : State → α → State} (h : ∀ s a, EndsAlike s (op s a)) (l : List α) (s : State) : EndsAlike s (l.foldl op s) :=
  List.foldlRecOn l op (.refl s) fun t ht a _ => ht.trans (h t a)

theorem undo (h : EndsAlike s t) (k : Nat) : (t.core k).undo = (s.core k).undo := (congrArg Core.undo (h.core k) :)

/-- A firing's class is one of its region's effective fields. -/
theorem classOf (h : EndsAlike s t) (f : Firing) : t.classOf f = s.classOf f :=
  SameTables.classOf (s := s) (t := { s with regions := t.regions }) ⟨rfl, rfl, rfl, rfl, h.eff⟩ f

end EndsAlike

theorem BelowCores.endsAlike {s t : State} (h : BelowCores s t) : EndsAlike s t :=
  ⟨h.eff, fun k => congrArg (fun cs => (tget Core.init cs k).unstored) h.cores⟩

theorem endsAlike_modCore (s : State) (k : Nat) {f : Core → Core} (hf : ∀ c, (f c).unstored = c.unstored) : EndsAlike s (s.modCore k f) := by
  refine ⟨fun _ => rfl, fun j => ?_⟩
  by_cases h : j = k
  · rw [h, State.core_modCore_same, hf]
  · rw [State.core_modCore_other s f h]

theorem endsAlike_modRegion (s : State) (r : Nat) {g : Region → Region} (hid : ∀ x, (g x).id = x.id) (heff : ∀ x, (g x).eff = x.eff) :
    EndsAlike s (s.modRegion r g) := by
  refine ⟨fun n => ?_, fun _ => rfl⟩
  rw [region?_modRegion s r n hid, Option.map_map]
  congr 1
  funext x
  rw [Function.comp_apply]
  split
  · exact heff x
  · rfl

/-! ### Stores of the device and the end of a region -/

theorem endsAlike_devPut (s : State) (k : Nat) (h : Hint) (a : Nat) (bs : List Byte) (fuel : Nat) :
    EndsAlike s (s.devPut k .so h a bs fuel) := by
  induction fuel generalizing s a bs with
  | zero => exact .refl s
  | succ n ih =>
    have hforget : EndsAlike s (s.forgetUo k (a / 128)) := by
      unfold State.forgetUo
      split
      · exact .refl s
      · exact endsAlike_modCore s k fun _ => rfl
    have hline := hforget.trans (belowCores_homeStore (s.forgetUo k (a / 128)) (clusterOf k) a (bs.take (128 - a % 128)) h).endsAlike
    simp only [State.devPut, if_true]
    split
    · exact hline
    · exact hline.trans (ih _ _ _)

theorem endsAlike_homePut (s : State) (p : Place) (bs : List Byte) : EndsAlike s (s.homePut p bs) := by
  unfold State.homePut State.putBytes
  cases p with
  | arr k o => exact endsAlike_modCore s k fun _ => rfl
  | bank n o => exact (belowCores_modCluster s n _).endsAlike
  | dev a => exact endsAlike_devPut s _ _ a bs _
  | host a => exact ((belowCores_captureFrames s _).trans (belowCores_with _ _ _ _ _ _)).endsAlike
  | panel n o => exact (belowCores_modCluster s n _).endsAlike

theorem endsAlike_devWrite (s : State) (space va : Nat) (bs : List Byte) : EndsAlike s (s.devWrite space va bs).1 := by
  have hxlate := (belowCores_xlateDev s space va .store false).endsAlike
  unfold State.devWrite
  split
  · next heq => rwa [heq] at hxlate
  · next heq =>
    rw [heq] at hxlate
    exact hxlate.trans (endsAlike_homePut _ _ _)

theorem endsAlike_modFunc (s : State) (f : Nat) (g : Func → Func) : EndsAlike s (s.modFunc f g) := ⟨fun _ => rfl, fun _ => rfl⟩

theorem endsAlike_raise (s : State) (f v : Nat) : EndsAlike s (s.raise f v) := ⟨fun _ => rfl, fun _ => rfl⟩

theorem endsAlike_postNotice (s : State) (f : Nat) (n : Word × Word) (by_ : Option Nat) : EndsAlike s (s.postNotice f n by_) := by
  unfold State.postNotice
  dsimp only
  split
  · exact (endsAlike_homePut s _ _).trans ((endsAlike_modFunc _ f _).trans (endsAlike_raise _ f _))
  · exact endsAlike_modFunc s f _

theorem endsAlike_putStatus (s : State) (r : Nat) : EndsAlike s (s.putStatus r) := by
  unfold State.putStatus State.devStore8
  split
  · exact .refl s
  · next g _ =>
    have hwrite := endsAlike_devWrite s (g.func * 256 + g.proc) (g.rcb + 0x80)
      (leBytes 8 (g.statusWord 0 0 (if g.state = .active then 1 else 2)).toNat)
    split
    · next heq => rwa [heq] at hwrite
    · next heq =>
      rw [heq] at hwrite
      exact hwrite.trans (endsAlike_postNotice _ _ _ _)

theorem endsAlike_releaseTiles (s : State) (r copy l : Nat) (ids : List Nat) : EndsAlike s (s.releaseTiles r copy l ids) := by
  have hmark (x : Region) (sl : Nat) : ((x.markDirty sl).unsweep copy l).eff = x.eff := by
    unfold Region.markDirty
    split <;> rfl
  unfold State.releaseTiles
  dsimp only
  split
  · exact ⟨fun _ => rfl, fun _ => rfl⟩
  · next g _ =>
    have hregion := endsAlike_modRegion s r (g := fun x => (x.markDirty (s.sliceOf g copy l)).unsweep copy l) (fun x => markDirty_id x _)
      fun x => hmark x _
    exact ⟨hregion.eff, fun _ => rfl⟩

theorem endsAlike_withdrawRegion (s : State) (r : Nat) : EndsAlike s (s.withdrawRegion r) := by
  refine EndsAlike.foldl (fun t o => ?_) _ s
  unfold State.withdraw
  refine EndsAlike.trans ?_ (EndsAlike.foldl (fun u g => endsAlike_releaseTiles u o.region o.copy o.lslice g.tiles) o.groups _)
  split <;> exact ⟨fun _ => rfl, fun _ => rfl⟩

theorem endsAlike_drain (s : State) (r : Nat) : EndsAlike s (s.drain r) := by
  unfold State.drain
  split
  · exact .refl s
  split
  · have hstate := endsAlike_modRegion s r (g := fun x => { x with state := .draining }) (fun _ => rfl) fun _ => rfl
    exact (hstate.trans (endsAlike_putStatus _ r)).trans (endsAlike_withdrawRegion _ r)
  · exact .refl s

/-- A region that faults keeps its effective fields, and no core changes but by stores (R68). -/
theorem endsAlike_faultRegion (s : State) (r : Nat) (d : Word) : EndsAlike s (s.faultRegion r d) := by
  have hfault := endsAlike_modRegion s r (g := fun g => { g with faulted := true, detail := if g.faulted then g.detail else d })
    (fun _ => rfl) fun _ => rfl
  exact hfault.trans (endsAlike_drain _ r)

/-- An aborted firing of no BOOSTED class ends at once (R216). -/
theorem abortFiring_of_class_ne {s : State} {f : Firing} (h : s.classOf f ≠ 2) (k : Nat) : s.abortFiring k f = (s.dropSfu k).dropFiring f :=
  if_neg fun hboosted => h hboosted.1

/-- A trap of a PLAIN firing, or in an undo routine, that is not taken (R370, R226). -/
theorem escalate_eq {s : State} {k : Nat} {f : Firing} (hrun : (s.core k).run = .firing f.id) (hf : s.firing? f.id = some f)
    (hends : s.classOf f = 0 ∨ (s.core k).undo = true) {code : Nat} (hcode : code < 256) :
    s.escalate k code =
      if (s.core k).undo then (s.faultRegion f.region (BitVec.ofNat 64 (32 + code * 2 ^ 32))).dropFiring f
      else ((s.faultRegion f.region (BitVec.ofNat 64 (32 + code * 2 ^ 32))).dropSfu k).dropFiring f := by
  have hfiring : s.firingOf k = some f := by rw [State.firingOf, hrun]; exact hf
  have hdetail : detailWord 32 0 0 code = BitVec.ofNat 64 (32 + code * 2 ^ 32) := by
    rw [detailWord, Nat.mod_eq_of_lt (show code < 2 ^ 32 by omega)]
    rfl
  have halike := endsAlike_faultRegion s f.region (BitVec.ofNat 64 (32 + code * 2 ^ 32))
  simp only [State.escalate, hrun, hfiring, hdetail, halike.undo]
  cases hundo : (s.core k).undo with
  | true => rfl
  | false =>
    have hclass : s.classOf f = 0 := hends.resolve_right (by simp [hundo])
    exact abortFiring_of_class_ne (by rw [halike.classOf, hclass]; decide) k

/-- A trap that the handler does not take (R370). -/
theorem takeTrap_escalates {s : State} (h : Quiet s) (hesc : s.me.escalates = true) {code : Nat} (hcode : code ≠ 8) (tval : Word) :
    ∃ packet stop, s.takeTrap s.cur code tval =
      ((s.unopen s.cur).setCore s.cur (s.me.atTrap packet stop code tval)).escalate s.cur code := by
  obtain ⟨packet, stop, htrap⟩ := enterTrap_quiet h code tval
  exact ⟨packet, stop, by rw [takeTrap_quiet h hcode, htrap, hesc]; rfl⟩

/-! ### O10 -/

/-- Settles O10: the handler is entered over the block at cr.ctx, which its own block does not overlap; a trap that is not taken faults the
region in a state that differs in its own core alone. -/
theorem trapEntry : Obligations.TrapEntry := by
  refine ⟨fun s code tval h hcode hpoison => ?_, fun s code tval f g hquiet hpoison hcode hrun hf hg hclass hesc => ?_⟩
  · intro o t
    obtain ⟨packet, stop, htrap⟩ := takeTrap_enters h hpoison tval
    let c := s.me.atTrap packet stop code tval
    let d := c.enterHandler s.cur
    obtain ⟨hown, hme⟩ := own_setCore (cur_unopen s s.cur) d
    rw [← htrap] at hown hme
    have harr : d.arr = (c.saveBlock o c.pc c.ient c.imask c.ipc).arr := arr_enterHandler c s.cur h.range
    have hwf : c.arr.wf = true := h.arr
    have hhandler {x : Nat} (hlow : 0x200 ≤ x) (hhigh : x ≤ 0x3F8) : s.me.arr.word x = d.arr.word x :=
      (word_enterHandler c s.cur h.range h.place hlow hhigh).symm
    have hcause : d.cr.cause.toNat = o + code := by
      have hctx := h.ctx
      have hrange := h.range
      refine (toNat_causeWord s.me.cr.ctx hcode).trans ?_
      omega
    rw [show t.me = d from hme, hhandler (x := 0x200) (by decide) (by decide), hhandler (x := 0x208) (by decide) (by decide),
      hhandler (x := 0x210) (by decide) (by decide), hhandler (x := 0x2C8) (by decide) (by decide),
      hhandler (x := 0x2D0) (by decide) (by decide), hhandler (x := 0x2D8) (by decide) (by decide),
      hhandler (x := 0x2E0) (by decide) (by decide)]
    refine ⟨hown, fun hpacket => by rwa [unopen_of_packet hpacket] at hown, rfl, hcause, rfl, rfl, rfl, rfl, toNat_wpField _, rfl, rfl, rfl,
      rfl, ?_⟩
    rw [harr]
    exact ⟨word_saveBlock_wp o _ _ _ _ hwf, word_saveBlock_pc o _ _ _ _ hwf,
      (congrArg BitVec.toNat (word_saveBlock_preds o _ _ _ _ hwf)).trans (toNat_predWord _), crsAt_saveBlock o _ _ _ _ hwf,
      word_saveBlock_ient o _ _ _ _ hwf, fun a ha => byte_saveBlock_other c o _ _ _ _ ha⟩
  · have hescalates : s.me.escalates = true := by
      have hpc : s.me.undo = true ∨ s.me.cr.ctx = 0x200 ∨ s.me.handlerPc = 0 := hesc
      simp only [Core.escalates, Core.inHandler, Bool.or_eq_true, beq_iff_eq]
      tauto
    obtain ⟨packet, stop, htrap⟩ := takeTrap_escalates hquiet hescalates hpoison tval
    let c := s.me.atTrap packet stop code tval
    let u := (s.unopen s.cur).setCore s.cur c
    obtain ⟨hown, hme⟩ := own_setCore (cur_unopen s s.cur) c
    have hcore : u.core s.cur = c := State.core_setCore_same _ _ _
    have htables : SameTables s u := (sameTables_unopen s s.cur).trans (sameTables_modCore _ s.cur fun _ => c)
    have hends : u.classOf f = 0 ∨ s.me.undo = true := by
      refine hclass.imp_left fun hplain => ?_
      rw [htables.classOf, State.classOf, hg]
      exact hplain
    have hend := escalate_eq (s := u) (k := s.cur) (by rw [hcore]; exact hrun) ((htables.firing? f.id).trans hf)
      (by rw [hcore]; exact hends) hcode
    refine ⟨u, hown, ?_⟩
    rw [hme, htrap, hend, hcore]
    exact ⟨rfl, rfl, toNat_causeWord _ hcode, rfl⟩

end Sys2Proof.Machine

/-! The encoding (spec/08_encoding.md R135 to R154). Each instruction's word is written as the fields that it consists of, from bit 0
upwards: the sum that `encode` gives is the number that those fields make, and `decode` answers an instruction exactly where its fields
stand. -/

namespace Sys2Proof.Encoding
open Machine

/-! ### Fields of a number -/

theorem toNat_fld (w lo n : Nat) : (fld w lo n).toNat = w / 2 ^ lo % 2 ^ n := by simp [fld]

theorem fld_eq_iff {w lo n : Nat} {v : BitVec n} : fld w lo n = v ↔ w / 2 ^ lo % 2 ^ n = v.toNat := by
  rw [← toNat_fld, BitVec.toNat_inj]

theorem bitsAre_eq (w lo n v : Nat) : bitsAre w lo n v = ((fld w lo n).toNat == v) := by rw [toNat_fld, bitsAre]

/-- What the decoders select by is a field. -/
theorem div_eq_fld (w : Nat) :
    w / 2 % 16 = (fld w 1 4).toNat ∧ w / 32 % 4 = (fld w 5 2).toNat ∧ w / 4096 % 4 = (fld w 12 2).toNat ∧
    w / 131072 % 8 = (fld w 17 3).toNat ∧ w / 4194304 % 16 = (fld w 22 4).toNat ∧ w / 4194304 % 32 = (fld w 22 5).toNat ∧
    w / 4194304 % 64 = (fld w 22 6).toNat ∧ w / 16777216 % 4 = (fld w 24 2).toNat ∧ w / 2147483648 % 2 = (fld w 31 1).toNat := by
  simp only [toNat_fld, Nat.reducePow, and_self]

/-- The bits of a field from its bit `m` upwards. -/
theorem fld_add (w lo m n : Nat) : fld w (lo + m) n = (fld w lo (m + n)).extractLsb' m n := by
  apply BitVec.eq_of_toNat_eq
  rw [BitVec.extractLsb'_toNat, toNat_fld, toNat_fld, Nat.shiftRight_eq_div_pow, Nat.pow_add 2 m n, Nat.mod_mul_right_div_self,
    Nat.div_div_eq_div_mul, ← Nat.pow_add, Nat.mod_mod]

theorem fld_31_of_29 {w : Nat} (h : fld w 29 3 = 4) : fld w 31 1 = 1 := by rw [fld_add w 29 2 1, h]; rfl
theorem fld_31_of_30 {w : Nat} (h : fld w 30 2 = 2) : fld w 31 1 = 1 := by rw [fld_add w 30 1 1, h]; rfl
theorem fld_28_of_27 {w : Nat} (h : fld w 27 5 = 2) : fld w 28 4 = 1 := by rw [fld_add w 27 1 4, h]; rfl

theorem mod_two_of_fld {w : Nat} {v : BitVec 1} (h : fld w 0 1 = v) : w % 2 = v.toNat := by
  rw [fld_eq_iff, pow_zero, Nat.div_one] at h
  exact h

/-! ### A number as its fields -/

/-- A field: its width and its value. -/
abbrev Field := (n : Nat) × BitVec n

/-- The number whose fields, from bit 0 upwards, are `l`. -/
def pack : List Field → Nat
  | [] => 0
  | f :: r => f.2.toNat + 2 ^ f.1 * pack r

/-- From bit `lo` upwards, `w` holds the fields `l`, and nothing above them. -/
def Reads (w : Nat) : Nat → List Field → Prop
  | lo, [] => w / 2 ^ lo = 0
  | lo, f :: r => fld w lo f.1 = f.2 ∧ Reads w (lo + f.1) r

theorem reads_iff (w : Nat) (l : List Field) (lo : Nat) : Reads w lo l ↔ w / 2 ^ lo = pack l := by
  induction l generalizing lo with
  | nil => rfl
  | cons f r ih =>
    rw [Reads, ih, pack, Nat.pow_add, ← Nat.div_div_eq_div_mul, fld_eq_iff]
    have hlt := f.2.isLt
    constructor
    · rintro ⟨hlow, hhigh⟩
      rw [← hlow, ← hhigh, Nat.mod_add_div]
    · intro h
      rw [h, Nat.add_mul_mod_self_left, Nat.mod_eq_of_lt hlt, Nat.add_mul_div_left _ _ (Nat.two_pow_pos _), Nat.div_eq_of_lt hlt,
        Nat.zero_add]
      exact ⟨rfl, rfl⟩

theorem reads_pack (l : List Field) : Reads (pack l) 0 l := (reads_iff _ _ _).mpr (Nat.div_one _)

theorem eq_pack_of_reads {w : Nat} {l : List Field} (h : Reads w 0 l) : w = pack l :=
  (Nat.div_one w).symm.trans ((reads_iff _ _ _).mp h)

/-! ### The forms of an instruction -/

/-- The fields of a compact instruction, of a 32-bit instruction, or of one that a literal word follows (R135). -/
inductive Form where
  | half (fields : List Field)
  | word (fields : List Field)
  | long (fields : List Field) (lit : BitVec 32)

/-- The fields that every 32-bit instruction has below its payload (R138). -/
def head (maj : BitVec 4) (stl : BitVec 2) (payload : List Field) : List Field := ⟨1, 1⟩ :: ⟨4, maj⟩ :: ⟨2, stl⟩ :: payload

/-- R format of ALU, with a register or constant (R139). -/
def alu (fn : BitVec 6) (k w : BitVec 1) (rb ra rd : BitVec 5) (stl : BitVec 2) : List Field :=
  head 0 stl [⟨5, rd⟩, ⟨5, ra⟩, ⟨5, rb⟩, ⟨6, fn⟩, ⟨1, w⟩, ⟨1, 0⟩, ⟨1, k⟩, ⟨1, 0⟩]

/-- R format of ALU, with a literal: L is 1, and RB, K and the high bit of W are 0 (R139). -/
def aluL (fn : BitVec 6) (w : BitVec 1) (ra rd : BitVec 5) (stl : BitVec 2) : List Field :=
  head 0 stl [⟨5, rd⟩, ⟨5, ra⟩, ⟨5, 0⟩, ⟨6, fn⟩, ⟨1, w⟩, ⟨3, 4⟩]

/-- I format (R140). -/
def alui (fn : BitVec 3) (imm : BitVec 12) (ra rd : BitVec 5) (stl : BitVec 2) : List Field :=
  head 1 stl [⟨5, rd⟩, ⟨5, ra⟩, ⟨3, fn⟩, ⟨12, imm⟩]

/-- B format (R142). -/
def br (cnd : BitVec 3) (off : BitVec 12) (rb ra : BitVec 5) (stl : BitVec 2) : List Field :=
  head 3 stl [⟨5, ra⟩, ⟨5, rb⟩, ⟨3, cnd⟩, ⟨12, off⟩]

/-- R format of FPS, with a register or constant (R139). -/
def fps (fn : BitVec 6) (k : BitVec 1) (w : BitVec 2) (rb ra rd : BitVec 5) (stl : BitVec 2) : List Field :=
  head 6 stl [⟨5, rd⟩, ⟨5, ra⟩, ⟨5, rb⟩, ⟨6, fn⟩, ⟨2, w⟩, ⟨1, k⟩, ⟨1, 0⟩]

/-- R format of FPS, with a literal: L is 1, and RB and K are 0 (R139). -/
def fpsL (fn : BitVec 6) (w : BitVec 2) (ra rd : BitVec 5) (stl : BitVec 2) : List Field :=
  head 6 stl [⟨5, rd⟩, ⟨5, ra⟩, ⟨5, 0⟩, ⟨6, fn⟩, ⟨2, w⟩, ⟨2, 2⟩]

/-- The special functions of FPS: W is FP32, and RB, L and K are 0 (R153). -/
def sfu (fn : BitVec 6) (ra rd : BitVec 5) (stl : BitVec 2) : List Field :=
  head 6 stl [⟨5, rd⟩, ⟨5, ra⟩, ⟨5, 0⟩, ⟨6, fn⟩, ⟨4, 1⟩]

/-- V format of VA (R145). -/
def va (fn : BitVec 6) (s : BitVec 1) (mk : BitVec 3) (rb ra rd : BitVec 5) (stl : BitVec 2) : List Field :=
  head 7 stl [⟨5, rd⟩, ⟨5, ra⟩, ⟨5, rb⟩, ⟨6, fn⟩, ⟨3, mk⟩, ⟨1, s⟩]

/-- V format of VM (R145). -/
def vm (fn : BitVec 6) (s : BitVec 1) (mk : BitVec 3) (rb ra rd : BitVec 5) (stl : BitVec 2) : List Field :=
  head 8 stl [⟨5, rd⟩, ⟨5, ra⟩, ⟨5, rb⟩, ⟨6, fn⟩, ⟨3, mk⟩, ⟨1, s⟩]

/-- A format (R146). -/
def atom (fn : BitVec 4) (noRet : BitVec 1) (ty rb ra rd : BitVec 5) (stl : BitVec 2) : List Field :=
  head 11 stl [⟨5, rd⟩, ⟨5, ra⟩, ⟨5, rb⟩, ⟨4, fn⟩, ⟨5, ty⟩, ⟨1, noRet⟩]

/-- X format (R147). -/
def xf (maj : BitVec 4) (fn md rb ra rd : BitVec 5) (stl : BitVec 2) : List Field :=
  head maj stl [⟨5, rd⟩, ⟨5, ra⟩, ⟨5, rb⟩, ⟨5, fn⟩, ⟨5, md⟩]

/-- The form of each instruction (R138 to R153); a device step has none. -/
def form : Instr → Option Form
  | .add k w rb ra rd stl => some (.word (alu 0 k w rb ra rd stl))
  | .addL w ra rd stl lit => some (.long (aluL 0 w ra rd stl) lit)
  | .sub k w rb ra rd stl => some (.word (alu 1 k w rb ra rd stl))
  | .subL w ra rd stl lit => some (.long (aluL 1 w ra rd stl) lit)
  | .and k w rb ra rd stl => some (.word (alu 2 k w rb ra rd stl))
  | .andL w ra rd stl lit => some (.long (aluL 2 w ra rd stl) lit)
  | .or k w rb ra rd stl => some (.word (alu 3 k w rb ra rd stl))
  | .orL w ra rd stl lit => some (.long (aluL 3 w ra rd stl) lit)
  | .xor k w rb ra rd stl => some (.word (alu 4 k w rb ra rd stl))
  | .xorL w ra rd stl lit => some (.long (aluL 4 w ra rd stl) lit)
  | .andn k w rb ra rd stl => some (.word (alu 5 k w rb ra rd stl))
  | .andnL w ra rd stl lit => some (.long (aluL 5 w ra rd stl) lit)
  | .sll k w rb ra rd stl => some (.word (alu 6 k w rb ra rd stl))
  | .sllL w ra rd stl lit => some (.long (aluL 6 w ra rd stl) lit)
  | .srl k w rb ra rd stl => some (.word (alu 7 k w rb ra rd stl))
  | .srlL w ra rd stl lit => some (.long (aluL 7 w ra rd stl) lit)
  | .sra k w rb ra rd stl => some (.word (alu 8 k w rb ra rd stl))
  | .sraL w ra rd stl lit => some (.long (aluL 8 w ra rd stl) lit)
  | .ror k w rb ra rd stl => some (.word (alu 9 k w rb ra rd stl))
  | .rorL w ra rd stl lit => some (.long (aluL 9 w ra rd stl) lit)
  | .mul k w rb ra rd stl => some (.word (alu 10 k w rb ra rd stl))
  | .mulL w ra rd stl lit => some (.long (aluL 10 w ra rd stl) lit)
  | .mulh k w rb ra rd stl => some (.word (alu 11 k w rb ra rd stl))
  | .mulhL w ra rd stl lit => some (.long (aluL 11 w ra rd stl) lit)
  | .mulhu k w rb ra rd stl => some (.word (alu 12 k w rb ra rd stl))
  | .mulhuL w ra rd stl lit => some (.long (aluL 12 w ra rd stl) lit)
  | .div k w rb ra rd stl => some (.word (alu 13 k w rb ra rd stl))
  | .divL w ra rd stl lit => some (.long (aluL 13 w ra rd stl) lit)
  | .divu k w rb ra rd stl => some (.word (alu 14 k w rb ra rd stl))
  | .divuL w ra rd stl lit => some (.long (aluL 14 w ra rd stl) lit)
  | .rem k w rb ra rd stl => some (.word (alu 15 k w rb ra rd stl))
  | .remL w ra rd stl lit => some (.long (aluL 15 w ra rd stl) lit)
  | .remu k w rb ra rd stl => some (.word (alu 16 k w rb ra rd stl))
  | .remuL w ra rd stl lit => some (.long (aluL 16 w ra rd stl) lit)
  | .min k w rb ra rd stl => some (.word (alu 17 k w rb ra rd stl))
  | .minL w ra rd stl lit => some (.long (aluL 17 w ra rd stl) lit)
  | .max k w rb ra rd stl => some (.word (alu 18 k w rb ra rd stl))
  | .maxL w ra rd stl lit => some (.long (aluL 18 w ra rd stl) lit)
  | .minu k w rb ra rd stl => some (.word (alu 19 k w rb ra rd stl))
  | .minuL w ra rd stl lit => some (.long (aluL 19 w ra rd stl) lit)
  | .maxu k w rb ra rd stl => some (.word (alu 20 k w rb ra rd stl))
  | .maxuL w ra rd stl lit => some (.long (aluL 20 w ra rd stl) lit)
  | .clz w ra rd stl => some (.word (head 0 stl [⟨5, rd⟩, ⟨5, ra⟩, ⟨5, 0⟩, ⟨6, 21⟩, ⟨1, w⟩, ⟨3, 0⟩]))
  | .ctz w ra rd stl => some (.word (head 0 stl [⟨5, rd⟩, ⟨5, ra⟩, ⟨5, 0⟩, ⟨6, 22⟩, ⟨1, w⟩, ⟨3, 0⟩]))
  | .popc w ra rd stl => some (.word (head 0 stl [⟨5, rd⟩, ⟨5, ra⟩, ⟨5, 0⟩, ⟨6, 23⟩, ⟨1, w⟩, ⟨3, 0⟩]))
  | .sel ps rb ra rd stl => some (.word (head 0 stl [⟨5, rd⟩, ⟨5, ra⟩, ⟨5, rb⟩, ⟨6, 24⟩, ⟨3, ps⟩, ⟨1, 0⟩]))
  | .selL ps ra rd stl lit => some (.long (head 0 stl [⟨5, rd⟩, ⟨5, ra⟩, ⟨5, 0⟩, ⟨6, 24⟩, ⟨3, ps⟩, ⟨1, 1⟩]) lit)
  | .cmp k w rb ra cc pd stl => some (.word (head 0 stl [⟨3, pd⟩, ⟨2, cc⟩, ⟨5, ra⟩, ⟨5, rb⟩, ⟨6, 25⟩, ⟨1, w⟩, ⟨1, 0⟩, ⟨1, k⟩, ⟨1, 0⟩]))
  | .cmpL w ra cc pd stl lit => some (.long (head 0 stl [⟨3, pd⟩, ⟨2, cc⟩, ⟨5, ra⟩, ⟨5, 0⟩, ⟨6, 25⟩, ⟨1, w⟩, ⟨3, 4⟩]) lit)
  | .plog ttLo pb ttHi pa pd stl => some (.word (head 0 stl [⟨3, pd⟩, ⟨2, 0⟩, ⟨3, pa⟩, ⟨2, ttHi⟩, ⟨3, pb⟩, ⟨2, ttLo⟩, ⟨6, 26⟩, ⟨4, 0⟩]))
  | .addi imm ra rd stl => some (.word (alui 0 imm ra rd stl))
  | .andi imm ra rd stl => some (.word (alui 1 imm ra rd stl))
  | .ori imm ra rd stl => some (.word (alui 2 imm ra rd stl))
  | .xori imm ra rd stl => some (.word (alui 3 imm ra rd stl))
  | .slli sh ra rd stl => some (.word (head 1 stl [⟨5, rd⟩, ⟨5, ra⟩, ⟨3, 4⟩, ⟨6, sh⟩, ⟨6, 0⟩]))
  | .srli sh ra rd stl => some (.word (head 1 stl [⟨5, rd⟩, ⟨5, ra⟩, ⟨3, 5⟩, ⟨6, sh⟩, ⟨6, 0⟩]))
  | .srai sh ra rd stl => some (.word (head 1 stl [⟨5, rd⟩, ⟨5, ra⟩, ⟨3, 6⟩, ⟨6, sh⟩, ⟨6, 0⟩]))
  | .cmpi imm ra cc pd stl => some (.word (head 1 stl [⟨3, pd⟩, ⟨2, cc⟩, ⟨5, ra⟩, ⟨3, 7⟩, ⟨12, imm⟩]))
  | .lui imm rd => some (.word (head 2 0 [⟨5, rd⟩, ⟨20, imm⟩]))
  | .fli imm rd => some (.word (head 2 1 [⟨5, rd⟩, ⟨20, imm⟩]))
  | .faddi imm rd => some (.word (head 2 2 [⟨5, rd⟩, ⟨20, imm⟩]))
  | .fmuli imm rd => some (.word (head 2 3 [⟨5, rd⟩, ⟨20, imm⟩]))
  | .beq off rb ra stl => some (.word (br 0 off rb ra stl))
  | .bne off rb ra stl => some (.word (br 1 off rb ra stl))
  | .blt off rb ra stl => some (.word (br 2 off rb ra stl))
  | .bge off rb ra stl => some (.word (br 3 off rb ra stl))
  | .bltu off rb ra stl => some (.word (br 4 off rb ra stl))
  | .bgeu off rb ra stl => some (.word (br 5 off rb ra stl))
  | .bpt off pa stl => some (.word (head 3 stl [⟨3, pa⟩, ⟨7, 0⟩, ⟨3, 6⟩, ⟨12, off⟩]))
  | .bpf off pa stl => some (.word (head 3 stl [⟨3, pa⟩, ⟨7, 0⟩, ⟨3, 7⟩, ⟨12, off⟩]))
  | .jal off rd stl => some (.word (head 4 stl [⟨5, rd⟩, ⟨2, 0⟩, ⟨18, off⟩]))
  | .jalr off ra rd stl => some (.word (head 4 stl [⟨5, rd⟩, ⟨2, 1⟩, ⟨5, ra⟩, ⟨13, off⟩]))
  | .loop off rd stl => some (.word (head 4 stl [⟨5, rd⟩, ⟨2, 2⟩, ⟨18, off⟩]))
  | .ld off aq hint sz ra rd stl => some (.word (head 5 stl [⟨5, rd⟩, ⟨5, ra⟩, ⟨3, sz⟩, ⟨2, hint⟩, ⟨1, aq⟩, ⟨1, 0⟩, ⟨2, 0⟩, ⟨6, off⟩]))
  | .st off rl hint sz ra rd stl => some (.word (head 5 stl [⟨5, rd⟩, ⟨5, ra⟩, ⟨3, sz⟩, ⟨2, hint⟩, ⟨1, 0⟩, ⟨1, rl⟩, ⟨2, 1⟩, ⟨6, off⟩]))
  | .pref off hint ra stl => some (.word (head 5 stl [⟨5, 0⟩, ⟨5, ra⟩, ⟨3, 0⟩, ⟨2, hint⟩, ⟨2, 0⟩, ⟨2, 2⟩, ⟨6, off⟩]))
  | .disc off ra stl => some (.word (head 5 stl [⟨5, 0⟩, ⟨5, ra⟩, ⟨7, 8⟩, ⟨2, 3⟩, ⟨6, off⟩]))
  | .fadd k w rb ra rd stl => some (.word (fps 0 k w rb ra rd stl))
  | .faddL w ra rd stl lit => some (.long (fpsL 0 w ra rd stl) lit)
  | .fsub k w rb ra rd stl => some (.word (fps 1 k w rb ra rd stl))
  | .fsubL w ra rd stl lit => some (.long (fpsL 1 w ra rd stl) lit)
  | .fmul k w rb ra rd stl => some (.word (fps 2 k w rb ra rd stl))
  | .fmulL w ra rd stl lit => some (.long (fpsL 2 w ra rd stl) lit)
  | .fdiv k w rb ra rd stl => some (.word (fps 3 k w rb ra rd stl))
  | .fdivL w ra rd stl lit => some (.long (fpsL 3 w ra rd stl) lit)
  | .fsqrt w ra rd stl => some (.word (head 6 stl [⟨5, rd⟩, ⟨5, ra⟩, ⟨5, 0⟩, ⟨6, 4⟩, ⟨2, w⟩, ⟨2, 0⟩]))
  | .fma k w rb ra rd stl => some (.word (fps 5 k w rb ra rd stl))
  | .fmaL w ra rd stl lit => some (.long (fpsL 5 w ra rd stl) lit)
  | .fmad k w rb ra rd stl => some (.word (fps 6 k w rb ra rd stl))
  | .fmadL w ra rd stl lit => some (.long (fpsL 6 w ra rd stl) lit)
  | .fnma k w rb ra rd stl => some (.word (fps 7 k w rb ra rd stl))
  | .fnmaL w ra rd stl lit => some (.long (fpsL 7 w ra rd stl) lit)
  | .fmin k w rb ra rd stl => some (.word (fps 8 k w rb ra rd stl))
  | .fminL w ra rd stl lit => some (.long (fpsL 8 w ra rd stl) lit)
  | .fmax k w rb ra rd stl => some (.word (fps 9 k w rb ra rd stl))
  | .fmaxL w ra rd stl lit => some (.long (fpsL 9 w ra rd stl) lit)
  | .fsgn var w rb ra rd stl => some (.word (head 6 stl [⟨5, rd⟩, ⟨5, ra⟩, ⟨5, rb⟩, ⟨6, 10⟩, ⟨2, w⟩, ⟨2, var⟩]))
  | .fcmp k w rb ra cc pd stl => some (.word (head 6 stl [⟨3, pd⟩, ⟨2, cc⟩, ⟨5, ra⟩, ⟨5, rb⟩, ⟨6, 11⟩, ⟨2, w⟩, ⟨1, k⟩, ⟨1, 0⟩]))
  | .fcmpL w ra cc pd stl lit => some (.long (head 6 stl [⟨3, pd⟩, ⟨2, cc⟩, ⟨5, ra⟩, ⟨5, 0⟩, ⟨6, 11⟩, ⟨2, w⟩, ⟨2, 2⟩]) lit)
  | .fclass w ra rd stl => some (.word (head 6 stl [⟨5, rd⟩, ⟨5, ra⟩, ⟨5, 0⟩, ⟨6, 12⟩, ⟨2, w⟩, ⟨2, 0⟩]))
  | .fcvt src dst ra rd stl => some (.word (head 6 stl [⟨5, rd⟩, ⟨5, ra⟩, ⟨4, dst⟩, ⟨1, 0⟩, ⟨6, 13⟩, ⟨4, src⟩]))
  | .fex2 ra rd stl => some (.word (sfu 14 ra rd stl))
  | .flg2 ra rd stl => some (.word (sfu 15 ra rd stl))
  | .frcp ra rd stl => some (.word (sfu 16 ra rd stl))
  | .frsq ra rd stl => some (.word (sfu 17 ra rd stl))
  | .fsinp ra rd stl => some (.word (sfu 18 ra rd stl))
  | .fcosp ra rd stl => some (.word (sfu 19 ra rd stl))
  | .vadd s mk rb ra rd stl => some (.word (va 0 s mk rb ra rd stl))
  | .vsub s mk rb ra rd stl => some (.word (va 1 s mk rb ra rd stl))
  | .vmul s mk rb ra rd stl => some (.word (va 2 s mk rb ra rd stl))
  | .vfma s mk rb ra rd stl => some (.word (va 3 s mk rb ra rd stl))
  | .vdiv s mk rb ra rd stl => some (.word (va 4 s mk rb ra rd stl))
  | .vsqrt mk ra rd stl => some (.word (head 7 stl [⟨5, rd⟩, ⟨5, ra⟩, ⟨5, 0⟩, ⟨6, 5⟩, ⟨3, mk⟩, ⟨1, 0⟩]))
  | .vmin s mk rb ra rd stl => some (.word (va 6 s mk rb ra rd stl))
  | .vmax s mk rb ra rd stl => some (.word (va 7 s mk rb ra rd stl))
  | .vabs mk ra rd stl => some (.word (head 7 stl [⟨5, rd⟩, ⟨5, ra⟩, ⟨5, 0⟩, ⟨6, 8⟩, ⟨3, mk⟩, ⟨1, 0⟩]))
  | .vneg mk ra rd stl => some (.word (head 7 stl [⟨5, rd⟩, ⟨5, ra⟩, ⟨5, 0⟩, ⟨6, 9⟩, ⟨3, mk⟩, ⟨1, 0⟩]))
  | .vand s mk rb ra rd stl => some (.word (va 10 s mk rb ra rd stl))
  | .vor s mk rb ra rd stl => some (.word (va 11 s mk rb ra rd stl))
  | .vxor s mk rb ra rd stl => some (.word (va 12 s mk rb ra rd stl))
  | .vshl s mk rb ra rd stl => some (.word (va 13 s mk rb ra rd stl))
  | .vshr s mk rb ra rd stl => some (.word (va 14 s mk rb ra rd stl))
  | .vsra s mk rb ra rd stl => some (.word (va 15 s mk rb ra rd stl))
  | .vcmp s mk rb ra cc md stl => some (.word (head 7 stl [⟨3, md⟩, ⟨2, cc⟩, ⟨5, ra⟩, ⟨5, rb⟩, ⟨6, 16⟩, ⟨3, mk⟩, ⟨1, s⟩]))
  | .vsel s mk rb ra rd stl => some (.word (va 17 s mk rb ra rd stl))
  | .vcvt mk ft ra rd stl => some (.word (head 7 stl [⟨5, rd⟩, ⟨5, ra⟩, ⟨5, ft⟩, ⟨6, 18⟩, ⟨3, mk⟩, ⟨1, 0⟩]))
  | .vsfu mk fn ra rd stl => some (.word (head 7 stl [⟨5, rd⟩, ⟨5, ra⟩, ⟨3, fn⟩, ⟨2, 0⟩, ⟨6, 19⟩, ⟨3, mk⟩, ⟨1, 0⟩]))
  | .vclaim lg rd stl => some (.word (head 8 stl [⟨5, rd⟩, ⟨5, 0⟩, ⟨3, lg⟩, ⟨2, 0⟩, ⟨6, 0⟩, ⟨4, 0⟩]))
  | .vrel stl => some (.word (head 8 stl [⟨15, 0⟩, ⟨6, 1⟩, ⟨4, 0⟩]))
  | .vlen rd stl => some (.word (head 8 stl [⟨5, rd⟩, ⟨10, 0⟩, ⟨6, 2⟩, ⟨4, 0⟩]))
  | .vld mk ft ra rd stl => some (.word (vm 3 0 mk ft ra rd stl))
  | .vlds mk rb ra rd stl => some (.word (vm 4 0 mk rb ra rd stl))
  | .vldx mk rb ra rd stl => some (.word (vm 5 0 mk rb ra rd stl))
  | .vst mk ra rd stl => some (.word (head 8 stl [⟨5, rd⟩, ⟨5, ra⟩, ⟨5, 0⟩, ⟨6, 6⟩, ⟨3, mk⟩, ⟨1, 0⟩]))
  | .vsts mk rb ra rd stl => some (.word (vm 7 0 mk rb ra rd stl))
  | .vstx mk rb ra rd stl => some (.word (vm 8 0 mk rb ra rd stl))
  | .vbc mk ft ra rd stl => some (.word (vm 9 0 mk ft ra rd stl))
  | .vperm mk rb ra rd stl => some (.word (vm 10 0 mk rb ra rd stl))
  | .vslide mk rb ra rd stl => some (.word (vm 11 1 mk rb ra rd stl))
  | .vred mk op ra rd stl => some (.word (head 8 stl [⟨5, rd⟩, ⟨5, ra⟩, ⟨3, op⟩, ⟨2, 0⟩, ⟨6, 12⟩, ⟨3, mk⟩, ⟨1, 0⟩]))
  | .vscan mk op ra rd stl => some (.word (head 8 stl [⟨5, rd⟩, ⟨5, ra⟩, ⟨3, op⟩, ⟨2, 0⟩, ⟨6, 13⟩, ⟨3, mk⟩, ⟨1, 0⟩]))
  | .vmop mb ttLo ma ttHi md stl => some (.word (head 8 stl [⟨3, md⟩, ⟨2, ttHi⟩, ⟨3, ma⟩, ⟨2, ttLo⟩, ⟨3, mb⟩, ⟨2, 0⟩, ⟨6, 14⟩, ⟨4, 0⟩]))
  | .vtag ft rd stl => some (.word (head 8 stl [⟨5, rd⟩, ⟨5, 0⟩, ⟨5, ft⟩, ⟨6, 15⟩, ⟨4, 0⟩]))
  | .vxtr rb ra rd stl => some (.word (head 8 stl [⟨5, rd⟩, ⟨5, ra⟩, ⟨5, rb⟩, ⟨6, 16⟩, ⟨4, 0⟩]))
  | .mzero dbl ad stl => some (.word (head 9 stl [⟨2, ad⟩, ⟨13, 0⟩, ⟨5, 0⟩, ⟨1, dbl⟩, ⟨4, 0⟩]))
  | .mzeroG dbl pd ad stl => some (.word (head 9 stl [⟨2, ad⟩, ⟨8, 0⟩, ⟨3, pd⟩, ⟨2, 0⟩, ⟨5, 0⟩, ⟨1, dbl⟩, ⟨4, 1⟩]))
  | .mma rb ra ad stl => some (.word (head 9 stl [⟨2, ad⟩, ⟨3, 0⟩, ⟨5, ra⟩, ⟨5, rb⟩, ⟨5, 1⟩, ⟨5, 0⟩]))
  | .mmaResume rb ra ad stl => some (.word (head 9 stl [⟨2, ad⟩, ⟨3, 0⟩, ⟨5, ra⟩, ⟨5, rb⟩, ⟨5, 1⟩, ⟨5, 1⟩]))
  | .mmag rb ra ad stl => some (.word (head 9 stl [⟨2, ad⟩, ⟨3, 0⟩, ⟨5, ra⟩, ⟨5, rb⟩, ⟨5, 2⟩, ⟨5, 0⟩]))
  | .mmagResume rb ra ad stl => some (.word (head 9 stl [⟨2, ad⟩, ⟨3, 0⟩, ⟨5, ra⟩, ⟨5, rb⟩, ⟨5, 2⟩, ⟨5, 1⟩]))
  | .mdrain grp rb ra ad stl => some (.word (head 9 stl [⟨2, ad⟩, ⟨3, 0⟩, ⟨5, ra⟩, ⟨5, rb⟩, ⟨5, 3⟩, ⟨1, 0⟩, ⟨1, grp⟩, ⟨3, 0⟩]))
  | .mfill rb ra ad stl => some (.word (head 9 stl [⟨2, ad⟩, ⟨3, 0⟩, ⟨5, ra⟩, ⟨5, rb⟩, ⟨5, 4⟩, ⟨5, 0⟩]))
  | .astage rb ra rd stl => some (.word (xf 9 5 0 rb ra rd stl))
  | .pload rb ra rd stl => some (.word (xf 9 6 0 rb ra rd stl))
  | .pevict ra stl => some (.word (xf 9 7 0 0 ra 0 stl))
  | .pstat src ra rd stl => some (.word (head 9 stl [⟨5, rd⟩, ⟨5, ra⟩, ⟨5, 0⟩, ⟨5, 8⟩, ⟨1, src⟩, ⟨4, 0⟩]))
  | .hspost hs stl => some (.word (head 9 stl [⟨10, 0⟩, ⟨3, hs⟩, ⟨2, 0⟩, ⟨5, 9⟩, ⟨5, 0⟩]))
  | .hswait hs stl => some (.word (head 9 stl [⟨10, 0⟩, ⟨3, hs⟩, ⟨2, 0⟩, ⟨5, 10⟩, ⟨5, 0⟩]))
  | .copy rb ra stl => some (.word (head 10 stl [⟨7, 0⟩, ⟨3, ra⟩, ⟨5, rb⟩, ⟨5, 0⟩, ⟨5, 0⟩]))
  | .gath rb ra stl => some (.word (head 10 stl [⟨7, 0⟩, ⟨3, ra⟩, ⟨5, rb⟩, ⟨5, 1⟩, ⟨5, 0⟩]))
  | .gathCb rb ra stl => some (.word (head 10 stl [⟨7, 0⟩, ⟨3, ra⟩, ⟨5, rb⟩, ⟨5, 1⟩, ⟨5, 1⟩]))
  | .scat rb ra stl => some (.word (head 10 stl [⟨7, 0⟩, ⟨3, ra⟩, ⟨5, rb⟩, ⟨5, 2⟩, ⟨5, 0⟩]))
  | .mgopen rb ra stl => some (.word (xf 10 3 0 rb ra 0 stl))
  | .mgfeed rb ra stl => some (.word (head 10 stl [⟨7, 0⟩, ⟨3, ra⟩, ⟨5, rb⟩, ⟨5, 4⟩, ⟨5, 0⟩]))
  | .mgclose ra stl => some (.word (xf 10 5 0 0 ra 0 stl))
  | .qfence qs stl => some (.word (head 10 stl [⟨15, 0⟩, ⟨5, 6⟩, ⟨5, qs⟩]))
  | .evwait nb ev rd stl => some (.word (head 10 stl [⟨5, rd⟩, ⟨5, 0⟩, ⟨3, ev⟩, ⟨2, 0⟩, ⟨5, 7⟩, ⟨1, nb⟩, ⟨4, 0⟩]))
  | .sbind dir sz gen ra rd stl => some (.word (head 10 stl [⟨4, rd⟩, ⟨3, 1⟩, ⟨3, ra⟩, ⟨2, gen⟩, ⟨3, 0⟩, ⟨5, 8⟩, ⟨3, sz⟩, ⟨1, dir⟩, ⟨1, 0⟩]))
  | .sunbind gen stl => some (.word (head 10 stl [⟨10, 0⟩, ⟨2, gen⟩, ⟨3, 0⟩, ⟨5, 9⟩, ⟨5, 0⟩]))
  | .bankset mode ra pd stl => some (.word (head 10 stl [⟨3, pd⟩, ⟨2, 0⟩, ⟨5, ra⟩, ⟨5, 0⟩, ⟨5, 10⟩, ⟨2, mode⟩, ⟨3, 0⟩]))
  | .spset ra pd stl => some (.word (head 10 stl [⟨3, pd⟩, ⟨2, 0⟩, ⟨5, ra⟩, ⟨5, 0⟩, ⟨5, 11⟩, ⟨5, 0⟩]))
  | .aadd noRet ty rb ra rd stl => some (.word (atom 0 noRet ty rb ra rd stl))
  | .aand noRet ty rb ra rd stl => some (.word (atom 1 noRet ty rb ra rd stl))
  | .aor noRet ty rb ra rd stl => some (.word (atom 2 noRet ty rb ra rd stl))
  | .axor noRet ty rb ra rd stl => some (.word (atom 3 noRet ty rb ra rd stl))
  | .amin noRet ty rb ra rd stl => some (.word (atom 4 noRet ty rb ra rd stl))
  | .amax noRet ty rb ra rd stl => some (.word (atom 5 noRet ty rb ra rd stl))
  | .aswap noRet ty rb ra rd stl => some (.word (atom 6 noRet ty rb ra rd stl))
  | .acas noRet ty rb ra rd stl => some (.word (atom 7 noRet ty rb ra rd stl))
  | .acasq noRet rb ra rd stl => some (.word (head 11 stl [⟨1, 0⟩, ⟨4, rd⟩, ⟨5, ra⟩, ⟨1, 0⟩, ⟨4, rb⟩, ⟨4, 8⟩, ⟨5, 0⟩, ⟨1, noRet⟩]))
  | .afadd noRet ty rb ra rd stl => some (.word (atom 9 noRet ty rb ra rd stl))
  | .afmin noRet ty rb ra rd stl => some (.word (atom 10 noRet ty rb ra rd stl))
  | .afmax noRet ty rb ra rd stl => some (.word (atom 11 noRet ty rb ra rd stl))
  | .atopk noRet rb ra rd stl => some (.word (head 11 stl [⟨5, rd⟩, ⟨5, ra⟩, ⟨5, rb⟩, ⟨4, 12⟩, ⟨5, 0⟩, ⟨1, noRet⟩]))
  | .vatom noRet op rb ra rd stl => some (.word (head 11 stl [⟨5, rd⟩, ⟨5, ra⟩, ⟨5, rb⟩, ⟨4, 13⟩, ⟨4, op⟩, ⟨1, 0⟩, ⟨1, noRet⟩]))
  | .aflag ra rd stl => some (.word (head 11 stl [⟨5, rd⟩, ⟨5, ra⟩, ⟨5, 0⟩, ⟨4, 14⟩, ⟨6, 0⟩]))
  | .fence scope stl => some (.word (head 12 stl [⟨15, 0⟩, ⟨5, 0⟩, ⟨3, scope⟩, ⟨2, 0⟩]))
  | .tfence page scope ra stl => some (.word (head 12 stl [⟨5, 0⟩, ⟨5, ra⟩, ⟨5, 0⟩, ⟨5, 1⟩, ⟨3, scope⟩, ⟨1, page⟩, ⟨1, 0⟩]))
  | .bmask ra stl => some (.word (xf 12 2 0 0 ra 0 stl))
  | .barv ch stl => some (.word (head 12 stl [⟨10, 0⟩, ⟨4, ch⟩, ⟨1, 0⟩, ⟨5, 3⟩, ⟨5, 0⟩]))
  | .bwait ch stl => some (.word (head 12 stl [⟨10, 0⟩, ⟨4, ch⟩, ⟨1, 0⟩, ⟨5, 4⟩, ⟨5, 0⟩]))
  | .btest ch pd stl => some (.word (head 12 stl [⟨3, pd⟩, ⟨7, 0⟩, ⟨4, ch⟩, ⟨1, 0⟩, ⟨5, 5⟩, ⟨5, 0⟩]))
  | .mbinit rb ra stl => some (.word (xf 12 6 0 rb ra 0 stl))
  | .mbarv scope ra rd stl => some (.word (head 12 stl [⟨5, rd⟩, ⟨5, ra⟩, ⟨5, 0⟩, ⟨5, 7⟩, ⟨3, scope⟩, ⟨2, 0⟩]))
  | .mbwait scope rb ra rd stl => some (.word (head 12 stl [⟨5, rd⟩, ⟨5, ra⟩, ⟨5, rb⟩, ⟨5, 8⟩, ⟨3, scope⟩, ⟨2, 0⟩]))
  | .mbtest scope ra rd stl => some (.word (head 12 stl [⟨5, rd⟩, ⟨5, ra⟩, ⟨5, 0⟩, ⟨5, 9⟩, ⟨3, scope⟩, ⟨2, 0⟩]))
  | .swinit rb ra stl => some (.word (xf 12 10 0 rb ra 0 stl))
  | .swwait scope rb ra rd stl => some (.word (head 12 stl [⟨5, rd⟩, ⟨5, ra⟩, ⟨5, rb⟩, ⟨5, 11⟩, ⟨3, scope⟩, ⟨2, 0⟩]))
  | .swtest scope ra rd stl => some (.word (head 12 stl [⟨5, rd⟩, ⟨5, ra⟩, ⟨5, 0⟩, ⟨5, 12⟩, ⟨3, scope⟩, ⟨2, 0⟩]))
  | .qpush nb qn ra pd stl => some (.word (head 12 stl [⟨3, pd⟩, ⟨2, 0⟩, ⟨5, ra⟩, ⟨4, qn⟩, ⟨1, 0⟩, ⟨5, 13⟩, ⟨1, nb⟩, ⟨4, 0⟩]))
  | .qpop nb qn pd rd stl => some (.word (head 12 stl [⟨5, rd⟩, ⟨3, pd⟩, ⟨2, 0⟩, ⟨4, qn⟩, ⟨1, 0⟩, ⟨5, 14⟩, ⟨1, nb⟩, ⟨4, 0⟩]))
  | .qsend last rb ra stl => some (.word (head 12 stl [⟨5, 0⟩, ⟨5, ra⟩, ⟨5, rb⟩, ⟨5, 15⟩, ⟨1, last⟩, ⟨4, 0⟩]))
  | .indesc sel word slot rd stl => some (.word (head 13 stl [⟨5, rd⟩, ⟨2, slot⟩, ⟨3, 0⟩, ⟨2, word⟩, ⟨3, 0⟩, ⟨5, 0⟩, ⟨3, sel⟩, ⟨2, 0⟩]))
  | .emit ra stl => some (.word (head 13 stl [⟨7, 0⟩, ⟨3, ra⟩, ⟨5, 0⟩, ⟨5, 1⟩, ⟨5, 0⟩]))
  | .emitv rb ra stl => some (.word (xf 13 2 0 rb ra 0 stl))
  | .commit stl => some (.word (head 13 stl [⟨15, 0⟩, ⟨5, 3⟩, ⟨5, 0⟩]))
  | .abort stl => some (.word (head 13 stl [⟨15, 0⟩, ⟨5, 4⟩, ⟨5, 0⟩]))
  | .bop kHi rb ra kLo stl => some (.word (head 13 stl [⟨5, kLo⟩, ⟨5, ra⟩, ⟨5, rb⟩, ⟨5, 5⟩, ⟨1, kHi⟩, ⟨4, 0⟩]))
  | .bopEnd stl => some (.word (head 13 stl [⟨15, 0⟩, ⟨5, 5⟩, ⟨5, 2⟩]))
  | .idem ra stl => some (.word (xf 13 6 0 0 ra 0 stl))
  | .kld kn rd stl => some (.word (xf 13 7 0 kn 0 rd stl))
  | .kldX ra rd stl => some (.word (xf 13 7 1 0 ra rd stl))
  | .trap nHi nMid nLo stl => some (.word (xf 14 0 0 nHi nMid nLo stl))
  | .eret stl => some (.word (head 14 stl [⟨15, 0⟩, ⟨5, 1⟩, ⟨5, 0⟩]))
  | .eretFault stl => some (.word (head 14 stl [⟨15, 0⟩, ⟨5, 1⟩, ⟨5, 1⟩]))
  | .eretEnd stl => some (.word (head 14 stl [⟨15, 0⟩, ⟨5, 1⟩, ⟨5, 2⟩]))
  | .crr cr rd stl => some (.word (xf 14 2 0 cr 0 rd stl))
  | .crw cr ra stl => some (.word (xf 14 3 0 cr ra 0 stl))
  | .ids rd stl => some (.word (head 14 stl [⟨5, rd⟩, ⟨10, 0⟩, ⟨5, 4⟩, ⟨5, 0⟩]))
  | .waiti ra rd stl => some (.word (xf 14 5 0 0 ra rd stl))
  | .rspawn ra rd stl => some (.word (xf 14 6 0 0 ra rd stl))
  | .ctxsw ra stl => some (.word (xf 14 7 0 0 ra 0 stl))
  | .cIll n => some (.half [⟨1, 0⟩, ⟨4, 0⟩, ⟨11, n⟩])
  | .cMov rs rd => some (.half [⟨1, 0⟩, ⟨4, 1⟩, ⟨5, rd⟩, ⟨5, rs⟩, ⟨1, 0⟩])
  | .cAddi imm rd => some (.half [⟨1, 0⟩, ⟨4, 2⟩, ⟨5, rd⟩, ⟨6, imm⟩])
  | .cAdd rs rd => some (.half [⟨1, 0⟩, ⟨4, 3⟩, ⟨5, rd⟩, ⟨5, rs⟩, ⟨1, 0⟩])
  | .cSub rs rd => some (.half [⟨1, 0⟩, ⟨4, 4⟩, ⟨5, rd⟩, ⟨5, rs⟩, ⟨1, 0⟩])
  | .cLdd uoff rd => some (.half [⟨1, 0⟩, ⟨4, 5⟩, ⟨5, rd⟩, ⟨6, uoff⟩])
  | .cStd uoff rs => some (.half [⟨1, 0⟩, ⟨4, 6⟩, ⟨5, rs⟩, ⟨6, uoff⟩])
  | .cBeqz off rs => some (.half [⟨1, 0⟩, ⟨4, 7⟩, ⟨5, rs⟩, ⟨6, off⟩])
  | .cBnez off rs => some (.half [⟨1, 0⟩, ⟨4, 8⟩, ⟨5, rs⟩, ⟨6, off⟩])
  | .cJ off => some (.half [⟨1, 0⟩, ⟨4, 9⟩, ⟨11, off⟩])
  | .cRet => some (.half [⟨1, 0⟩, ⟨4, 10⟩, ⟨11, 0⟩])
  | .cWait => some (.half [⟨1, 0⟩, ⟨4, 11⟩, ⟨11, 0⟩])
  | .cNop => some (.half [⟨1, 0⟩, ⟨4, 12⟩, ⟨11, 0⟩])
  | .cCmt => some (.half [⟨1, 0⟩, ⟨4, 13⟩, ⟨11, 0⟩])
  | _ => none

/-- The length and the number of a form. -/
def Form.code : Form → Nat × Nat
  | .half b => (2, pack b)
  | .word b => (4, pack b)
  | .long b lit => (8, pack b + lit.toNat * 256 ^ 4)

theorem encode_of_form {i : Instr} {f : Form} (hf : form i = some f) : encode i = some f.code := by
  cases i
  all_goals cases hf
  all_goals refine congrArg some (Prod.ext rfl ?_)
  all_goals simp only [Form.code, alu, aluL, alui, br, fps, fpsL, sfu, va, vm, atom, xf, head, pack, BitVec.reduceToNat, Nat.reducePow]
  all_goals lia

theorem encode_of_form_none {i : Instr} (hf : form i = none) : encode i = none := by
  cases i
  all_goals cases hf
  all_goals rfl

/-- The bits `w` hold the fields of a form, and `lit` is its literal if it has one. -/
def Form.Holds (w lit : Nat) : Form → Prop
  | .half b => Reads w 0 b
  | .word b => Reads w 0 b
  | .long b l => Reads w 0 b ∧ l = BitVec.ofNat 32 lit

/-- What decoding the bits of an instruction of a form answers, and what tells the form from the others (R135). -/
def Form.Decodes (i : Instr) (w lit : Nat) : Form → Prop
  | .half _ => w / 2 ^ 16 = 0 ∧ fld w 0 1 = 0 ∧ decodeCompactMajor w = .ok i
  | .word _ => w / 2 ^ 32 = 0 ∧ fld w 0 1 = 1 ∧ hasLiteral w = false ∧ decodeMajor w lit = .ok i
  | .long _ _ => w / 2 ^ 32 = 0 ∧ fld w 0 1 = 1 ∧ hasLiteral w = true ∧ decodeMajor w lit = .ok i

/-- Bits that hold the fields of an instruction decode to it: they decide the decoder's selectors and its checks on fixed bits. -/
theorem Form.Holds.decodes {i : Instr} {f : Form} {w lit : Nat} (hf : form i = some f) (h : f.Holds w lit) : f.Decodes i w lit := by
  cases i
  all_goals cases hf
  all_goals
    simp only [Form.Holds, alu, aluL, alui, br, fps, fpsL, sfu, va, vm, atom, xf, head, Reads, Nat.reduceAdd, Nat.reducePow] at h
    simp only [Form.Decodes, decodeMajor, decodeAlu, decodeAlui, decodeFimm, decodeBr, decodeJmp, decodeMem, decodeFps, decodeVa, decodeVm,
      decodeMtx, decodeEng, decodeAtom, decodeSync, decodePool, decodeSys, decodeCompactMajor, hasLiteral, bitsAre_eq, div_eq_fld, h,
      fld_31_of_29, fld_31_of_30, fld_28_of_27, BitVec.reduceToNat, Nat.reducePow, Nat.reduceBEq, Nat.reduceLeDiff, decide_true, decide_false,
      Bool.and_true, Bool.and_false, Bool.false_and, Bool.or_true, Bool.or_false, Bool.or_self,
      Bool.false_eq_true, reduceIte, and_self]

/-- A 32-bit instruction that decodes is made of the fields of the bits: each is fixed by a selector or a check, or is an operand. -/
theorem holds_of_decodeMajor {i : Instr} {w lit : Nat} (hodd : w % 2 = 1) (hw : w / 4294967296 = 0) (h : decodeMajor w lit = .ok i) :
    ∃ f, form i = some f ∧ f.Holds w lit := by
  unfold decodeMajor at h
  split at h
  case h_16 => cases h
  all_goals simp only [decodeAlu, decodeAlui, decodeFimm, decodeBr, decodeJmp, decodeMem, decodeFps, decodeVa, decodeVm, decodeMtx,
    decodeEng, decodeAtom, decodeSync, decodePool, decodeSys, bitsAre, Bool.and_eq_true, beq_iff_eq, Nat.reducePow] at h
  all_goals repeat' split at h
  all_goals cases h
  all_goals refine ⟨_, rfl, ?_⟩
  all_goals simp only [Form.Holds, alu, aluL, alui, br, fps, fpsL, sfu, va, vm, atom, xf, head, Reads, fld_eq_iff,
    Nat.reduceAdd, Nat.reducePow, Nat.div_one, BitVec.reduceToNat, and_self, *]

/-- The same of a compact instruction. -/
theorem holds_of_decodeCompactMajor {i : Instr} {w lit : Nat} (heven : w % 2 = 0) (hw : w / 65536 = 0) (h : decodeCompactMajor w = .ok i) :
    ∃ f, form i = some f ∧ f.Holds w lit := by
  simp only [decodeCompactMajor, bitsAre, beq_iff_eq, Nat.reducePow] at h
  repeat' split at h
  all_goals cases h
  all_goals refine ⟨_, rfl, ?_⟩
  all_goals simp only [Form.Holds, Reads, fld_eq_iff, Nat.reduceAdd, Nat.reducePow, Nat.div_one, BitVec.reduceToNat, and_self, *]

theorem encode_of_decodeCompactMajor {i : Instr} {v : Nat} (heven : v % 2 = 0) (hv : v < 256 ^ 2) (h : decodeCompactMajor v = .ok i) :
    encode i = some (2, v) := by
  obtain ⟨f, hf, hholds⟩ := holds_of_decodeCompactMajor (lit := 0) heven (Nat.div_eq_of_lt hv) h
  have hdecodes := hholds.decodes hf
  rw [encode_of_form hf]
  cases f with
  | half b => rw [eq_pack_of_reads hholds, Form.code]
  | word b => exact absurd (mod_two_of_fld hdecodes.2.1) (by rw [heven]; decide)
  | long b l => exact absurd (mod_two_of_fld hdecodes.2.1) (by rw [heven]; decide)

theorem encode_of_decodeMajor {i : Instr} {w lit : Nat} (hodd : w % 2 = 1) (hw : w < 256 ^ 4) (hl : lit < 256 ^ 4)
    (h : decodeMajor w lit = .ok i) : encode i = some (if hasLiteral w then (8, w + lit * 256 ^ 4) else (4, w)) := by
  obtain ⟨f, hf, hholds⟩ := holds_of_decodeMajor hodd (Nat.div_eq_of_lt hw) h
  have hdecodes := hholds.decodes hf
  rw [encode_of_form hf]
  cases f with
  | half b => exact absurd (mod_two_of_fld hdecodes.2.1) (by rw [hodd]; decide)
  | word b =>
    obtain ⟨-, -, hlit, -⟩ := hdecodes
    rw [hlit, if_neg (by decide), Form.code, ← eq_pack_of_reads hholds]
  | long b l =>
    obtain ⟨-, -, hlit, -⟩ := hdecodes
    obtain ⟨hreads, rfl⟩ := hholds
    rw [hlit, if_pos rfl, Form.code, ← eq_pack_of_reads hreads, BitVec.toNat_ofNat, Nat.mod_eq_of_lt (b := 2 ^ 32) hl]

/-! ### Bytes -/

theorem leBytes_add (m n v : Nat) : leBytes (m + n) v = leBytes m v ++ leBytes n (v / 256 ^ m) := by
  induction m generalizing v with
  | zero => simp [leBytes]
  | succ m ih => rw [Nat.succ_add, leBytes, leBytes, ih, List.cons_append, Nat.div_div_eq_div_mul, Nat.pow_succ']

theorem leBytes_mod (n v : Nat) : leBytes n (v % 256 ^ n) = leBytes n v := by
  have h := leBytes_leNat (leBytes n v)
  rwa [length_leBytes, leNat_leBytes] at h

/-- The first `m` bytes of a list, as their number gives them. -/
theorem leBytes_take {m : Nat} {bs : List Byte} (h : m ≤ bs.length) : leBytes m (leNat (bs.take m)) = bs.take m := by
  have := leBytes_leNat (bs.take m)
  rwa [List.length_take_of_le h] at this

theorem leNat_lt (bs : List Byte) : leNat bs < 256 ^ bs.length := by
  have h := leNat_leBytes bs.length (leNat bs)
  rw [leBytes_leNat] at h
  rw [h]
  exact Nat.mod_lt _ (by positivity)

theorem leNat_take_lt (m : Nat) (bs : List Byte) : leNat (bs.take m) < 256 ^ m :=
  (leNat_lt _).trans_le (Nat.pow_le_pow_right (by decide) (List.length_take_le m bs))

theorem leNat_take_leBytes {m n : Nat} (h : m ≤ n) (v : Nat) (rest : List Byte) : leNat ((leBytes n v ++ rest).take m) = v % 256 ^ m := by
  obtain ⟨k, rfl⟩ := Nat.exists_eq_add_of_le h
  rw [leBytes_add, List.append_assoc, List.take_left' (length_leBytes m v), leNat_leBytes]

/-! ### What decode reads -/

theorem checkFields_eq_ok_iff {r : Except Reject Instr} {i : Instr} : checkFields r = .ok i ↔ r = .ok i ∧ wf i = true := by
  cases r with
  | error e => simp [checkFields]
  | ok j =>
    rw [checkFields, Except.ok.injEq]
    split
    case isTrue hj => exact ⟨fun h => by cases h; exact ⟨rfl, hj⟩, fun h => by rw [h.1]⟩
    case isFalse hj => exact ⟨nofun, fun h => absurd (h.1 ▸ h.2) hj⟩

theorem map_eq_ok_iff {r : Except Reject Instr} {i : Instr} {rest rest' : List Byte} :
    r.map (·, rest) = .ok (i, rest') ↔ r = .ok i ∧ rest = rest' := by
  cases r <;> simp [Except.map]

theorem leBytes_append_literal {w : Nat} (hw : w < 256 ^ 4) (l : Nat) : leBytes 8 (w + l * 256 ^ 4) = leBytes 4 w ++ leBytes 4 l := by
  rw [leBytes_add 4 4, Nat.add_mul_div_right _ _ (by decide), Nat.div_eq_of_lt hw, Nat.zero_add, ← leBytes_mod 4 (w + _), Nat.add_mul_mod_self_right,
    leBytes_mod]

/-- A list begins with the bytes of the number that they give. -/
theorem leBytes_take_append_drop {n : Nat} {bs : List Byte} (h : n ≤ bs.length) : leBytes n (leNat (bs.take n)) ++ bs.drop n = bs := by
  rw [leBytes_take h, List.take_append_drop]

theorem leNat_take_mod {m n : Nat} (hmn : m ≤ n) {bs : List Byte} (hn : n ≤ bs.length) : leNat (bs.take n) % 256 ^ m = leNat (bs.take m) := by
  conv_rhs => rw [← leBytes_take_append_drop hn, leNat_take_leBytes hmn]

theorem leNat_take_leBytes_self {n v : Nat} (h : v < 256 ^ n) (rest : List Byte) : leNat ((leBytes n v ++ rest).take n) = v := by
  rw [leNat_take_leBytes le_rfl, Nat.mod_eq_of_lt h]

theorem decode_half {v : Nat} (hv : v < 256 ^ 2) (heven : v % 2 = 0) (rest : List Byte) :
    decode (leBytes 2 v ++ rest) = (decodeHalf v).map (·, rest) := by
  simp only [decode, leNat_take_leBytes_self hv, heven, List.drop_left' (length_leBytes 2 v)]
  rw [if_neg (by simp; omega)]
  cases decodeHalf v <;> rfl

theorem decode_word {w : Nat} (hw : w < 256 ^ 4) (hodd : w % 2 = 1) (hlit : hasLiteral w = false) (rest : List Byte) :
    decode (leBytes 4 w ++ rest) = (decodeWord w 0).map (·, rest) := by
  have hhalf : w % 256 ^ 2 % 2 = 1 := by omega
  simp only [decode, leNat_take_leBytes_self hw, leNat_take_leBytes (show 2 ≤ 4 by decide), hhalf, hlit, List.drop_left' (length_leBytes 4 w)]
  rw [if_neg (by simp; omega), if_neg (by decide), if_neg (by simp), if_neg (by decide)]
  cases decodeWord w 0 <;> rfl

theorem decode_long {w l : Nat} (hw : w < 256 ^ 4) (hl : l < 256 ^ 4) (hodd : w % 2 = 1) (hlit : hasLiteral w = true) (rest : List Byte) :
    decode (leBytes 4 w ++ (leBytes 4 l ++ rest)) = (decodeWord w l).map (·, rest) := by
  have hhalf : w % 256 ^ 2 % 2 = 1 := by omega
  have hdrop : (leBytes 4 w ++ (leBytes 4 l ++ rest)).drop 8 = rest := by
    rw [← List.append_assoc, List.drop_left' (by simp)]
  simp only [decode, leNat_take_leBytes_self hw, leNat_take_leBytes (show 2 ≤ 4 by decide), hhalf, hlit, List.drop_left' (length_leBytes 4 w),
    leNat_take_leBytes_self hl, hdrop]
  rw [if_neg (by simp; omega), if_neg (by decide), if_neg (by simp), if_pos trivial, if_neg (by simp; omega)]
  cases decodeWord w l <;> rfl

/-- What decode reads (R135): a halfword whose bit 0 is clear, a word whose bit 0 is set, or such a word and its literal. -/
inductive DecodesTo (i : Instr) (rest : List Byte) : List Byte → Prop where
  | half {v : Nat} (hv : v < 256 ^ 2) (heven : v % 2 = 0) (hdec : decodeHalf v = .ok i) : DecodesTo i rest (leBytes 2 v ++ rest)
  | word {w : Nat} (hw : w < 256 ^ 4) (hodd : w % 2 = 1) (hlit : hasLiteral w = false) (hdec : decodeWord w 0 = .ok i) :
      DecodesTo i rest (leBytes 4 w ++ rest)
  | long {w l : Nat} (hw : w < 256 ^ 4) (hl : l < 256 ^ 4) (hodd : w % 2 = 1) (hlit : hasLiteral w = true) (hdec : decodeWord w l = .ok i) :
      DecodesTo i rest (leBytes 4 w ++ (leBytes 4 l ++ rest))

theorem DecodesTo.decode_eq {i : Instr} {bs rest : List Byte} (h : DecodesTo i rest bs) : decode bs = .ok (i, rest) := by
  cases h with
  | half hv heven hdec => rw [decode_half hv heven, hdec]; rfl
  | word hw hodd hlit hdec => rw [decode_word hw hodd hlit, hdec]; rfl
  | long hw hl hodd hlit hdec => rw [decode_long hw hl hodd hlit, hdec]; rfl

theorem decodesTo_of_decode {i : Instr} {bs rest : List Byte} (h : decode bs = .ok (i, rest)) : DecodesTo i rest bs := by
  simp only [decode, beq_iff_eq] at h
  split at h
  · cases h
  split at h
  case isTrue h2 heven =>
    split at h <;> cases h
    case h_1 hdec =>
      rw [← leBytes_take_append_drop (not_lt.mp h2)]
      exact .half (leNat_take_lt 2 bs) heven hdec
  case isFalse h2 hodd =>
  split at h
  · cases h
  case isFalse h4 =>
  have hodd : leNat (bs.take 4) % 2 = 1 := by
    have := leNat_take_mod (show 2 ≤ 4 by decide) (not_lt.mp h4)
    omega
  split at h
  case isFalse hlit =>
    split at h <;> cases h
    case h_1 hdec =>
      rw [← leBytes_take_append_drop (not_lt.mp h4)]
      exact .word (leNat_take_lt 4 bs) hodd (by simpa using hlit) hdec
  case isTrue hlit =>
    split at h
    · cases h
    case isFalse h8 =>
    split at h <;> cases h
    case h_1 hdec =>
      have hrest : 4 ≤ (bs.drop 4).length := by rw [List.length_drop]; omega
      rw [← leBytes_take_append_drop (not_lt.mp h4), ← leBytes_take_append_drop hrest, List.drop_drop]
      exact .long (leNat_take_lt 4 bs) (leNat_take_lt 4 _) hodd hlit hdec

/-! ### O55 and O56 -/

/-- An encoding decodes to its instruction. -/
theorem decodesTo_of_encode {i : Instr} {n v : Nat} (hwf : wf i = true) (h : encode i = some (n, v)) (rest : List Byte) :
    DecodesTo i rest (leBytes n v ++ rest) := by
  rcases hf : form i with _ | f
  · rw [encode_of_form_none hf] at h
    cases h
  rw [encode_of_form hf] at h
  cases f with
  | half b =>
    cases h
    obtain ⟨hlt, h0, hdec⟩ := Form.Holds.decodes (lit := 0) hf (reads_pack b)
    exact .half (Nat.lt_of_div_eq_zero (by decide) hlt) (mod_two_of_fld h0) (checkFields_eq_ok_iff.mpr ⟨hdec, hwf⟩)
  | word b =>
    cases h
    obtain ⟨hlt, h0, hlit, hdec⟩ := Form.Holds.decodes (lit := 0) hf (reads_pack b)
    exact .word (Nat.lt_of_div_eq_zero (by decide) hlt) (mod_two_of_fld h0) hlit (checkFields_eq_ok_iff.mpr ⟨hdec, hwf⟩)
  | long b l =>
    cases h
    obtain ⟨hlt, h0, hlit, hdec⟩ := Form.Holds.decodes (lit := l.toNat) hf ⟨reads_pack b, by simp⟩
    have hw : pack b < 256 ^ 4 := Nat.lt_of_div_eq_zero (by decide) hlt
    rw [leBytes_append_literal hw, List.append_assoc]
    exact .long hw l.isLt (mod_two_of_fld h0) hlit (checkFields_eq_ok_iff.mpr ⟨hdec, hwf⟩)

/-- Settles O55: the encoding holds the fields of the instruction, and those decode to it. -/
theorem encodeDecode : Obligations.EncodeDecode := by
  unfold Obligations.EncodeDecode
  intro i n w rest hwf henc
  exact (decodesTo_of_encode hwf henc rest).decode_eq

theorem encode_of_decodesTo {i : Instr} {bs rest : List Byte} (h : DecodesTo i rest bs) :
    wf i = true ∧ ∃ n ∈ [2, 4, 8], ∃ v, encode i = some (n, v) ∧ bs = leBytes n v ++ rest := by
  cases h with
  | @half v hv heven hdec =>
    obtain ⟨hdec, hwf⟩ := checkFields_eq_ok_iff.mp hdec
    exact ⟨hwf, 2, by decide, v, encode_of_decodeCompactMajor heven hv hdec, rfl⟩
  | @word w hw hodd hlit hdec =>
    obtain ⟨hdec, hwf⟩ := checkFields_eq_ok_iff.mp hdec
    have henc := encode_of_decodeMajor hodd hw (by decide) hdec
    rw [hlit] at henc
    exact ⟨hwf, 4, by decide, w, henc, rfl⟩
  | @long w l hw hl hodd hlit hdec =>
    obtain ⟨hdec, hwf⟩ := checkFields_eq_ok_iff.mp hdec
    have henc := encode_of_decodeMajor hodd hw hl hdec
    rw [hlit] at henc
    exact ⟨hwf, 8, by decide, _, henc, by rw [leBytes_append_literal hw, List.append_assoc]⟩

/-- Settles O56: what decodes is made of the fields of an instruction, with the rest of the bytes behind them. -/
theorem decodeEncode : Obligations.DecodeEncode := by
  unfold Obligations.DecodeEncode
  intro i bs rest h
  obtain ⟨hwf, n, hn, v, henc, hbs⟩ := encode_of_decodesTo (decodesTo_of_decode h)
  rw [encodeBytes, instrLen, henc]
  exact ⟨hwf, hbs, hn⟩

/-! ### O57 -/

/-- Settles O57, by decoding each word. -/
theorem wordsDecode : Obligations.WordsDecode := by
  unfold Obligations.WordsDecode
  exact ⟨by decide +kernel, by decide +kernel, by decide +kernel, by decide +kernel⟩

end Sys2Proof.Encoding

/-! Integer results (spec/09_scalar_instructions.md R158, R161, R162): the bit vector that each operation gives is the spec's integer,
reduced to the width. -/

namespace Sys2Proof.Machine
open Host

/-! ### Bit vectors of integers -/

theorem toNat_setWidth_mod {n : Nat} (hn : n = 32 ∨ n = 64) (b : Word) : (b.setWidth n).toNat % n = b.toNat % n := by
  rcases hn with rfl | rfl
  all_goals rw [BitVec.toNat_setWidth]; omega

theorem ofInt_sub_toInt {n : Nat} (x y : BitVec n) : BitVec.ofInt n (x.toInt - y.toInt) = x - y :=
  BitVec.eq_of_toInt_eq (by rw [BitVec.toInt_ofInt, BitVec.toInt_sub])

theorem ofInt_mul_toInt {n : Nat} (x y : BitVec n) : BitVec.ofInt n (x.toInt * y.toInt) = x * y :=
  BitVec.eq_of_toInt_eq (by rw [BitVec.toInt_ofInt, BitVec.toInt_mul])

theorem ofInt_toNat (n : Nat) (a : Word) : BitVec.ofInt n (a.toNat : Int) = a.setWidth n := by
  rw [BitVec.ofInt_natCast, BitVec.ofNat_toNat]

theorem ofInt_toNat_self {n : Nat} (x : BitVec n) : BitVec.ofInt n (x.toNat : Int) = x := by
  rw [BitVec.ofInt_natCast, BitVec.ofNat_toNat, BitVec.setWidth_eq]

theorem ofInt_shiftLeft {n : Nat} (x : BitVec n) (k : Nat) : BitVec.ofInt n ((x.toNat * 2 ^ k : Nat) : Int) = x <<< k := by
  apply BitVec.eq_of_toNat_eq
  rw [BitVec.ofInt_natCast, BitVec.toNat_ofNat, BitVec.toNat_shiftLeft, Nat.shiftLeft_eq]

theorem ofInt_ushiftRight {n : Nat} (x : BitVec n) (k : Nat) : BitVec.ofInt n ((x.toNat / 2 ^ k : Nat) : Int) = x >>> k := by
  apply BitVec.eq_of_toNat_eq
  rw [BitVec.ofInt_natCast, BitVec.toNat_ofNat, BitVec.toNat_ushiftRight, Nat.shiftRight_eq_div_pow]
  exact Nat.mod_eq_of_lt ((Nat.div_le_self _ _).trans_lt x.isLt)

theorem ofInt_sshiftRight {n : Nat} (x : BitVec n) (k : Nat) : BitVec.ofInt n (x.toInt / 2 ^ k) = x.sshiftRight k := by
  rw [BitVec.sshiftRight_eq, Int.shiftRight_eq_div_pow]
  norm_cast

/-- A rotation to the right: the two parts do not overlap. -/
theorem ofInt_rotateRight {n k : Nat} (hk : k < n) (x : BitVec n) :
    BitVec.ofInt n ((x.toNat / 2 ^ k + x.toNat * 2 ^ (n - k) : Nat) : Int) = x.rotateRight k := by
  have hlow : x.toNat / 2 ^ k < 2 ^ (n - k) := by
    rw [Nat.div_lt_iff_lt_mul (Nat.two_pow_pos k), ← Nat.pow_add, Nat.sub_add_cancel hk.le]
    exact x.isLt
  apply BitVec.eq_of_toNat_eq
  rw [BitVec.ofInt_natCast, BitVec.toNat_ofNat, BitVec.toNat_rotateRight, Nat.mod_eq_of_lt hk, Nat.shiftRight_eq_div_pow, Nat.add_comm,
    ← Nat.shiftLeft_eq, Nat.shiftLeft_add_eq_or_of_lt hlow, Nat.or_mod_two_pow, Nat.or_comm,
    Nat.mod_eq_of_lt ((Nat.div_le_self _ _).trans_lt x.isLt)]

/-- The high half of an integer of twice the width. -/
theorem extractLsb'_ofInt (n : Nat) (v : Int) : (BitVec.ofInt (2 * n) v).extractLsb' n n = BitVec.ofInt n (v / 2 ^ n) := by
  have hpos : (0 : Int) < 2 ^ n := by positivity
  have hsq : ((2 ^ (2 * n) : Nat) : Int) = 2 ^ n * 2 ^ n := by push_cast; ring
  apply BitVec.eq_of_toNat_eq
  apply Int.ofNat_inj.mp
  rw [BitVec.extractLsb'_toNat, BitVec.toNat_ofInt, BitVec.toNat_ofInt, Nat.shiftRight_eq_div_pow, hsq]
  push_cast
  rw [Int.toNat_of_nonneg (Int.emod_nonneg _ (by positivity)), Int.toNat_of_nonneg (Int.emod_nonneg _ hpos.ne')]
  conv_rhs => rw [← Int.mul_ediv_add_emod v (2 ^ n * 2 ^ n), Int.mul_assoc, Int.add_comm, Int.add_mul_ediv_left _ _ hpos.ne',
    Int.add_mul_emod_self_left]

theorem mulHighS_eq {n : Nat} (x y : BitVec n) : mulHighS x y = BitVec.ofInt n (x.toInt * y.toInt / 2 ^ n) := by
  rw [← extractLsb'_ofInt, BitVec.ofInt_mul]
  rfl

theorem mulHighU_eq {n : Nat} (x y : BitVec n) : mulHighU x y = BitVec.ofInt n ((x.toNat * y.toNat / 2 ^ n : Nat) : Int) := by
  have hext (z : BitVec n) : BitVec.ofInt (2 * n) (z.toNat : Int) = z.setWidth (2 * n) := by rw [BitVec.ofInt_natCast, BitVec.ofNat_toNat]
  push_cast
  rw [← extractLsb'_ofInt, BitVec.ofInt_mul, hext, hext]
  rfl

theorem sminB_eq {n : Nat} (x y : BitVec n) : sminB x y = BitVec.ofInt n (min x.toInt y.toInt) := by
  rw [sminB, BitVec.slt_eq_decide]
  rcases lt_or_ge x.toInt y.toInt with h | h
  · rw [min_eq_left h.le, BitVec.ofInt_toInt, if_pos (decide_eq_true h)]
  · rw [min_eq_right h, BitVec.ofInt_toInt, if_neg (by simpa using h)]

theorem smaxB_eq {n : Nat} (x y : BitVec n) : smaxB x y = BitVec.ofInt n (max x.toInt y.toInt) := by
  rw [smaxB, BitVec.slt_eq_decide]
  rcases lt_or_ge x.toInt y.toInt with h | h
  · rw [max_eq_right h.le, BitVec.ofInt_toInt, if_pos (decide_eq_true h)]
  · rw [max_eq_left h, BitVec.ofInt_toInt, if_neg (by simpa using h)]

theorem uminB_eq {n : Nat} (x y : BitVec n) : uminB x y = BitVec.ofInt n ((min x.toNat y.toNat : Nat) : Int) := by
  rw [uminB, BitVec.ult_eq_decide]
  rcases lt_or_ge x.toNat y.toNat with h | h
  · rw [min_eq_left h.le, ofInt_toNat_self, if_pos (decide_eq_true h)]
  · rw [min_eq_right h, ofInt_toNat_self, if_neg (by simpa using h)]

theorem umaxB_eq {n : Nat} (x y : BitVec n) : umaxB x y = BitVec.ofInt n ((max x.toNat y.toNat : Nat) : Int) := by
  rw [umaxB, BitVec.ult_eq_decide]
  rcases lt_or_ge x.toNat y.toNat with h | h
  · rw [max_eq_right h.le, ofInt_toNat_self, if_pos (decide_eq_true h)]
  · rw [max_eq_left h, ofInt_toNat_self, if_neg (by simpa using h)]

/-! ### The results of ALU -/

/-- The low bits read as unsigned are the number of the word's narrower form. -/
theorem uns_eq_toNat (n : Nat) (a : Word) : Spec.uns n a = (a.setWidth n).toNat := (BitVec.toNat_setWidth n a).symm

/-- A result at a width, from what the operation gives on the operands' low bits (R158). -/
theorem atWidth_eq_low {op : (n : Nat) → BitVec n → BitVec n → BitVec n} {a b : Word} (v : Nat → Int)
    (h : ∀ n, n = 32 ∨ n = 64 → op n (a.setWidth n) (b.setWidth n) = BitVec.ofInt n (v n)) (w : BitVec 1) :
    atWidth w (op 64) (op 32) a b = Spec.low (Spec.width w) (v (Spec.width w)) := by
  by_cases hw : w = 1
  · rw [show Spec.width w = 32 from if_pos hw, low_eq_signExtend (by decide), ← h 32 (.inl rfl)]
    exact if_pos hw
  · rw [show Spec.width w = 64 from if_neg hw, low_eq_signExtend (by decide), ← h 64 (.inr rfl), BitVec.signExtend_eq, BitVec.setWidth_eq,
      BitVec.setWidth_eq]
    exact if_neg hw

theorem width_pos {n : Nat} (hn : n = 32 ∨ n = 64) : 0 < n := by omega

section Results

variable (w : BitVec 1) (a b : Word)

theorem subRes_eq : subRes w a b = Spec.low (Spec.width w) (Spec.sgn (Spec.width w) a - Spec.sgn (Spec.width w) b) :=
  atWidth_eq_low (op := fun _ x y => x - y) (fun n => Spec.sgn n a - Spec.sgn n b) (fun n hn => by
    rw [sgn_eq_toInt (width_pos hn), sgn_eq_toInt (width_pos hn), ofInt_sub_toInt]) w

theorem andRes_eq : andRes w a b = Spec.low (Spec.width w) ((a &&& b).toNat : Int) :=
  atWidth_eq_low (op := fun _ x y => x &&& y) (fun _ => ((a &&& b).toNat : Int)) (fun n _ => by
    rw [ofInt_toNat, BitVec.setWidth_and]) w

theorem orRes_eq : orRes w a b = Spec.low (Spec.width w) ((a ||| b).toNat : Int) :=
  atWidth_eq_low (op := fun _ x y => x ||| y) (fun _ => ((a ||| b).toNat : Int)) (fun n _ => by
    rw [ofInt_toNat, BitVec.setWidth_or]) w

theorem xorRes_eq : xorRes w a b = Spec.low (Spec.width w) ((a ^^^ b).toNat : Int) :=
  atWidth_eq_low (op := fun _ x y => x ^^^ y) (fun _ => ((a ^^^ b).toNat : Int)) (fun n _ => by
    rw [ofInt_toNat, BitVec.setWidth_xor]) w

theorem andnRes_eq : andnRes w a b = Spec.low (Spec.width w) ((a &&& ~~~b).toNat : Int) :=
  atWidth_eq_low (op := fun _ x y => x &&& ~~~y) (fun _ => ((a &&& ~~~b).toNat : Int)) (fun n hn => by
    rw [ofInt_toNat, BitVec.setWidth_and, BitVec.setWidth_not (by omega)]) w

theorem sllRes_eq : sllRes w a b = Spec.low (Spec.width w) (Spec.uns (Spec.width w) a * 2 ^ (b.toNat % Spec.width w) : Nat) :=
  atWidth_eq_low (op := fun n x y => x <<< (y.toNat % n)) (fun n => (Spec.uns n a * 2 ^ (b.toNat % n) : Nat)) (fun n hn => by
    rw [uns_eq_toNat, ofInt_shiftLeft, toNat_setWidth_mod hn]) w

theorem srlRes_eq : srlRes w a b = Spec.low (Spec.width w) (Spec.uns (Spec.width w) a / 2 ^ (b.toNat % Spec.width w) : Nat) :=
  atWidth_eq_low (op := fun n x y => x >>> (y.toNat % n)) (fun n => (Spec.uns n a / 2 ^ (b.toNat % n) : Nat)) (fun n hn => by
    rw [uns_eq_toNat, ofInt_ushiftRight, toNat_setWidth_mod hn]) w

theorem sraRes_eq : sraRes w a b = Spec.low (Spec.width w) (Spec.sgn (Spec.width w) a / 2 ^ (b.toNat % Spec.width w)) :=
  atWidth_eq_low (op := fun n x y => x.sshiftRight (y.toNat % n)) (fun n => Spec.sgn n a / 2 ^ (b.toNat % n)) (fun n hn => by
    rw [sgn_eq_toInt (width_pos hn), ofInt_sshiftRight, toNat_setWidth_mod hn]) w

theorem rorRes_eq : rorRes w a b = Spec.low (Spec.width w) (Spec.uns (Spec.width w) a / 2 ^ (b.toNat % Spec.width w) +
      Spec.uns (Spec.width w) a * 2 ^ (Spec.width w - b.toNat % Spec.width w) : Nat) :=
  atWidth_eq_low (op := fun n x y => x.rotateRight (y.toNat % n))
    (fun n => (Spec.uns n a / 2 ^ (b.toNat % n) + Spec.uns n a * 2 ^ (n - b.toNat % n) : Nat)) (fun n hn => by
    rw [uns_eq_toNat, ofInt_rotateRight (Nat.mod_lt _ (width_pos hn)), toNat_setWidth_mod hn]) w

theorem mulRes_eq : mulRes w a b = Spec.low (Spec.width w) (Spec.sgn (Spec.width w) a * Spec.sgn (Spec.width w) b) :=
  atWidth_eq_low (op := fun _ x y => x * y) (fun n => Spec.sgn n a * Spec.sgn n b) (fun n hn => by
    rw [sgn_eq_toInt (width_pos hn), sgn_eq_toInt (width_pos hn), ofInt_mul_toInt]) w

theorem mulhRes_eq : mulhRes w a b =
    Spec.low (Spec.width w) (Spec.sgn (Spec.width w) a * Spec.sgn (Spec.width w) b / 2 ^ Spec.width w) :=
  atWidth_eq_low (op := fun _ => mulHighS) (fun n => Spec.sgn n a * Spec.sgn n b / 2 ^ n) (fun n hn => by
    rw [sgn_eq_toInt (width_pos hn), sgn_eq_toInt (width_pos hn), mulHighS_eq]) w

theorem mulhuRes_eq : mulhuRes w a b =
    Spec.low (Spec.width w) (Spec.uns (Spec.width w) a * Spec.uns (Spec.width w) b / 2 ^ Spec.width w : Nat) :=
  atWidth_eq_low (op := fun _ => mulHighU) (fun n => (Spec.uns n a * Spec.uns n b / 2 ^ n : Nat)) (fun n _ => by
    rw [uns_eq_toNat, uns_eq_toNat, mulHighU_eq]) w

theorem minRes_eq : minRes w a b = Spec.low (Spec.width w) (min (Spec.sgn (Spec.width w) a) (Spec.sgn (Spec.width w) b)) :=
  atWidth_eq_low (op := fun _ => sminB) (fun n => min (Spec.sgn n a) (Spec.sgn n b)) (fun n hn => by
    rw [sgn_eq_toInt (width_pos hn), sgn_eq_toInt (width_pos hn), sminB_eq]) w

theorem maxRes_eq : maxRes w a b = Spec.low (Spec.width w) (max (Spec.sgn (Spec.width w) a) (Spec.sgn (Spec.width w) b)) :=
  atWidth_eq_low (op := fun _ => smaxB) (fun n => max (Spec.sgn n a) (Spec.sgn n b)) (fun n hn => by
    rw [sgn_eq_toInt (width_pos hn), sgn_eq_toInt (width_pos hn), smaxB_eq]) w

theorem minuRes_eq : minuRes w a b = Spec.low (Spec.width w) (min (Spec.uns (Spec.width w) a) (Spec.uns (Spec.width w) b) : Nat) :=
  atWidth_eq_low (op := fun _ => uminB) (fun n => (min (Spec.uns n a) (Spec.uns n b) : Nat)) (fun n _ => by
    rw [uns_eq_toNat, uns_eq_toNat, uminB_eq]) w

theorem maxuRes_eq : maxuRes w a b = Spec.low (Spec.width w) (max (Spec.uns (Spec.width w) a) (Spec.uns (Spec.width w) b) : Nat) :=
  atWidth_eq_low (op := fun _ => umaxB) (fun n => (max (Spec.uns n a) (Spec.uns n b) : Nat)) (fun n _ => by
    rw [uns_eq_toNat, uns_eq_toNat, umaxB_eq]) w

end Results

/-! ### O2 -/

/-- A literal read at a width is its own signed value (R151). -/
theorem sgn_litAlu (w : BitVec 1) (lit : BitVec 32) : Spec.sgn (Spec.width w) (litAlu lit) = Spec.imm lit := by
  have hsgn {n : Nat} (hn : n = 32 ∨ n = 64) : Spec.sgn n (litAlu lit) = lit.toInt := by
    rw [sgn_eq_toInt (width_pos hn)]
    rcases hn with rfl | rfl
    · have hlow : (lit.signExtend 64).setWidth 32 = lit := by
        ext i hi
        rw [BitVec.getElem_setWidth, BitVec.getLsbD_signExtend, if_pos hi]
        simp [show i < 64 by omega, BitVec.getLsbD_eq_getElem hi]
      rw [litAlu, hlow]
    · rw [litAlu, BitVec.setWidth_eq, BitVec.toInt_signExtend_of_le (by decide)]
  rw [Spec.width]
  split
  · exact hsgn (.inl rfl)
  · exact hsgn (.inr rfl)

/-- Settles O2: each result at the width, for the literal as second operand. -/
theorem aluLiteralForms : Obligations.AluLiteralForms := by
  intro s w ra rd stl lit h ha hd a b n u sh res
  have hres {f : Word → Word} {v : Int} (lat : Nat) (hv : f a = Spec.low n v) : issue 8 stl (unaryM ra rd lat f) s = res v lat := by
    rw [unaryM_at h lat f ha hd, hv]
  have himm : Spec.sgn n b = Spec.imm lit := sgn_litAlu w lit
  rw [← himm]
  exact ⟨hres 1 (addRes_eq w a b), hres 1 (subRes_eq w a b), hres 1 (andRes_eq w a b), hres 1 (orRes_eq w a b), hres 1 (xorRes_eq w a b),
    hres 1 (andnRes_eq w a b), hres 1 (sllRes_eq w a b), hres 1 (srlRes_eq w a b), hres 1 (sraRes_eq w a b), hres 1 (rorRes_eq w a b),
    hres 3 (mulRes_eq w a b), hres 3 (mulhRes_eq w a b), hres 3 (mulhuRes_eq w a b), hres 1 (minRes_eq w a b), hres 1 (maxRes_eq w a b),
    hres 1 (minuRes_eq w a b), hres 1 (maxuRes_eq w a b)⟩

end Sys2Proof.Machine

/-! A step runs what its fetch gives (spec/08_encoding.md R135 to R137, R154), and time that passes under an agenda. -/

namespace Sys2Proof.Machine
open Host Encoding

/-! ### The literal decides nothing -/

/-- Whether a 32-bit instruction is one, and is well formed, does not depend on its literal. -/
theorem decodeMajor_literal {i : Instr} {w lit : Nat} (h : decodeMajor w lit = .ok i) (lit' : Nat) :
    ∃ j, decodeMajor w lit' = .ok j ∧ wf j = wf i := by
  unfold decodeMajor at h ⊢
  split at h
  case h_1 | h_7 =>
    simp only [decodeAlu, decodeFps] at h ⊢
    split at h
    all_goals repeat' split at h
    all_goals cases h
    all_goals
      simp only [*, reduceIte, Bool.false_eq_true]
      exact ⟨_, rfl, rfl⟩
  all_goals exact ⟨i, h, rfl⟩

theorem decodeWord_literal {i : Instr} {w lit : Nat} (h : decodeWord w lit = .ok i) (lit' : Nat) : ∃ j, decodeWord w lit' = .ok j := by
  obtain ⟨hdec, hwf⟩ := checkFields_eq_ok_iff.mp h
  obtain ⟨j, hj, hjwf⟩ := decodeMajor_literal hdec lit'
  exact ⟨j, checkFields_eq_ok_iff.mpr ⟨hj, hjwf.trans hwf⟩⟩

/-! ### What eight bytes give -/

/-- What a fetch that meets no fault gives where the bytes at the PC are `bs`: the literal is read once the word before it is known to be an
instruction (R137). -/
def fetched (s : State) (bs : List Byte) : Fetched :=
  if leNat (bs.take 2) % 2 = 0 then
    match decodeHalf (leNat (bs.take 2)) with
    | .ok i => .instr s i
    | .error _ => .bad s (BitVec.ofNat 32 (leNat (bs.take 2)))
  else
    match decodeWord (leNat (bs.take 4)) 0 with
    | .error _ => .bad s (BitVec.ofNat 32 (leNat (bs.take 4)))
    | .ok i =>
      if hasLiteral (leNat (bs.take 4)) then
        match decodeWord (leNat (bs.take 4)) (leNat ((bs.drop 4).take 4)) with
        | .ok j => .instr s j
        | .error _ => .bad s (BitVec.ofNat 32 (leNat (bs.take 4)))
      else .instr s i

/-- The low half of an odd word is odd. -/
theorem low_half_odd {w : Nat} (h : w % 2 = 1) : ¬ w % 256 ^ 2 % 2 = 0 := by omega

theorem fetched_of_decode (s : State) {bs rest : List Byte} {i : Instr} (h : decode bs = .ok (i, rest)) : fetched s bs = .instr s i := by
  unfold fetched
  cases decodesTo_of_decode h with
  | half hv heven hdec => simp only [leNat_take_leBytes_self hv, heven, hdec, reduceIte]
  | word hw hodd hlit hdec =>
    simp only [leNat_take_leBytes_self hw, leNat_take_leBytes (show 2 ≤ 4 by decide), low_half_odd hodd, hlit, hdec, reduceIte, Bool.false_eq_true]
  | long hw hl hodd hlit hdec =>
    obtain ⟨j, hj⟩ := decodeWord_literal hdec 0
    simp only [leNat_take_leBytes_self hw, leNat_take_leBytes (show 2 ≤ 4 by decide), List.drop_left' (length_leBytes 4 _),
      leNat_take_leBytes_self hl, low_half_odd hodd, hlit, hj, hdec, reduceIte]

theorem fetched_of_decode_error (s : State) {bs : List Byte} (hlen : 8 ≤ bs.length) (h : ∀ r, decode bs ≠ .ok r) :
    fetched s bs = .bad s (BitVec.ofNat 32 (leNat (bs.take (if leNat (bs.take 2) % 2 = 0 then 2 else 4)))) := by
  have hmod := leNat_take_mod (show 2 ≤ 4 by decide) (show 4 ≤ bs.length by omega)
  have hfour := leBytes_take_append_drop (show 4 ≤ bs.length by omega)
  unfold fetched
  split
  case isTrue heven =>
    split
    case h_1 i hdec =>
      have hdecodes := DecodesTo.half (rest := bs.drop 2) (leNat_take_lt 2 bs) heven hdec
      rw [leBytes_take_append_drop (by omega)] at hdecodes
      exact absurd hdecodes.decode_eq (h _)
    case h_2 => rfl
  case isFalse hodd =>
    have hodd : leNat (bs.take 4) % 2 = 1 := by omega
    split
    case h_1 => rfl
    case h_2 i hdec =>
      split
      case isFalse hlit =>
        have hdecodes := DecodesTo.word (rest := bs.drop 4) (leNat_take_lt 4 bs) hodd (by simpa using hlit) hdec
        rw [hfour] at hdecodes
        exact absurd hdecodes.decode_eq (h _)
      case isTrue hlit =>
        split
        case h_1 j hdec =>
          have hdecodes := DecodesTo.long (rest := (bs.drop 4).drop 4) (leNat_take_lt 4 bs) (leNat_take_lt 4 _) hodd hlit hdec
          rw [leBytes_take_append_drop (by rw [List.length_drop]; omega), hfour] at hdecodes
          exact absurd hdecodes.decode_eq (h _)
        case h_2 => rfl

theorem Memory.take_read (m : Memory) (a : Nat) {k n : Nat} (h : k ≤ n) : (m.read a n).take k = m.read a k := by
  apply List.ext_getElem
  · simp [Memory.read, h]
  · intro i _ _
    simp [Memory.read, getElem_spanOf]

/-! ### Fetching from the core's own system area -/

section OwnCode

variable {s : State} {k : Nat}

theorem window_sys {o : Nat} (ho : o < 0x8000) : s.window k (Spec.sysBase + o) false = some (.arr k o) := by
  unfold State.window Spec.sysBase sysWindow padWindow
  rw [if_pos (by omega), if_neg (by decide), Nat.add_sub_cancel_left]

theorem translate_sys {o : Nat} (ho : o < 0x8000) (a : Acc) :
    s.translate k (Spec.sysBase + o) a = (s, .ok { place := .arr k o, ord := .rc, hint := .default, shd := false }) := by
  unfold State.translate
  rw [if_pos (by unfold Spec.sysBase windowBase; omega), window_sys ho]

theorem fetchBytes_arr (hhide : (s.core k).hide = []) (c : OrdClass) (o : Nat) : s.fetchBytes k c (.arr k o) = (s, (s.core k).arr.read o 2) := by
  simp [State.fetchBytes, State.oldByte, State.newByte, State.seenByte, Place.add, Memory.read, spanOf, hhide]

variable (hhide : (s.core k).hide = []) (hbad : ∀ a, (s.core k).arr.isBad a = false)
include hhide hbad

theorem fetchHalf_sys {o : Nat} (ho : o < 0x8000) : s.fetchHalf k (Spec.sysBase + o) = (s, .ok ((s.core k).arr.read o 2)) := by
  simp [State.fetchHalf, translate_sys ho, State.seenBad, Place.add, hbad, fetchBytes_arr hhide, State.touch]

theorem fetchHalves_sys (n : Nat) {o : Nat} (ho : o + 2 * n ≤ 0x8000) :
    s.fetchHalves k (Spec.sysBase + o) n = (s, .ok ((s.core k).arr.read o (2 * n))) := by
  induction n generalizing o with
  | zero => rfl
  | succ n ih =>
    have hnext : (Spec.sysBase + o + 2) % vaSpace = Spec.sysBase + (o + 2) := by unfold Spec.sysBase vaSpace; omega
    rw [State.fetchHalves, fetchHalf_sys hhide hbad (by omega)]
    simp only [hnext]
    rw [ih (by omega)]
    rfl

/-- The fetch of instruction bytes that lie in the core's own system area meets no fault, and gives what the bytes say. -/
theorem fetch_sys {o : Nat} (hpc : (s.core k).pc.toNat = Spec.sysBase + o) (ho : o + 8 ≤ 0x8000) :
    s.fetch k = fetched s ((s.core k).arr.read o 8) := by
  have hnext (m : Nat) (hm : m ≤ 4) : (Spec.sysBase + o + m) % vaSpace = Spec.sysBase + (o + m) := by unfold Spec.sysBase vaSpace; omega
  have hfirst := fetchHalves_sys hhide hbad 1 (o := o) (by omega)
  have hsecond := fetchHalves_sys hhide hbad 1 (o := o + 2) (by omega)
  have hliteral := fetchHalves_sys hhide hbad 2 (o := o + 4) (by omega)
  simp only [State.fetch, hpc, hnext 2 (by omega), hnext 4 le_rfl, hfirst, hsecond, hliteral]
  rfl

end OwnCode

/-! ### The turn of a core -/

theorem exists_thread {c : Core} (h : c.isThread = true) : ∃ fn p e handler, c.run = .thread fn p e handler := by
  unfold Core.isThread at h
  split at h
  case h_1 fn p e handler heq => exact ⟨fn, p, e, handler, heq⟩
  case h_2 => cases h

/-- A core with work and nothing owed runs one instruction. -/
theorem coreTurn_of_runs {s : State} (h : Spec.Runs s) : s.coreTurn = s.runOne s.cur := by
  obtain ⟨hwork, hhere, hstopped, hrecord, hdeliver, hundo, hfiring, hmchk, hbudget, hnote, hpreempt⟩ := h
  have hsaved := isSaved_eq_false hhere
  have hwaits : s.recordWaits s.cur = false := by rw [State.recordWaits, show (s.core s.cur).waitRecord = none from hrecord]
  have hstop : s.mustStop s.cur = false := by rw [State.mustStop, show (s.core s.cur).preempt = false from hpreempt, Bool.false_and]
  simp only [State.me] at hwork hstopped hdeliver hundo hmchk hbudget hnote
  have hrun : (∃ n, (s.core s.cur).run = .firing n) ∨ ∃ fn p e handler, (s.core s.cur).run = .thread fn p e handler :=
    hwork.imp_right exists_thread
  rcases hrun with ⟨n, hrun⟩ | ⟨fn, p, e, handler, hrun⟩
  all_goals
    rcases hf : s.firingOf s.cur with _ | f
    · simp [State.coreTurn, hrun, hf, hsaved, hstopped, hwaits, hdeliver, hundo, hmchk, hstop, hbudget, hnote]
    · obtain ⟨hdoomed, hnotified⟩ := hfiring f hf
      simp [State.coreTurn, hrun, hf, hdoomed, hnotified, hsaved, hstopped, hwaits, hdeliver, hundo, hmchk, hstop, hbudget, hnote]

theorem runOne_instr {s t : State} {k : Nat} {i : Instr} (h : s.fetch k = .instr t i) : s.runOne k = exec i t := by
  rw [State.runOne, h]

theorem runOne_bad {s t : State} {k : Nat} {bits : BitVec 32} (h : s.fetch k = .bad t bits) :
    s.runOne k = .next (t.takeTrap t.cur 1 (bits.setWidth 64)) := by
  rw [State.runOne, h]
  rfl

/-! ### Time that passes -/

theorem clock_withdraw (s : State) (o : Offer) : (s.withdraw o).clock = s.clock := by
  have hrelease (t : State) (g : Grp) : (t.releaseTiles o.region o.copy o.lslice g.tiles).clock = t.clock := by
    unfold State.releaseTiles
    dsimp only
    split <;> rfl
  unfold State.withdraw
  refine List.foldlRecOn (motive := fun t : State => t.clock = s.clock) o.groups _ ?_ fun t ht g _ => (hrelease t g).trans ht
  split <;> rfl

theorem clock_withdrawRegion (s : State) (r : Nat) : (s.withdrawRegion r).clock = s.clock :=
  List.foldlRecOn (motive := fun t : State => t.clock = s.clock) _ _ rfl fun t ht o _ => (clock_withdraw t o).trans ht

theorem clock_drain (s : State) (r : Nat) : (s.drain r).clock = s.clock := by
  unfold State.drain
  split
  · rfl
  split
  · exact (clock_withdrawRegion _ r).trans (congrArg State.clock (beyondMemory_putStatus _ r) :)
  · rfl

theorem clock_spendBudget (s : State) (r which : Nat) : (s.spendBudget r which).clock = s.clock := by
  unfold State.spendBudget
  split
  · rfl
  dsimp only
  split
  · refine List.foldlRecOn (motive := fun t : State => t.clock = s.clock) _ _ (clock_drain _ r) fun t ht f _ => ?_
    refine List.foldlRecOn (motive := fun t : State => t.clock = s.clock) _ _ ht fun u hu k _ => ?_
    split <;> exact hu
  · exact clock_drain _ r

theorem clock_reserve (s : State) (g : Region) (copy l : Nat) (m : Nat × List Tile × Nat) : (s.reserve g copy l m).clock = s.clock := by
  unfold State.reserve
  dsimp only
  split <;> rfl

theorem clock_growGang {s u : State} {g : Region} {sl : Nat} {o : Offer} {ts : List Tile} (h : s.growGang g sl o ts = some u) :
    u.clock = s.clock := by
  unfold State.growGang at h
  split at h
  case h_1 =>
    split at h
    case isTrue => cases h; rfl
    case isFalse =>
      split at h
      case isTrue => cases h
      case isFalse => cases h; rfl
  case h_2 =>
    split at h
    case isTrue => cases h
    case isFalse =>
      cases h
      exact (apply_ite State.clock _ _ _).trans (ite_self _)

theorem clock_servePair {s u : State} {sl key : Nat} (h : s.servePair sl key = some u) : u.clock = s.clock := by
  simp only [State.servePair] at h
  split at h
  case h_1 => cases h
  case h_2 =>
  split at h
  case isTrue => cases h
  case isFalse =>
  split at h
  case h_1 => exact clock_growGang h
  case h_2 =>
  split at h
  case h_1 => cases h
  case h_2 =>
  split at h
  case isTrue => cases h; exact clock_spendBudget s _ 1
  case isFalse =>
  split at h
  case isTrue => cases h
  case isFalse => cases h; exact clock_reserve s _ _ _ _

theorem clock_served (s u : State) (sl key : Nat) : (s.served u sl key).clock = u.clock := by
  unfold State.served
  split <;> rfl

theorem clock_ownMatch (s : State) (sl : Nat) : (s.ownMatch sl).clock = s.clock := by
  unfold State.ownMatch
  dsimp only
  split
  · rfl
  split
  case h_1 k _ =>
    split
    case h_1 => rfl
    case h_2 u hserve => exact (clock_served s u sl k).trans (clock_servePair hserve)
  case h_2 => rfl

theorem clock_elapse (s : State) (n : Nat) : (s.elapse n).clock = s.clock + n := by
  induction n generalizing s with
  | zero => rfl
  | succ n ih =>
    rw [State.elapse]
    split
    · rfl
    · have hmatch : (s.tiledSlices.foldl State.ownMatch s).clock = s.clock :=
        List.foldlRecOn (motive := fun t : State => t.clock = s.clock) _ _ rfl fun t ht sl _ => (clock_ownMatch t sl).trans ht
      rw [ih, State.pass, hmatch, Nat.add_assoc, Nat.add_comm 1 n]

theorem elapse_still {s : State} (h : s.stillSieves = true) (n : Nat) : s.elapse n = s ∨ s.elapse n = s.pass n := by
  cases n with
  | zero => exact .inl rfl
  | succ n => exact .inr (by rw [State.elapse, if_pos h])

/-! ### O58 -/

/-- Settles O58: nothing that a core may owe comes before its fetch, and the fetch of its own system area gives what the bytes there say. -/
theorem stepRunsDecoded : Obligations.StepRunsDecoded := by
  unfold Obligations.StepRunsDecoded
  intro s
  refine ⟨fun hagenda hruns => ?_, fun k r h => ?_, fun i r h henc => ?_, fun k g r h => ?_, fun n r h => ?_⟩
  · have hstep : step s = s.runOne s.cur := by rw [step, hagenda]; exact coreTurn_of_runs hruns
    refine ⟨fun t i hfetch => hstep.trans (runOne_instr hfetch), fun o i rest hpc ho hhide hbad hdec => ?_, fun o hpc ho hhide hbad hdec => ?_⟩
    · have hfetch : s.fetch s.cur = fetched s (s.me.arr.read o 8) := fetch_sys hhide hbad hpc ho
      rw [fetched_of_decode s hdec] at hfetch
      obtain ⟨hwf, -⟩ := decodeEncode i _ rest hdec
      exact ⟨hwf, hstep.trans (runOne_instr hfetch)⟩
    · have hfetch : s.fetch s.cur = fetched s (s.me.arr.read o 8) := fetch_sys hhide hbad hpc ho
      have hlength : 8 ≤ (s.me.arr.read o 8).length := (length_spanOf _ o 8).ge
      rw [fetched_of_decode_error s hlength hdec] at hfetch
      have hlen : (if leNat ((s.me.arr.read o 8).take 2) % 2 = 0 then 2 else 4) ≤ 4 := by split <;> decide
      have hbits := (leNat_take_lt _ (s.me.arr.read o 8)).trans_le (Nat.pow_le_pow_right (by decide) hlen)
      rw [hstep, runOne_bad hfetch, BitVec.setWidth_ofNat_of_le_of_lt (by decide) hbits, Memory.take_read _ _ (hlen.trans (show 4 ≤ 8 by decide)),
        Memory.take_read _ _ (show 2 ≤ 8 by decide)]
  · rw [step, h]
    rfl
  · rw [step, h]
    simp only [State.turn, henc]
  · rw [step, h]
    rfl
  · refine ⟨State.elapse { s with agenda := r } n, by rw [step, h]; rfl, clock_elapse _ n, fun hstill => ?_⟩
    rcases elapse_still (s := { s with agenda := r }) hstill n with heq | heq
    all_goals
      rw [heq]
      exact ⟨rfl, rfl, rfl⟩

end Sys2Proof.Machine

/-! The integer instructions with a register or constant operand (spec/09_scalar_instructions.md R161 to R163). -/

namespace Sys2Proof.Machine
open Host

/-! ### O1 -/

/-- Settles O1: each result at the width, for the register or constant as second operand. -/
theorem aluRegisterForms : Obligations.AluRegisterForms := by
  intro s k w rb ra rd stl h ha hb hd a b n u sh res
  have hres {bits : Word} {f : Word → Word → Word} {v : Int} (lat : Nat) (hv : f a b = Spec.low n v) :
      issue 4 stl (aluM bits k rb ra rd lat f) s = res v lat := by
    rw [aluM_at h bits lat f ha hb hd, hv]
  exact ⟨hres 1 (addRes_eq w a b), hres 1 (subRes_eq w a b), hres 1 (andRes_eq w a b), hres 1 (orRes_eq w a b), hres 1 (xorRes_eq w a b),
    hres 1 (andnRes_eq w a b), hres 1 (sllRes_eq w a b), hres 1 (srlRes_eq w a b), hres 1 (sraRes_eq w a b), hres 1 (rorRes_eq w a b),
    hres 3 (mulRes_eq w a b), hres 3 (mulhRes_eq w a b), hres 3 (mulhuRes_eq w a b), hres 1 (minRes_eq w a b), hres 1 (maxRes_eq w a b),
    hres 1 (minuRes_eq w a b), hres 1 (maxuRes_eq w a b)⟩

end Sys2Proof.Machine

/-! Quotients and remainders (spec/09_scalar_instructions.md R163). -/

namespace Sys2Proof.Machine
open Host

/-! ### Quotients and remainders of integers -/

/-- The quotient rounded toward zero, by signs and magnitudes. -/
theorem sign_mul_natAbs_div (a b : Int) : Int.sign a * Int.sign b * (a.natAbs / b.natAbs : Nat) = a.tdiv b := by
  rw [← Int.sign_mul_natAbs (a.tdiv b), Int.sign_tdiv, Int.natAbs_tdiv]
  split
  case isTrue h => rw [show a.natAbs / b.natAbs = 0 from Nat.div_eq_of_lt h, Int.natCast_zero, Int.mul_zero, Int.zero_mul]
  case isFalse => rfl

/-- The remainder with the sign of the dividend, by its magnitude. -/
theorem sign_mul_natAbs_mod (a b : Int) : Int.sign a * (a.natAbs % b.natAbs : Nat) = a.tmod b := by
  rw [← Int.sign_mul_natAbs (a.tmod b), Int.sign_tmod, Int.natAbs_tmod]
  split
  case isTrue h => rw [Nat.mod_eq_zero_of_dvd (Int.natAbs_dvd_natAbs.2 h), Int.natCast_zero, Int.mul_zero, Int.zero_mul]
  case isFalse => rfl

theorem quot_eq (n : Nat) (a b : Int) : Spec.quot n a b = Spec.low n (if b = 0 then -1 else a.tdiv b) := by
  rw [Spec.quot, sign_mul_natAbs_div]
  split <;> rfl

theorem rem_eq (n : Nat) (a b : Int) : Spec.rem n a b = Spec.low n (if b = 0 then a else a.tmod b) := by
  rw [Spec.rem, sign_mul_natAbs_mod]
  split <;> rfl

/-! ### The divisions of bit vectors -/

section Divisions

variable {n : Nat} (x y : BitVec n)

theorem toInt_eq_zero_iff : y.toInt = 0 ↔ y = 0 := by
  rw [← BitVec.toInt_inj]
  simp

theorem toNat_eq_zero_iff : (y.toNat : Int) = 0 ↔ y = 0 := by
  rw [← BitVec.toNat_inj]
  simp

theorem ofInt_neg_one : BitVec.ofInt n (-1) = BitVec.allOnes n := by
  rw [BitVec.ofInt_neg, ← BitVec.neg_one_eq_allOnes]
  rfl

theorem divS_eq : divS x y = BitVec.ofInt n (if y.toInt = 0 then -1 else x.toInt.tdiv y.toInt) := by
  simp only [divS, toInt_eq_zero_iff]
  split
  · exact ofInt_neg_one.symm
  · rfl

theorem divU_eq : divU x y = BitVec.ofInt n (if (y.toNat : Int) = 0 then -1 else (x.toNat : Int).tdiv y.toNat) := by
  simp only [divU, toNat_eq_zero_iff]
  split
  · exact ofInt_neg_one.symm
  · rw [← Int.ofNat_tdiv, ← BitVec.toNat_udiv, ofInt_toNat_self]

theorem remS_eq : remS x y = BitVec.ofInt n (if y.toInt = 0 then x.toInt else x.toInt.tmod y.toInt) := by
  simp only [remS, toInt_eq_zero_iff]
  split
  · exact (BitVec.ofInt_toInt).symm
  · rfl

theorem remU_eq : remU x y = BitVec.ofInt n (if (y.toNat : Int) = 0 then x.toNat else (x.toNat : Int).tmod y.toNat) := by
  simp only [remU, toNat_eq_zero_iff]
  split
  · exact (ofInt_toNat_self x).symm
  · rw [← Int.ofNat_tmod, ← BitVec.toNat_umod, ofInt_toNat_self]

end Divisions

/-! ### The results of DIV, DIVU, REM and REMU -/

section Results

variable (w : BitVec 1) (a b : Word)

theorem divRes_eq : divRes w a b = Spec.quot (Spec.width w) (Spec.sgn (Spec.width w) a) (Spec.sgn (Spec.width w) b) := by
  rw [quot_eq]
  exact atWidth_eq_low (op := fun _ => divS) (fun n => if Spec.sgn n b = 0 then -1 else (Spec.sgn n a).tdiv (Spec.sgn n b)) (fun n hn => by
    rw [sgn_eq_toInt (width_pos hn), sgn_eq_toInt (width_pos hn), divS_eq]) w

theorem divuRes_eq : divuRes w a b = Spec.quot (Spec.width w) (Spec.uns (Spec.width w) a) (Spec.uns (Spec.width w) b) := by
  rw [quot_eq]
  exact atWidth_eq_low (op := fun _ => divU) (fun n => if (Spec.uns n b : Int) = 0 then -1 else (Spec.uns n a : Int).tdiv (Spec.uns n b))
    (fun n _ => by rw [uns_eq_toNat, uns_eq_toNat, divU_eq]) w

theorem remRes_eq : remRes w a b = Spec.rem (Spec.width w) (Spec.sgn (Spec.width w) a) (Spec.sgn (Spec.width w) b) := by
  rw [rem_eq]
  exact atWidth_eq_low (op := fun _ => remS) (fun n => if Spec.sgn n b = 0 then Spec.sgn n a else (Spec.sgn n a).tmod (Spec.sgn n b))
    (fun n hn => by rw [sgn_eq_toInt (width_pos hn), sgn_eq_toInt (width_pos hn), remS_eq]) w

theorem remuRes_eq : remuRes w a b = Spec.rem (Spec.width w) (Spec.uns (Spec.width w) a) (Spec.uns (Spec.width w) b) := by
  rw [rem_eq]
  exact atWidth_eq_low (op := fun _ => remU)
    (fun n => if (Spec.uns n b : Int) = 0 then (Spec.uns n a : Int) else (Spec.uns n a : Int).tmod (Spec.uns n b))
    (fun n _ => by rw [uns_eq_toNat, uns_eq_toNat, remU_eq]) w

end Results

/-! ### The trap of a zero divisor -/

/-- A division by `b` traps: DZTRAP is set, and the divisor is zero at the width. -/
def trapsZero (s : State) (w : BitVec 1) (b : Word) : Bool := s.me.cr.frm.getLsbD 3 && decide (Spec.uns (Spec.width w) b = 0)

theorem zeroAt_eq (w : BitVec 1) (b : Word) :
    (if w = 1 then (b.setWidth 32 : BitVec 32) == 0 else b == 0) = decide (Spec.uns (Spec.width w) b = 0) := by
  have hzero (n : Nat) : Spec.uns n b = 0 ↔ b.setWidth n = 0 := by
    rw [uns_eq_toNat, ← BitVec.toNat_inj]
    simp
  rw [Spec.width]
  split
  · simp only [hzero]
    rfl
  · simp only [hzero, BitVec.setWidth_eq]
    rfl

theorem dzCheck_at (s : State) (len : Nat) (w : BitVec 1) (b : Word) :
    dzCheck w b (s.at len) = if trapsZero s w b then .error (.trap cDIVZERO 0) else .ok ((), s.at len) := by
  simp only [dzCheck, M.bind_run, M.getC_run, State.at_me, Core.begin_cr, zeroAt_eq, M.need_run]
  show (if (!trapsZero s w b) = true then _ else _) = _
  cases trapsZero s w b <;> rfl

section Trap

variable {s : State} {w : BitVec 1} {ra rd : BitVec 5} {stl : BitVec 2}

/-- A division whose operands are read, checked and written as R163 says. -/
theorem issue_division {len : Nat} {b : Word} {v : Word} {body : M Unit} (hd : s.mayWrite rd)
    (hbody : body (s.at len) = (do dzCheck w b; put rd v 0 : M Unit) (s.at len)) :
    issue len stl body s = if trapsZero s w b then .next (s.takeTrap s.cur 12 0) else .next (s.wrote len stl rd v 0) := by
  rw [M.bind_run, dzCheck_at] at hbody
  split
  case isTrue htrap =>
    rw [if_pos htrap] at hbody
    exact issue_trap hbody
  case isFalse hgoes =>
    rw [if_neg hgoes] at hbody
    exact issue_after (u := ()) (hbody.trans (put_at v 0 hd))

variable (h : Quiet s) (ha : s.plain ra) (hd : s.mayWrite rd)
include h ha hd

theorem divM_at (bits : Word) {k : BitVec 1} {rb : BitVec 5} (hb : s.hasB k rb) (f : Word → Word → Word) :
    issue 4 stl (divM bits k w rb ra rd f) s = if trapsZero s w (s.valB k rb) then .next (s.takeTrap s.cur 12 0)
      else .next (s.wrote 4 stl rd (f (s.me.reg ra.toNat) (s.valB k rb)) 0) := by
  refine issue_division hd ?_
  simp only [divM, M.bind_run, readyM_at h, src_at h ha, opb_at h hb]

theorem divLitM_at (lit : BitVec 32) (f : Word → Word → Word) :
    issue 8 stl (divLitM w ra rd lit f) s = if trapsZero s w (litAlu lit) then .next (s.takeTrap s.cur 12 0)
      else .next (s.wrote 8 stl rd (f (s.me.reg ra.toNat) (litAlu lit)) 0) := by
  refine issue_division hd ?_
  simp only [divLitM, M.bind_run, readyM_at h, src_at h ha]

end Trap

/-! ### O3 -/

/-- Settles O3: the trap of a zero divisor comes before the result, which is the quotient or remainder of R163 at the width. -/
theorem divisions : Obligations.Divisions := by
  intro s k w rb ra rd stl lit h ha hd a n dz out
  constructor
  · intro hb b
    have hres {bits : Word} {f : Word → Word → Word} {v : Word} (hv : f a b = v) :
        issue 4 stl (divM bits k w rb ra rd f) s = out 4 b v := by
      rw [divM_at h ha hd bits hb f, ← hv]
      rfl
    exact ⟨hres (divRes_eq w a b), hres (divuRes_eq w a b), hres (remRes_eq w a b), hres (remuRes_eq w a b)⟩
  · intro b
    have hres {f : Word → Word → Word} {v : Word} (hv : f a b = v) : issue 8 stl (divLitM w ra rd lit f) s = out 8 b v := by
      rw [divLitM_at h ha hd lit f, ← hv]
      rfl
    exact ⟨hres (divRes_eq w a b), hres (divuRes_eq w a b), hres (remRes_eq w a b), hres (remuRes_eq w a b)⟩

end Sys2Proof.Machine

/-! Counts of bits, selection, immediates and the compact arithmetic (spec/09_scalar_instructions.md R164, R165, R168 to R170, R178). -/

namespace Sys2Proof.Machine
open Host

/-! ### Counts of bits (R164) -/

theorem testBit_comp_succ (v : Nat) : v.testBit ∘ Nat.succ = (v / 2).testBit := funext fun i => Nat.testBit_succ v i

theorem find?_range_testBit (n v : Nat) : ((List.range n).find? v.testBit).getD n = ctzN n v := by
  induction n generalizing v with
  | zero => rfl
  | succ n ih =>
    rw [List.range_succ_eq_map, List.find?_cons, List.find?_map, testBit_comp_succ, ctzN, ← ih (v / 2), Nat.testBit_zero]
    by_cases hodd : v % 2 = 1
    · simp [hodd]
    · cases (List.range n).find? (v / 2).testBit <;> simp [hodd, Nat.add_comm]

theorem length_filter_testBit (n v : Nat) : ((List.range n).filter v.testBit).length = popN n v := by
  induction n generalizing v with
  | zero => rfl
  | succ n ih =>
    rw [List.range_succ_eq_map, List.filter_cons, List.filter_map, testBit_comp_succ, popN, ← ih (v / 2), Nat.testBit_zero]
    rcases Nat.mod_two_eq_zero_or_one v with hbit | hbit <;> simp [hbit, Nat.add_comm]

/-- From the top, the first set bit of a number is that of its logarithm. -/
theorem find?_range_testBit_down {n v : Nat} (hv : v < 2 ^ n) :
    ((List.range n).find? fun i => v.testBit (n - 1 - i)).getD n = n - bitLen v := by
  by_cases hzero : v = 0
  · have hfind : (List.range n).find? (fun i => v.testBit (n - 1 - i)) = none := by simp [hzero]
    rw [hfind, bitLen, if_pos hzero]
    rfl
  · have hlog : v.log2 < n := (Nat.log2_lt hzero).2 hv
    have hfind : (List.range n).find? (fun i => v.testBit (n - 1 - i)) = some (n - 1 - v.log2) := by
      rw [List.find?_range_eq_some]
      refine ⟨?_, List.mem_range.2 (by omega), fun j hj => ?_⟩
      · rw [show n - 1 - (n - 1 - v.log2) = v.log2 by omega]
        exact Nat.testBit_log2 hzero
      · rw [Nat.testBit_lt_two_pow (Nat.lt_log2_self.trans_le (Nat.pow_le_pow_right (by decide) (by omega)))]
        rfl
    rw [hfind, bitLen, if_neg hzero, Option.getD_some]
    omega

/-- The bits below `n` are those of the low bits read as unsigned. -/
theorem getLsbD_eq_testBit_uns (a : Word) {n i : Nat} (hi : i < n) : a.getLsbD i = (Spec.uns n a).testBit i := by
  rw [Spec.uns, Nat.testBit_mod_two_pow, decide_eq_true hi, Bool.true_and, BitVec.testBit_toNat]

theorem clz_eq (n : Nat) (a : Word) : Spec.clz n a = clzN n (Spec.uns n a) := by
  have hlt : Spec.uns n a < 2 ^ n := Nat.mod_lt _ (Nat.two_pow_pos n)
  rw [clzN, Nat.mod_eq_of_lt hlt, ← find?_range_testBit_down hlt, Spec.clz]
  congr 1
  exact List.find?_congr fun i hi => getLsbD_eq_testBit_uns a (by have := List.mem_range.1 hi; omega)

theorem ctz_eq (n : Nat) (a : Word) : Spec.ctz n a = ctzN n (Spec.uns n a) := by
  rw [← find?_range_testBit, Spec.ctz]
  congr 1
  exact List.find?_congr fun i hi => getLsbD_eq_testBit_uns a (List.mem_range.1 hi)

theorem popc_eq (n : Nat) (a : Word) : Spec.popc n a = popN n (Spec.uns n a) := by
  rw [← length_filter_testBit, Spec.popc]
  congr 1
  exact List.filter_congr fun i hi => getLsbD_eq_testBit_uns a (List.mem_range.1 hi)

/-- A count at the width of W is one of the low bits. -/
theorem countAt_eq (count : Nat → Nat → Nat) (w : BitVec 1) (a : Word) :
    (if w = 1 then count 32 (a.toNat % 2 ^ 32) else count 64 a.toNat) = count (Spec.width w) (Spec.uns (Spec.width w) a) := by
  rw [Spec.width]
  split
  · rfl
  · rw [Spec.uns, Nat.mod_eq_of_lt a.isLt]

/-! ### Results of 64 bits -/

theorem low_64 (v : Int) : Spec.low 64 v = BitVec.ofInt 64 v := by rw [low_eq_signExtend (by decide), BitVec.signExtend_eq]

theorem sgn_64 (a : Word) : Spec.sgn 64 a = a.toInt := by rw [sgn_eq_toInt (by decide), BitVec.setWidth_eq]

/-- A sum with a sign-extended immediate (R140, R168). -/
theorem low_64_add_imm (a : Word) {m : Nat} (i : BitVec m) : Spec.low 64 (Spec.sgn 64 a + Spec.imm i) = a + i.signExtend 64 := by
  rw [low_64, sgn_64, BitVec.ofInt_add, BitVec.ofInt_toInt]
  rfl

theorem low_64_add (a b : Word) : Spec.low 64 (Spec.sgn 64 a + Spec.sgn 64 b) = a + b := by
  rw [low_64, sgn_64, sgn_64, BitVec.ofInt_add, BitVec.ofInt_toInt, BitVec.ofInt_toInt]

theorem low_64_sub (a b : Word) : Spec.low 64 (Spec.sgn 64 a - Spec.sgn 64 b) = a - b := by
  rw [low_64, sgn_64, sgn_64, ofInt_sub_toInt]

theorem low_64_shiftLeft (a : Word) (k : Nat) : Spec.low 64 ((a.toNat * 2 ^ k : Nat) : Int) = a <<< k := by
  rw [low_64, ofInt_shiftLeft]

theorem low_64_ushiftRight (a : Word) (k : Nat) : Spec.low 64 ((a.toNat / 2 ^ k : Nat) : Int) = a >>> k := by
  rw [low_64, ofInt_ushiftRight]

theorem low_64_sshiftRight (a : Word) (k : Nat) : Spec.low 64 (Spec.sgn 64 a / 2 ^ k) = a.sshiftRight k := by
  rw [low_64, sgn_64, ofInt_sshiftRight]

/-! ### Upper immediates (R141) -/

theorem toNat_imm20 (i : BitVec 20) : (imm20 i).toNat = i.toNat * 2 ^ 12 := by
  rw [imm20, BitVec.toNat_append, Nat.shiftLeft_eq]
  exact Nat.or_zero _

theorem signExtend_imm20 (i : BitVec 20) : (imm20 i).signExtend 64 = Spec.low 32 ((i.toNat * 2 ^ 12 : Nat) : Int) := by
  rw [low_eq_signExtend (by decide), ← toNat_imm20, ofInt_toNat_self]

theorem setWidth_imm20 (i : BitVec 20) : (imm20 i).setWidth 64 = BitVec.ofNat 64 (i.toNat * 2 ^ 12) := by
  rw [← toNat_imm20, BitVec.ofNat_toNat]

/-! ### Whole instructions -/

section Whole

variable {s : State} {ra rb rd : BitVec 5} {stl : BitVec 2} (h : Quiet s) (hd : s.mayWrite rd)
include h hd

/-- LUI and FLI read nothing. -/
theorem immM_at (v : Word) (lat : Nat) :
    issue 4 0 (do readyM [] [] [rd] []; put rd v lat) s = .next (s.wrote 4 0 rd v lat) := by
  apply issue_after (u := ())
  simp only [M.bind_run, readyM_at h, put_at _ _ hd]

theorem compactM_at (hb : s.plain rb) (f : Word → Word → Word) :
    issue 2 0 (compactM rb rd f) s = .next (s.wrote 2 0 rd (f (s.me.reg rd.toNat) (s.me.reg rb.toNat)) 1) := by
  apply issue_after (u := ())
  simp only [compactM, M.bind_run, readyM_at h, src_at h hd.1, src_at h hb, put_at _ _ hd]

variable (ha : s.plain ra)
include ha

theorem exec_sel (hb : s.plain rb) (ps : BitVec 3) : exec (.sel ps rb ra rd stl) s =
    .next (s.wrote 4 stl rd (if s.me.pred ps.toNat then s.me.reg ra.toNat else s.me.reg rb.toNat) 1) := by
  apply issue_after (u := ())
  simp only [M.bind_run, readyM_at h, src_at h ha, src_at h hb, srcP_at h, put_at _ _ hd]

theorem exec_selL (ps : BitVec 3) (lit : BitVec 32) : exec (.selL ps ra rd stl lit) s =
    .next (s.wrote 8 stl rd (if s.me.pred ps.toNat then s.me.reg ra.toNat else litAlu lit) 1) := by
  apply issue_after (u := ())
  simp only [M.bind_run, readyM_at h, src_at h ha, srcP_at h, put_at _ _ hd]

end Whole

/-! ### O4 -/

/-- Settles O4: each instruction writes one result, which is the one of its rule. -/
theorem immediatesAndMoves : Obligations.ImmediatesAndMoves := by
  intro s w ps rb ra rd stl lit i12 sh i6 i20 h hd a n res
  refine ⟨fun ha => ?_, ?_, ?_, ?_⟩
  · have hres {f : Word → Word} {v : Word} (hv : f a = v) : issue 4 stl (unaryM ra rd 1 f) s = res 4 stl v 1 := by
      rw [unaryM_at h 1 f ha hd, ← hv]
    have hcount {count : Nat → Nat → Nat} {m : Nat} (hm : m = count n (Spec.uns n a)) :
        issue 4 stl (unaryM ra rd 1 fun x => BitVec.ofNat 64 (if w = 1 then count 32 (x.toNat % 2 ^ 32) else count 64 x.toNat)) s =
          res 4 stl (BitVec.ofNat 64 m) 1 :=
      hres (by rw [countAt_eq, hm])
    exact ⟨hcount (clz_eq n a), hcount (ctz_eq n a), hcount (popc_eq n a), fun hb => exec_sel h hd ha hb ps, exec_selL h hd ha ps lit,
      hres (low_64_add_imm a i12).symm, hres rfl, hres rfl, hres rfl, hres (low_64_shiftLeft a _).symm, hres (low_64_ushiftRight a _).symm,
      hres (low_64_sshiftRight a _).symm, unaryM_at h 1 _ ha hd⟩
  · rw [← signExtend_imm20]
    exact immM_at h hd _ 0
  · rw [← setWidth_imm20]
    exact immM_at h hd _ 0
  · intro hb d
    rw [low_64_add_imm, low_64_add, low_64_sub]
    exact ⟨unaryM_at h 1 _ hd.1 hd, compactM_at h hd hb _, compactM_at h hd hb _⟩

end Sys2Proof.Machine

/-! Comparisons and the logic of predicates (spec/09_scalar_instructions.md R166, R167; R125). -/

namespace Sys2Proof.Machine
open Host

/-! ### Conditions (R166) -/

theorem slt_eq_decide_sgn {n : Nat} (hn : 0 < n) (a b : Word) :
    (a.setWidth n).slt (b.setWidth n) = decide (Spec.sgn n a < Spec.sgn n b) := by
  rw [BitVec.slt_eq_decide, sgn_eq_toInt hn, sgn_eq_toInt hn]

theorem ult_eq_decide_uns (n : Nat) (a b : Word) : (a.setWidth n).ult (b.setWidth n) = decide (Spec.uns n a < Spec.uns n b) := by
  rw [BitVec.ult_eq_decide, uns_eq_toNat, uns_eq_toNat]

theorem beq_eq_decide_uns (n : Nat) (a b : Word) : (a.setWidth n == b.setWidth n) = decide (Spec.uns n a = Spec.uns n b) := by
  rw [uns_eq_toNat, uns_eq_toNat, decide_eq_decide.2 BitVec.toNat_inj]
  rfl

theorem and_bne_zero_eq_decide_uns (n : Nat) (a b : Word) :
    (a.setWidth n &&& b.setWidth n != 0) = decide (Spec.uns n (a &&& b) ≠ 0) := by
  rw [uns_eq_toNat, ← BitVec.setWidth_and, decide_not, ← BitVec.toNat_zero, decide_eq_decide.2 BitVec.toNat_inj]
  rfl

/-- The condition of CMP at `n` bits: one case for each CC. -/
theorem ccHolds_eq_cond {n : Nat} (hn : 0 < n) (cc : BitVec 2) (a b : Word) :
    ccHolds cc (a.setWidth n) (b.setWidth n) = Spec.cond cc n a b := by
  have hcases : cc = 0 ∨ cc = 1 ∨ cc = 2 ∨ cc = 3 := by revert cc; decide
  rcases hcases with rfl | rfl | rfl | rfl
  · exact beq_eq_decide_uns n a b
  · exact slt_eq_decide_sgn hn a b
  · exact ult_eq_decide_uns n a b
  · exact and_bne_zero_eq_decide_uns n a b

theorem ccAt_eq_cond (w : BitVec 1) (cc : BitVec 2) (a b : Word) : ccAt w cc a b = Spec.cond cc (Spec.width w) a b := by
  rw [ccAt, Spec.width]
  split
  · exact ccHolds_eq_cond (by decide) cc a b
  · rw [← ccHolds_eq_cond (by decide), BitVec.setWidth_eq, BitVec.setWidth_eq]

/-- The bit of PLOG's truth table that two predicates choose (R167). -/
theorem truthTable_eq (th tl : BitVec 2) (p q : Bool) : (th ++ tl).getLsbD ((if p then 2 else 0) + if q then 1 else 0) =
    Nat.testBit (th.toNat * 4 + tl.toNat) (p.toNat * 2 + q.toNat) := by
  have htable : (th ++ tl).toNat = th.toNat * 4 + tl.toNat := by
    rw [BitVec.toNat_append, ← Nat.shiftLeft_add_eq_or_of_lt tl.isLt, Nat.shiftLeft_eq]
  have hindex : ((if p then 2 else 0) + if q then 1 else 0) = p.toNat * 2 + q.toNat := by cases p <;> cases q <;> rfl
  rw [hindex, ← BitVec.testBit_toNat, htable]

/-! ### A predicate's result (R125) -/

theorem setField_bit {n : Nat} (x : BitVec n) (k : Nat) (b : Bool) :
    setField x k 1 (if b then 1 else 0) = (x &&& ~~~BitVec.twoPow n k) ||| (if b then BitVec.twoPow n k else 0) := by
  rw [setField, BitVec.twoPow_eq]
  cases b
  · rw [show BitVec.ofNat n ((if false = true then 1 else 0) % 2 ^ 1) = 0#n from rfl, BitVec.zero_shiftLeft]
    rfl
  · rfl

theorem getLsbD_setField_bit {n : Nat} (x : BitVec n) (k : Nat) (b : Bool) {j : Nat} (hj : j < n) :
    (setField x k 1 (if b then 1 else 0)).getLsbD j = if j = k then b else x.getLsbD j := by
  rw [setField_bit]
  by_cases hk : j = k
  · subst hk
    cases b <;> simp [hj, BitVec.getElem_twoPow]
  · cases b <;> simp [hj, hk, BitVec.getElem_twoPow]

theorem pred_setPred_same (c : Core) {n : Nat} (hn : n ≠ 0) (h8 : n < 8) (b : Bool) : (c.setPred n b).pred n = b := by
  rw [Core.setPred, if_neg hn, Core.pred, getLsbD_setField_bit _ _ _ h8, if_pos rfl, beq_false_of_ne hn, Bool.false_or]

theorem pred_setPred_other (c : Core) (n : Nat) (b : Bool) {j : Nat} (hj : j < 8) (h : j ≠ n ∨ j = 0) : (c.setPred n b).pred j = c.pred j := by
  by_cases hzero : j = 0
  · rw [hzero, Core.pred_zero, Core.pred_zero]
  · have hjn : j ≠ n := h.resolve_right hzero
    rw [Core.setPred]
    split
    · rfl
    · rw [Core.pred, getLsbD_setField_bit _ _ _ hj, if_neg hjn, Core.pred]

/-- A predicate written with latency 1 is the predicate's write alone (R131). -/
theorem putPred_one (c : Core) (n : Nat) (b : Bool) : c.putPred n b 1 = c.setPred n b := by
  rw [Core.putPred]
  split
  case isTrue hn => rw [hn, Core.setPred_zero]
  case isFalse => rfl

theorem pred_wroteP (s : State) (len : Nat) (stl : BitVec 2) (pd : BitVec 3) (b : Bool) (j : Nat) :
    (s.wroteP len stl pd b).me.pred j = (s.me.setPred pd.toNat b).pred j := by
  have hme : (s.wroteP len stl pd b).me = ((s.me.begin len).putPred pd.toNat b 1).retired stl := s.me_setCore _
  have hpreds : ((s.me.begin len).setPred pd.toNat b).preds = (s.me.setPred pd.toNat b).preds := by
    unfold Core.setPred
    split <;> rfl
  rw [hme, putPred_one, Core.pred, Core.retired_preds, hpreds, Core.pred]

/-! ### Whole instructions -/

section Whole

variable {s : State} {stl : BitVec 2} (h : Quiet s)
include h

theorem exec_plog (tl th : BitVec 2) (pa pb pd : BitVec 3) : exec (.plog tl pb th pa pd stl) s = .next (s.wroteP 4 stl pd
    (Nat.testBit (th.toNat * 4 + tl.toNat) ((s.me.pred pa.toNat).toNat * 2 + (s.me.pred pb.toNat).toNat))) := by
  rw [← truthTable_eq]
  apply issue_after (u := ())
  simp only [M.bind_run, readyM_at h, srcP_at h, putP_at]

variable {ra : BitVec 5} (ha : s.plain ra)
include ha

theorem exec_cmp {k : BitVec 1} {rb : BitVec 5} (hb : s.hasB k rb) (w : BitVec 1) (cc : BitVec 2) (pd : BitVec 3) :
    exec (.cmp k w rb ra cc pd stl) s = .next (s.wroteP 4 stl pd (ccAt w cc (s.me.reg ra.toNat) (s.valB k rb))) := by
  apply issue_after (u := ())
  simp only [M.bind_run, readyM_at h, src_at h ha, opb_at h hb, putP_at]

/-- A comparison with a literal or an immediate reads one register. -/
theorem compareM_at (len : Nat) (pd : BitVec 3) (test : Word → Bool) :
    issue len stl (do readyM [ra] [] [] [pd]; let a ← src ra; putP pd (test a) 1) s =
      .next (s.wroteP len stl pd (test (s.me.reg ra.toNat))) := by
  apply issue_after (u := ())
  simp only [M.bind_run, readyM_at h, src_at h ha, putP_at]

end Whole

/-! ### O5 -/

/-- Settles O5: each instruction writes one predicate, and that write changes one bit of the predicates. -/
theorem predicates : Obligations.Predicates := by
  intro s k w rb ra cc pa pb pd stl tl th lit i12 h ha a n res
  have hpd : pd ≠ 0 → pd.toNat ≠ 0 := fun hne heq => hne (BitVec.eq_of_toNat_eq heq)
  refine ⟨fun hb => ?_, ?_, ?_, exec_plog h tl th pa pb pd, fun b hne => ?_, fun b j hj hother => ?_⟩
  · rw [exec_cmp h ha hb, ccAt_eq_cond]
  · refine (compareM_at h ha 8 pd fun x => ccAt w cc x (litAlu lit)).trans ?_
    rw [ccAt_eq_cond]
    rfl
  · refine (compareM_at h ha 4 pd fun x => ccHolds cc x (imm12 i12)).trans ?_
    have hcond : ccHolds cc a (imm12 i12) = Spec.cond cc 64 a (imm12 i12) := by
      rw [← ccHolds_eq_cond (by decide), BitVec.setWidth_eq, BitVec.setWidth_eq]
    rw [hcond]
    rfl
  · rw [pred_wroteP, pred_setPred_same _ (hpd hne) pd.isLt]
  · rw [pred_wroteP, pred_setPred_other _ _ _ hj hother]

end Sys2Proof.Machine

/-! Branches, jumps and LOOP (spec/09_scalar_instructions.md R172 to R178). -/

namespace Sys2Proof.Machine
open Host

/-! ### Targets (R142, R149) -/

theorem halfOff_eq {n : Nat} (off : BitVec n) : halfOff off = BitVec.ofInt 53 (2 * off.toInt) := by
  have hext : BitVec.ofInt 53 off.toInt = off.signExtend 53 := rfl
  apply BitVec.eq_of_toNat_eq
  rw [BitVec.ofInt_mul, hext, halfOff, BitVec.toNat_shiftLeft, Nat.shiftLeft_eq, BitVec.toNat_mul, Nat.mul_comm]
  rfl

theorem by_eq {n : Nat} (pc : BitVec 53) (off : BitVec n) : pc + halfOff off = Spec.by_ pc off := by
  rw [halfOff_eq, Spec.by_, BitVec.ofInt_add, ofInt_toNat_self]

/-- The target of a jump through a register, modulo 2^53 (R175). -/
theorem setWidth_add_ofInt (a : Word) (d : Int) : a.setWidth 53 + BitVec.ofInt 53 d = BitVec.ofInt 53 (a.toNat + d) := by
  rw [BitVec.ofInt_add, ofInt_toNat]

theorem setWidth_eq_ofNat (t : BitVec 53) : t.setWidth 64 = BitVec.ofNat 64 t.toNat := (BitVec.ofNat_toNat 64 t).symm

theorem setWidth_link (pc : BitVec 53) (len : Nat) (hlen : len < 2 ^ 53) :
    (pc + BitVec.ofNat 53 len).setWidth 64 = BitVec.ofNat 64 ((pc.toNat + len) % 2 ^ 53) := by
  rw [setWidth_eq_ofNat, BitVec.toNat_add, BitVec.toNat_ofNat, Nat.mod_eq_of_lt hlen]

/-! ### The end of an instruction that transfers control -/

/-- A core that a transfer has left at its target, the fetch there taking the time of choice `n` (R177). -/
def landed (c : Core) (t : BitVec 53) (n : Nat) : Core := { c with pc := t, cycle := c.cycle + Config.waitCycles n }

theorem jump_setCore (s : State) (c : Core) (t : BitVec 53) :
    jump t (s.setCore s.cur c) = .ok ((), s.tick.setCore s.cur (landed c t s.fresh)) := by
  rw [jump_run, State.setCore_cur, State.me_setCore]
  exact congrArg (fun u => Except.ok ((), u)) (State.setCore_setCore s.tick s.cur c _)

section Transfer

variable {s : State} {len : Nat} {stl : BitVec 2} {body : M Unit} {t : BitVec 53}

/-- An instruction that has done `f` to its core jumps. -/
theorem issue_jump {f : Core → Core} (hbody : body (s.at len) = jump t (s.setCore s.cur ((f s.me).begin len))) :
    issue len stl body s = .next (s.jumped stl t f) := by
  rw [issue_ok (hbody.trans (jump_setCore s _ t))]
  exact congrArg Outcome.next (State.modCore_setCore s.tick s.cur _ _)

/-- An instruction whose whole effect is a transfer under a condition. -/
theorem issue_branch {m : Nat} {off : BitVec m} {taken : Bool}
    (hbody : body (s.at len) = (do if taken then jump (← target len (halfOff off)) : M Unit) (s.at len)) :
    issue len stl body s = if taken then .next (s.jumped stl (Spec.by_ s.me.pc off) id) else .next (s.after len stl id) := by
  cases taken with
  | true =>
    refine issue_jump (f := id) (hbody.trans ?_)
    simp only [if_true, M.bind_run, target_at, by_eq]
    rfl
  | false => exact issue_after (u := ()) (f := id) hbody

end Transfer

/-- A result written at NPC is one written before, with the PC moved on. -/
theorem putReg_begin (c : Core) (len n : Nat) (v : Word) (lat : Nat) : (c.begin len).putReg n v lat = (c.putReg n v lat).begin len := by
  unfold Core.putReg Core.setReg
  dsimp only
  repeat' split
  all_goals rfl

/-! ### Branches (R172, R173, R178) -/

section Branches

variable {s : State} {stl : BitVec 2} (h : Quiet s)
include h

theorem predBranchM_at (off : BitVec 12) (pa : BitVec 3) (sense : Bool) : issue 4 stl (predBranchM off pa sense) s =
    if s.me.pred pa.toNat == sense then .next (s.jumped stl (Spec.by_ s.me.pc off) id) else .next (s.after 4 stl id) := by
  exact issue_branch (by simp only [predBranchM, M.bind_run, readyM_at h, srcP_at h])

variable {ra : BitVec 5} (ha : s.plain ra)
include ha

theorem branchM_at {rb : BitVec 5} (hb : s.plain rb) (off : BitVec 12) (taken : Word → Word → Bool) :
    issue 4 stl (branchM off rb ra taken) s = if taken (s.me.reg ra.toNat) (s.me.reg rb.toNat)
      then .next (s.jumped stl (Spec.by_ s.me.pc off) id) else .next (s.after 4 stl id) := by
  exact issue_branch (by simp only [branchM, M.bind_run, readyM_at h, src_at h ha, src_at h hb])

theorem compactBranchM_at (off : BitVec 6) (zero : Bool) : issue 2 0 (compactBranchM off ra zero) s =
    if (s.me.reg ra.toNat == 0) == zero then .next (s.jumped 0 (Spec.by_ s.me.pc off) id) else .next (s.after 2 0 id) := by
  exact issue_branch (by simp only [compactBranchM, M.bind_run, readyM_at h, src_at h ha])

end Branches

/-! ### O6 -/

/-- Settles O6: the condition that each branch tests is the one that its rule names. -/
theorem branches : Obligations.Branches := by
  intro s o12 o6 rb ra pa stl h ha hb a b go goC
  have hgo {taken : Word → Word → Bool} {c : Bool} (hc : taken a b = c) : issue 4 stl (branchM o12 rb ra taken) s = go c := by
    rw [branchM_at h ha hb, ← hc]
  have hgoC {zero c : Bool} (hc : ((a == 0) == zero) = c) : issue 2 0 (compactBranchM o6 ra zero) s = goC c := by
    rw [compactBranchM_at h ha, ← hc]
  have hgoP {sense c : Bool} (hc : (s.me.pred pa.toNat == sense) = c) : issue 4 stl (predBranchM o12 pa sense) s = go c := by
    rw [predBranchM_at h, ← hc]
  have hslt : a.slt b = decide (Spec.sgn 64 a < Spec.sgn 64 b) := by rw [BitVec.slt_eq_decide, sgn_64, sgn_64]
  have hult : a.ult b = decide (a.toNat < b.toNat) := BitVec.ult_eq_decide
  refine ⟨hgo rfl, hgo (decide_not).symm, hgo hslt, hgo ?_, hgo hult, hgo ?_, hgoP (beq_true _), hgoP (beq_false _), hgoC (beq_true _),
    hgoC ((beq_false _).trans (decide_not).symm)⟩
  · rw [hslt, ← decide_not, decide_eq_decide.2 not_lt]
  · rw [hult, ← decide_not, decide_eq_decide.2 not_lt]

/-! ### Jumps (R174, R175, R178) and LOOP (R176) -/

section Jumps

variable {s : State} {stl : BitVec 2} (h : Quiet s)
include h

theorem exec_jal {rd : BitVec 5} (hd : s.mayWrite rd) (off : BitVec 18) : exec (.jal off rd stl) s =
    .next (s.jumped stl (Spec.by_ s.me.pc off) fun c => c.putReg rd.toNat (BitVec.ofNat 64 ((s.me.pc.toNat + 4) % 2 ^ 53)) 1) := by
  refine issue_jump ?_
  simp only [M.bind_run, readyM_at h, target_at, by_eq, linkWord_at, setWidth_link _ 4 (by decide), put_at _ _ hd, putReg_begin]

/-- A jump through a register: an odd target traps before the link is written (R175). -/
theorem jalrM_at {len : Nat} (hlen : len < 2 ^ 53) {ra rd : BitVec 5} (ha : s.plain ra) (hd : s.mayWrite rd) (d : BitVec 53)
    {t : BitVec 53} (ht : (s.me.reg ra.toNat).setWidth 53 + d = t) :
    issue len stl (jalrM ra rd d) s = if t.getLsbD 0 then .next (s.takeTrap s.cur 5 (BitVec.ofNat 64 t.toNat))
      else .next (s.jumped stl t fun c => c.putReg rd.toNat (BitVec.ofNat 64 ((s.me.pc.toNat + len) % 2 ^ 53)) 1) := by
  have hbody : jalrM ra rd d (s.at len) = (do
      need (!t.getLsbD 0) cALIGN (t.setWidth 64)
      put rd (← linkWord) 1
      jump t : M Unit) (s.at len) := by
    simp only [jalrM, M.bind_run, readyM_at h, src_at h ha, ht]
  rw [M.bind_run, M.need_run] at hbody
  split
  case isTrue hodd =>
    rw [← setWidth_eq_ofNat]
    exact issue_trap (by rw [hbody, hodd]; rfl)
  case isFalse heven =>
    refine issue_jump (hbody.trans ?_)
    rw [Bool.eq_false_iff.2 heven]
    simp only [Bool.not_false, if_true, M.bind_run, linkWord_at, setWidth_link _ len hlen, put_at _ _ hd, putReg_begin]

theorem exec_loop {rd : BitVec 5} (hd : s.mayWrite rd) (off : BitVec 18) : exec (.loop off rd stl) s =
    if s.me.reg rd.toNat - 1 = 0 then .next (s.wrote 4 stl rd 0 0)
    else .next (s.jumped stl (Spec.by_ s.me.pc off) fun c => c.putReg rd.toNat (s.me.reg rd.toNat - 1) 0) := by
  split
  case isTrue hdone =>
    refine issue_after (u := ()) ?_
    simp only [M.bind_run, readyM_at h, src_at h hd.1, target_at, hdone, put_at _ _ hd]
    rfl
  case isFalse hmore =>
    refine issue_jump ?_
    simp only [M.bind_run, readyM_at h, src_at h hd.1, target_at, by_eq, put_at _ _ hd, putReg_begin, bne_iff_ne, ne_eq, hmore,
      not_false_eq_true, if_true]

end Jumps

theorem exec_cJ (s : State) (off : BitVec 11) : exec (.cJ off) s = .next (s.jumped 0 (Spec.by_ s.me.pc off) id) := by
  show execCJ off s = _
  refine issue_jump (f := id) ?_
  simp only [M.bind_run, target_at, by_eq]
  rfl

theorem exec_cNop (s : State) : exec .cNop s = .next (s.after 2 0 id) := by
  show execCNop s = _
  exact issue_after (u := ()) (f := id) rfl

/-! ### O7 -/

/-- Settles O7: each target and link is that of its rule, and LOOP tests the count that it writes. -/
theorem jumpsAndLoop : Obligations.JumpsAndLoop := by
  intro s o18 o13 o11 ra rd stl h ha hd h0 h1 pc link t
  have hret : (s.me.reg (1 : BitVec 5).toNat).setWidth 53 + 0 = t 1 0 := setWidth_add_ofInt (s.me.reg 1) 0
  have hjalr : (s.me.reg ra.toNat).setWidth 53 + halfOff o13 = t ra.toNat (2 * o13.toInt) := by
    rw [halfOff_eq]
    exact setWidth_add_ofInt _ _
  exact ⟨exec_jal h hd o18, jalrM_at h (by decide) ha hd _ hjalr, jalrM_at h (by decide) h1 h0 0 hret, exec_cJ s o11,
    exec_cNop s, exec_loop h hd o18⟩

end Sys2Proof.Machine

/-! What reads of the device leave alone: every state differs from the one before in memory and its replicas only. -/

namespace Sys2Proof.Machine
open Host

/-! ### Reads and stores of the device, at the home slices -/

theorem belowCores_devReadPart (s : State) (space va n : Nat) : BelowCores s (s.devReadPart space va n).1 := by
  have hxlate := belowCores_xlateDev s space va .load false
  unfold State.devReadPart
  split
  · next heq => rwa [heq] at hxlate
  · next t ht =>
    rw [ht] at hxlate
    refine hxlate.trans ?_
    dsimp only
    split
    · exact .foldl (fun s l => belowCores_homeServe s otherParty l .default) _ _
    · exact .refl _

theorem beyondMemory_devReadPart (s : State) (space va n : Nat) : (s.devReadPart space va n).1.beyondMemory = s.beyondMemory := by
  have hxlate := beyondMemory_xlateDev s space va .load false
  unfold State.devReadPart
  split
  · next heq => rwa [heq] at hxlate
  · next t ht =>
    rw [ht] at hxlate
    refine .trans ?_ hxlate
    dsimp only
    split
    · exact beyondMemory_foldl (fun s l => beyondMemory_homeServe s otherParty l .default) _ _
    · rfl

/-- The states differ in memories, home lines, clusters and shadow frames alone: what a read by the device does. -/
structure ReadOnly (s t : State) : Prop extends BelowCores s t where
  beyond : t.beyondMemory = s.beyondMemory

theorem ReadOnly.refl (s : State) : ReadOnly s s := ⟨.refl s, rfl⟩

theorem ReadOnly.trans {s t u : State} (h : ReadOnly s t) (h' : ReadOnly t u) : ReadOnly s u :=
  ⟨h.toBelowCores.trans h'.toBelowCores, h'.beyond.trans h.beyond⟩

theorem readOnly_devReadParts (s : State) (space : Nat) (ps : List (Nat × Nat)) : ReadOnly s (s.devReadParts space ps).1 := by
  induction ps generalizing s with
  | nil => exact .refl s
  | cons p r ih =>
    have hpart : ReadOnly s (s.devReadPart space p.1 p.2).1 := ⟨belowCores_devReadPart s space p.1 p.2, beyondMemory_devReadPart s space p.1 p.2⟩
    rw [State.devReadParts]
    split
    · next heq => rwa [heq] at hpart
    · next t _ heq =>
      rw [heq] at hpart
      have hrest := hpart.trans (ih t)
      split
      · next heq' => rwa [heq'] at hrest
      · next heq' => rwa [heq'] at hrest

theorem readOnly_devWords (s : State) (space va n : Nat) : ReadOnly s (s.devWords space va n).1 := by
  have hread : ReadOnly s (s.devRead space va (8 * n)).1 := readOnly_devReadParts s space _
  unfold State.devWords
  split
  · next heq => rwa [heq] at hread
  · next heq => rwa [heq] at hread

theorem readOnly_kindEntry (s : State) (space kinds k : Nat) : ReadOnly s (s.kindEntry space kinds k).1 := by
  have hhead := readOnly_devWords s space kinds 2
  unfold State.kindEntry
  split
  · next heq => rwa [heq] at hhead
  · next t _ heq =>
    rw [heq] at hhead
    split
    · exact hhead
    split
    · exact hhead
    have hentry := hhead.trans (readOnly_devWords t space (kinds + 16 * k) 2)
    split
    · next heq' => rwa [heq'] at hentry
    · next heq' => rwa [heq'] at hentry

/-! ### What is the same beyond memory -/

/-- A region found again after the work of the memory hierarchy differs in its shadow frames alone. -/
theorem region?_of_beyond {s t : State} (h : t.regions.map Region.unframed = s.regions.map Region.unframed) (r : Nat) :
    (t.region? r).map Region.unframed = (s.region? r).map Region.unframed := by
  have hseen (u : State) : (u.region? r).map Region.unframed = ({ u with regions := u.regions.map Region.unframed } : State).region? r :=
    (region?_map u (g := Region.unframed) (fun _ => rfl) r).symm
  rw [hseen, hseen]
  simp only [State.region?, h]

end Sys2Proof.Machine

/-! What loads of a core leave alone: a load changes replicas, translations and the times of results only. -/

namespace Sys2Proof.Machine
open Host

/-! ### What a load of a core leaves alone -/

/-- What of a core is no replica, translation, element read ahead or time of a result: no load changes it. -/
def Core.steady (c : Core) : Core :=
  { c with l1 := [], uoOld := [], hide := [], tlb := [], ahead := [], cycle := 0, pend := [], vpend := [] }

/-- What lies beyond memory, whatever free values have been used. -/
def State.untimed (s : State) : State := { s.beyondMemory with fresh := 0 }

/-- The states differ in memories and their replicas, in shadow frames and in free values alone, and core `k` in its replicas and
times. -/
structure LoadOnly (k : Nat) (s t : State) : Prop where
  beyond : t.untimed = s.untimed
  core : (t.core k).steady = (s.core k).steady

namespace LoadOnly

variable {k : Nat} {s t u : State}

theorem refl (k : Nat) (s : State) : LoadOnly k s s := ⟨rfl, rfl⟩

theorem trans (h : LoadOnly k s t) (h' : LoadOnly k t u) : LoadOnly k s u := ⟨h'.beyond.trans h.beyond, h'.core.trans h.core⟩

theorem foldl {α : Type} {op : State → α → State} (h : ∀ s a, LoadOnly k s (op s a)) (l : List α) (s : State) : LoadOnly k s (l.foldl op s) :=
  List.foldlRecOn l op (.refl k s) fun t ht a _ => ht.trans (h t a)

theorem cur (h : LoadOnly k s t) : t.cur = s.cur := (congrArg State.cur h.beyond :)
theorem firings (h : LoadOnly k s t) : t.firings = s.firings := (congrArg State.firings h.beyond :)
theorem regions (h : LoadOnly k s t) : t.regions.map Region.unframed = s.regions.map Region.unframed := (congrArg State.regions h.beyond :)
theorem arr (h : LoadOnly k s t) : (t.core k).arr = (s.core k).arr := (congrArg Core.arr h.core :)
theorem pcnt (h : LoadOnly k s t) : (t.core k).pcnt = (s.core k).pcnt := (congrArg Core.pcnt h.core :)
theorem pc (h : LoadOnly k s t) : (t.core k).pc = (s.core k).pc := (congrArg Core.pc h.core :)
theorem cr (h : LoadOnly k s t) : (t.core k).cr = (s.core k).cr := (congrArg Core.cr h.core :)
theorem preds (h : LoadOnly k s t) : (t.core k).preds = (s.core k).preds := (congrArg Core.preds h.core :)
theorem run (h : LoadOnly k s t) : (t.core k).run = (s.core k).run := (congrArg Core.run h.core :)
theorem gens (h : LoadOnly k s t) : (t.core k).gens = (s.core k).gens := (congrArg Core.gens h.core :)

end LoadOnly

theorem loadOnly_of_cacheOnly {k : Nat} {s t : State} (h : CacheOnly k s t) (hb : t.beyondMemory = s.beyondMemory) : LoadOnly k s t :=
  ⟨congrArg (fun u : State => { u with fresh := 0 }) hb, (congrArg Core.steady h.core :)⟩

theorem loadOnly_of_belowCores {s t : State} (h : BelowCores s t) (hb : t.beyondMemory = s.beyondMemory) (k : Nat) : LoadOnly k s t :=
  loadOnly_of_cacheOnly (h.cacheOnly k) hb

theorem loadOnly_modCore (s : State) (k : Nat) {f : Core → Core} (hf : ∀ c, (f c).steady = c.steady) : LoadOnly k s (s.modCore k f) :=
  ⟨rfl, by rw [State.core_modCore_same, hf]⟩

theorem loadOnly_modCluster (k : Nat) (s : State) (n : Nat) (f : Cluster → Cluster) : LoadOnly k s (s.modCluster n f) := ⟨rfl, rfl⟩

theorem loadOnly_tick (k : Nat) (s : State) : LoadOnly k s s.tick := ⟨rfl, rfl⟩

theorem loadOnly_homeServe (k : Nat) (s : State) (party n : Nat) (h : Hint) : LoadOnly k s (s.homeServe party n h) :=
  loadOnly_of_belowCores (belowCores_homeServe s party n h) (beyondMemory_homeServe s party n h) k

theorem loadOnly_homeServeSo (k : Nat) (s : State) (party n : Nat) (h : Hint) : LoadOnly k s (s.homeServeSo party n h) :=
  (loadOnly_of_belowCores (belowCores_recallAny s n) (beyondMemory_recallAny s n) k).trans (loadOnly_homeServe k _ party n h)

theorem loadOnly_forgetUo (s : State) (k n : Nat) : LoadOnly k s (s.forgetUo k n) := by
  unfold State.forgetUo
  split
  · exact .refl k s
  · exact loadOnly_modCore s k fun _ => rfl

theorem loadOnly_allocL1 (s : State) (k : Nat) (l : Line) (h : Hint) : LoadOnly k s (s.allocL1 k l h) := by
  unfold State.allocL1
  refine .trans ?_ (loadOnly_modCore _ k fun _ => rfl)
  split
  · exact loadOnly_of_cacheOnly (cacheOnly_writeBackL1 s k _ true) (beyondMemory_writeBackL1 s k _ true)
  · exact .refl k s

theorem loadOnly_allocCluster (k : Nat) (s : State) (c : Nat) (l : Line) (h : Hint) : LoadOnly k s (s.allocCluster c l h) :=
  loadOnly_of_belowCores (belowCores_allocCluster s c l h) (beyondMemory_allocCluster s c l h) k

theorem loadOnly_touchLine (s : State) (k n : Nat) (h : Hint) (uo : Bool) : LoadOnly k s (s.touchLine k n h uo) := by
  unfold State.touchLine
  refine (loadOnly_forgetUo s k n).trans ?_
  generalize s.forgetUo k n = t
  dsimp only
  split
  · exact loadOnly_modCore t k fun _ => rfl
  split
  · split
    · exact .refl k t
    · exact loadOnly_allocL1 t k _ h
  split
  · split
    · exact loadOnly_modCluster k t _ _
    · exact (loadOnly_modCluster k t _ _).trans (loadOnly_allocL1 _ k _ h)
  · have hserve := loadOnly_homeServe k t (clusterOf k) n h
    split
    · exact hserve
    · refine hserve.trans (.trans ?_ (loadOnly_allocL1 _ k _ h))
      split
      · exact .refl k _
      · exact loadOnly_allocCluster k _ _ _ h

theorem loadOnly_touch (s : State) (k : Nat) (t : Target) (h : Hint) (n : Nat) : LoadOnly k s (s.touch k t h n) := by
  unfold State.touch
  split
  · refine .foldl (fun s l => ?_) _ s
    split
    · exact loadOnly_homeServeSo k s _ l h
    · exact loadOnly_touchLine s k l h false
    · split
      · exact .refl k s
      · exact loadOnly_touchLine s k l h true
  · exact .refl k s

theorem loadOnly_readUo (s : State) (k : Nat) (t : Target) (n : Nat) : LoadOnly k s (s.readUo k t n) := by
  unfold State.readUo
  split
  · split
    · refine .foldl (fun s l => ?_) _ s
      unfold State.uoChoose
      split
      · exact .refl k s
      split
      · exact loadOnly_tick k s
      · exact (loadOnly_tick k s).trans (loadOnly_forgetUo _ k l)
    · exact .refl k s
  · exact .refl k s

theorem loadOnly_readTargets (s : State) (k : Nat) (ts : List (Target × Nat)) (hint : Target → Hint) :
    LoadOnly k s (s.readTargets k ts hint).1 := by
  have hread := LoadOnly.foldl (k := k) (op := fun s t => s.readUo k t.1 t.2) (fun s t => loadOnly_readUo s k t.1 t.2) ts s
  unfold State.readTargets
  dsimp only
  split
  · exact hread
  · exact hread.trans (.foldl (fun s t => loadOnly_touch s k t.1 _ t.2) ts _)

/-! ### Translation -/

theorem beyondMemory_modRegion (s : State) (r : Nat) {g : Region → Region} (hg : ∀ x, (g x).unframed = x.unframed) :
    (s.modRegion r g).beyondMemory = s.beyondMemory := by
  have hregions : (s.modRegion r g).regions.map Region.unframed = s.regions.map Region.unframed := by
    rw [State.modRegion, List.map_map]
    refine List.map_congr_left fun x _ => ?_
    rw [Function.comp_apply]
    split
    · exact hg x
    · rfl
  exact congrArg (fun rs => { s.beyondMemory with regions := rs }) hregions

theorem loadOnly_noteShd (k : Nat) (s : State) (r copy pa vpn : Nat) (w : Bool) : LoadOnly k s (s.noteShd r copy pa vpn w) := by
  have hframes (m : Memory) (g : Region → Region) (hg : ∀ x, (g x).unframed = x.unframed) :
      LoadOnly k s (State.modRegion { s with hbm := m } r g) :=
    ⟨congrArg (fun u : State => { u with fresh := 0 }) (beyondMemory_modRegion { s with hbm := m } r hg), rfl⟩
  unfold State.noteShd
  split
  · exact .refl k s
  dsimp only
  split
  · exact .refl k s
  split
  · refine hframes s.hbm _ fun x => ?_
    rfl
  · refine hframes _ _ fun x => ?_
    rfl

theorem loadOnly_tlbFill (s : State) (k : Nat) (e : TlbEntry) : LoadOnly k s (s.modCore k fun c => c.tlbFill e) :=
  loadOnly_modCore s k fun _ => rfl

theorem loadOnly_lookup (s : State) (k space va : Nat) (a : Acc) (handler : Bool) : LoadOnly k s (s.lookup k space va a handler).1 := by
  have hwalk := loadOnly_of_belowCores (belowCores_walkAccess s space va a handler) (beyondMemory_walkAccess s space va a handler) k
  unfold State.lookup
  dsimp only
  split
  · exact .refl k s
  split
  · exact .refl k s
  split
  · split
    · exact loadOnly_tlbFill s k _
    · exact .refl k s
  split
  · next heq => rwa [heq] at hwalk
  · next t e heq =>
    rw [heq] at hwalk
    dsimp only at hwalk ⊢
    exact hwalk.trans ((loadOnly_tlbFill t k e).trans (loadOnly_modCluster k _ (clusterOf k) _))

theorem loadOnly_translate (s : State) (k va : Nat) (a : Acc) : LoadOnly k s (s.translate k va a).1 := by
  have hlookup := loadOnly_lookup s k (s.spaceOf k) va a (s.core k).inHandler
  unfold State.translate
  split
  · exact .refl k s
  split
  · next heq => rwa [heq] at hlookup
  · next heq =>
    rw [heq] at hlookup
    dsimp only
    split
    · exact hlookup
    split
    · exact hlookup
    split
    · exact hlookup.trans (loadOnly_noteShd k _ _ _ _ _ _)
    · exact hlookup.trans (loadOnly_noteShd k _ _ _ _ _ _)

theorem loadOnly_translateParts (s : State) (k : Nat) (ps : List (Nat × Nat)) (a : Acc) : LoadOnly k s (s.translateParts k ps a).1 := by
  induction ps generalizing s with
  | nil => exact .refl k s
  | cons p r ih =>
    have hpart := loadOnly_translate s k p.1 a
    rw [State.translateParts]
    split
    · next heq => rwa [heq] at hpart
    · next t _ heq =>
      rw [heq] at hpart
      have hrest := hpart.trans (ih t)
      split
      · next heq' => rwa [heq'] at hrest
      · next heq' => rwa [heq'] at hrest

/-! ### Loads -/

/-- A sequence of two completes when both do. -/
theorem bind_ok_iff {α β : Type} {x : M α} {f : α → M β} {s t : State} {b : β} :
    (x >>= f) s = .ok (b, t) ↔ ∃ a u, x s = .ok (a, u) ∧ f a u = .ok (b, t) := by
  rw [M.bind_run]
  constructor
  · intro h
    split at h
    · next a u heq => exact ⟨a, u, heq, h⟩
    · exact absurd h (by simp)
  · rintro ⟨a, u, hx, hf⟩
    rw [hx]
    exact hf

/-- A condition that holds changes nothing. -/
theorem need_ok_iff {b : Bool} {c : Nat} {v : Word} {s t : State} {u : Unit} : need b c v s = .ok (u, t) ↔ b = true ∧ s = t := by
  cases b <;> simp

theorem loadOnly_xlateM {s t : State} {va n : Nat} {a : Acc} {ts : List (Target × Nat)} (h : xlateM va n a s = .ok (ts, t)) :
    LoadOnly s.cur s t := by
  have hparts := loadOnly_translateParts s s.cur (partsOf va n) a
  rw [xlateM, M.bind_run, M.get_run] at h
  dsimp only at h
  rcases heq : s.translateParts s.cur (partsOf va n) a with ⟨u, ⟨e, bad⟩ | ts'⟩
  · rw [heq] at h
    cases e <;> exact absurd h (by simp [memTrap])
  · rw [heq] at h hparts
    cases h
    exact hparts

theorem loadOnly_workspaceWait {s t : State} {ts : List (Target × Nat)} {x : Unit} (h : workspaceWait ts s = .ok (x, t)) :
    LoadOnly s.cur s t := by
  have hsettle (u : State) (n : Nat) : LoadOnly u.cur u (u.modCore u.cur fun c => c.settleIf n Loc.isReg) :=
    loadOnly_modCore u u.cur fun _ => rfl
  rw [workspaceWait, M.bind_run, M.get_run] at h
  dsimp only at h
  split at h
  · split at h
    · exact absurd h (by simp [M.bind_run])
    split at h
    · cases h
      exact (loadOnly_tick s.cur s).trans (hsettle s.tick _)
    · cases h
      exact hsettle s _
  · cases h
    exact .refl s.cur s

/-- A load that completes changes nothing but replicas, translations and times. -/
theorem loadOnly_loadM {s t : State} {va n : Nat} {aq : Bool} {hint : BitVec 2} {bs : List Byte} (h : loadM va n aq hint s = .ok (bs, t)) :
    LoadOnly s.cur s t := by
  simp only [loadM, bind_ok_iff, need_ok_iff] at h
  obtain ⟨-, _, ⟨-, rfl⟩, ts, u, hxlate, h⟩ := h
  have hu := loadOnly_xlateM hxlate
  split at h
  · exact absurd h (by simp [M.bind_run])
  obtain ⟨_, v, hwait, h⟩ := bind_ok_iff.1 h
  have hv := hu.trans (hu.cur ▸ loadOnly_workspaceWait hwait)
  rw [M.bind_run, M.get_run] at h
  dsimp only at h
  cases hlost : v.me.lostIn ts with
  | some _ =>
    rw [hlost] at h
    exact absurd h (by simp [M.bind_run])
  | none =>
  rw [hlost] at h
  have hread := loadOnly_readTargets v v.cur ts fun t => hintOf hint t.hint
  rcases heq : v.readTargets v.cur ts fun t => hintOf hint t.hint with ⟨w, _ | bs'⟩
  · rw [heq] at h
    exact absurd h (by simp)
  · rw [heq] at h hread
    have hw : LoadOnly s.cur s w := hv.trans (hv.cur ▸ hread)
    have hdrop : LoadOnly w.cur w (w.modCore w.cur fun c => c.dropAhead (ts.flatMap fun t => t.1.place.blocks t.2)) :=
      loadOnly_modCore w w.cur fun _ => rfl
    cases h
    exact hw.trans (hw.cur ▸ hdrop)

theorem loadOnly_loadWordsM {n : Nat} {s t : State} {va : Nat} {ws : List Word} (h : loadWordsM va n s = .ok (ws, t)) :
    LoadOnly s.cur s t ∧ ws.length = n := by
  induction n generalizing s t va ws with
  | zero =>
    cases h
    exact ⟨.refl s.cur s, rfl⟩
  | succ n ih =>
    simp only [loadWordsM, bind_ok_iff, M.pure_run] at h
    obtain ⟨bs, u, hload, r, v, hrest, h⟩ := h
    have hu := loadOnly_loadM hload
    obtain ⟨hv, hlen⟩ := ih hrest
    cases h
    exact ⟨hu.trans (hu.cur ▸ hv), congrArg (· + 1) hlen⟩

end Sys2Proof.Machine

/-! The firing that an instruction belongs to, the checks of a descriptor and the product buffer (R24, R208, R211). -/

namespace Sys2Proof.Machine
open Host

/-! ### The firing of an instruction that issues (R208) -/

theorem firingOf_at (s : State) (len k : Nat) : (s.at len).firingOf k = s.firingOf k := by
  rw [State.at_eq]
  exact s.firingOf_setCore rfl

theorem firingM_run (bits : Word) (s : State) :
    firingM bits s = match s.firingOf s.cur with | some f => .ok (f, s) | none => .error (.trap cILLOP bits) := by
  simp only [firingM, M.bind_run, M.get_run]
  cases s.firingOf s.cur <;> rfl

theorem firingM_some {s : State} {f : Firing} (h : s.firingOf s.cur = some f) (bits : Word) (len : Nat) :
    firingM bits (s.at len) = .ok (f, s.at len) := by
  rw [firingM_run, State.at_cur, firingOf_at, h]

theorem firingM_none {s : State} (h : s.firingOf s.cur = none) (bits : Word) (len : Nat) :
    firingM bits (s.at len) = .error (.trap cILLOP bits) := by
  rw [firingM_run, State.at_cur, firingOf_at, h]

/-- The current core runs a firing of the region `g`, whatever its shadow frames are. -/
def State.RunsIn (s : State) (g : Region) : Prop := (s.regionOf s.cur).map Region.unframed = some g.unframed

theorem regionOf_eq_of_firing {s : State} {k : Nat} {f : Firing} (h : s.firingOf k = some f) : s.regionOf k = s.region? f.region := by
  rw [State.regionOf, h]
  rfl

/-- What a core runs is found again in a state that differs in other things. -/
theorem firingOf_of_same {s t : State} {k : Nat} (hrun : (t.core k).run = (s.core k).run) (hfirings : t.firings = s.firings) :
    t.firingOf k = s.firingOf k := by
  rw [State.firingOf, hrun, State.firingOf]
  exact congrArg _ (funext fun n => by rw [State.firing?, hfirings, State.firing?])

theorem runsIn_of_same {s t : State} {g : Region} (h : s.RunsIn g) (hcur : t.cur = s.cur) (hrun : (t.core s.cur).run = (s.core s.cur).run)
    (hfirings : t.firings = s.firings) (hregions : t.regions.map Region.unframed = s.regions.map Region.unframed) : t.RunsIn g := by
  refine .trans ?_ h
  rw [hcur, State.regionOf, firingOf_of_same hrun hfirings, State.regionOf]
  cases s.firingOf s.cur with
  | none => rfl
  | some f => exact region?_of_beyond hregions f.region

theorem ReadOnly.runsIn {s t : State} {g : Region} (h : ReadOnly s t) (hs : s.RunsIn g) : t.RunsIn g :=
  runsIn_of_same hs (congrArg State.cur h.beyond :) (congrArg (fun cs => (tget Core.init cs s.cur).run) h.cores) h.firings
    (congrArg State.regions h.beyond :)

theorem LoadOnly.runsIn {s t : State} {g : Region} (h : LoadOnly s.cur s t) (hs : s.RunsIn g) : t.RunsIn g :=
  runsIn_of_same hs h.cur h.run h.firings h.regions

theorem runsIn_at {s : State} {f : Firing} {g : Region} (hf : s.firingOf s.cur = some f) (hg : s.region? f.region = some g) (len : Nat) :
    (s.at len).RunsIn g := by
  rw [State.RunsIn, State.at_cur, regionOf_at, regionOf_eq_of_firing hf, hg]
  rfl

/-! ### The checks of R24 -/

/-- The value that FMTCHK of a descriptor gives: its kind, the reason and its index among the products (R212). -/
def badProduct (i : Nat) (d : List Word) (e : Option (Word × Word)) : Word :=
  BitVec.ofNat 64 (descKind d + insertReason d e * 2 ^ 16 + i % 64 * 2 ^ 20)

section Checks

variable {s u : State} {g : Region}

theorem checkDesc_run (hs : s.RunsIn g) {d : List Word} {e : Option (Word × Word)}
    (he : s.kindEntry g.space g.eff.kinds (descKind d) = (u, .ok e)) (i : Nat) :
    checkDesc i d s = need (insertReason d e == 0) cFMTCHK (badProduct i d e) u := by
  obtain ⟨g', hregion, hframes⟩ := Option.map_eq_some_iff.1 hs
  have hspace : g'.space = g.space := (congrArg Region.space hframes :)
  have heff : g'.eff = g.eff := (congrArg Region.eff hframes :)
  simp only [checkDesc, M.bind_run, M.get_run, hregion, hspace, heff, he, M.set_run, badProduct]

/-- Descriptors that pass are checked, and what stays of it is what the reads of the kind table leave. -/
theorem checkDescs_insertable (hs : s.RunsIn g) {ds : List (List Word)} (h : Spec.Insertable g s ds u) (i : Nat) :
    checkDescs i ds s = .ok ((), u) ∧ ReadOnly s u := by
  induction ds generalizing s i with
  | nil =>
    obtain rfl : u = s := h
    exact ⟨rfl, .refl u⟩
  | cons d r ih =>
    obtain ⟨t, e, hentry, hreason, hr⟩ := h
    have hread : ReadOnly s t := by
      have hentry' := readOnly_kindEntry s g.space g.eff.kinds (descKind d)
      rwa [hentry] at hentry'
    obtain ⟨hcheck, hreads⟩ := ih (hread.runsIn hs) hr (i + 1)
    refine ⟨?_, hread.trans hreads⟩
    rw [checkDescs, M.bind_run, checkDesc_run hs hentry, hreason]
    exact hcheck

/-- The first descriptor that fails traps. -/
theorem checkDescs_bad (hs : s.RunsIn g) {pre post : List (List Word)} {d : List Word} (hpre : Spec.Insertable g s pre u) {v : State}
    {e : Option (Word × Word)} (hentry : u.kindEntry g.space g.eff.kinds (descKind d) = (v, .ok e)) (hreason : insertReason d e ≠ 0) (i : Nat) :
    checkDescs i (pre ++ d :: post) s = .error (.trap cFMTCHK (badProduct (i + pre.length) d e)) := by
  induction pre generalizing s i with
  | nil =>
    obtain rfl : u = s := hpre
    rw [List.nil_append, checkDescs, M.bind_run, checkDesc_run hs hentry, beq_false_of_ne hreason]
    rfl
  | cons c r ih =>
    obtain ⟨t, x, hx, hok, hr⟩ := hpre
    have hread : ReadOnly s t := by
      have hentry' := readOnly_kindEntry s g.space g.eff.kinds (descKind c)
      rwa [hx] at hentry'
    rw [List.cons_append, checkDescs, M.bind_run, checkDesc_run hs hx, hok]
    refine (ih (hread.runsIn hs) hr (i + 1)).trans ?_
    rw [List.length_cons, Nat.add_right_comm, Nat.add_assoc]

end Checks

/-! ### The product buffer (R211) -/

/-- The bytes of doublewords one behind the other. -/
def wordBytes (ws : List Word) : List Byte := ws.flatMap fun w => leBytes 8 w.toNat

theorem length_wordBytes (ws : List Word) : (wordBytes ws).length = 8 * ws.length := by
  induction ws with
  | nil => rfl
  | cons w r ih =>
    rw [wordBytes, List.flatMap_cons, List.length_append, length_leBytes, ← wordBytes, ih, List.length_cons]
    omega

theorem spanOf_add {α : Type} (f : Nat → α) (a m n : Nat) : spanOf f a (m + n) = spanOf f a m ++ spanOf f (a + m) n := by
  induction m generalizing a with
  | zero => simp [spanOf]
  | succ m ih => rw [Nat.succ_add, spanOf, ih, spanOf, List.cons_append, Nat.add_right_comm a 1 m, Nat.add_assoc a m 1]

/-- Memory that reads as doublewords has each at its place. -/
theorem word_of_read {m : Memory} {a : Nat} {ws : List Word} (h : m.read a (8 * ws.length) = wordBytes ws) {j : Nat} (hj : j < ws.length) :
    m.word (a + 8 * j) = ws[j] := by
  induction ws generalizing a j with
  | nil => exact absurd hj (by simp)
  | cons w r ih =>
    rw [Memory.read, List.length_cons, Nat.mul_succ, Nat.add_comm, spanOf_add, wordBytes, List.flatMap_cons] at h
    obtain ⟨hw, hr⟩ := List.append_inj h (by simp)
    cases j with
    | zero =>
      rw [Nat.mul_zero, Nat.add_zero, Memory.word, Memory.read, hw, leNat_leBytes]
      exact BitVec.eq_of_toNat_eq (by rw [BitVec.toNat_ofNat]; exact (Nat.mod_mod _ _).trans (Nat.mod_eq_of_lt w.isLt))
    | succ j =>
      rw [Nat.mul_succ, Nat.add_comm (8 * j), ← Nat.add_assoc]
      exact ih hr (by simpa using hj)

/-- Products laid out in the buffer from index `k` on. -/
def productParts (ds : List (List Word)) (k : Nat) : List (Nat × List Byte) := (ds.zipIdx k).map fun e => (32 * e.2, wordBytes e.1)

theorem laidOut_productParts {ds : List (List Word)} (h : ∀ d ∈ ds, d.length = 4) (k : Nat) :
    LaidOut (32 * k) (productParts ds k) (32 * (k + ds.length)) := by
  induction ds generalizing k with
  | nil => exact Nat.le_refl _
  | cons d r ih =>
    have hnext : 32 * k + (wordBytes d).length = 32 * (k + 1) := by
      rw [length_wordBytes, h d List.mem_cons_self]
      omega
    refine ⟨Nat.le_refl _, ?_⟩
    show LaidOut (32 * k + (wordBytes d).length) (productParts r (k + 1)) _
    rw [hnext, List.length_cons, Nat.add_comm r.length, ← Nat.add_assoc]
    exact ih (fun x hx => h x (List.mem_cons_of_mem d hx)) (k + 1)

/-- A core with products put behind those in its buffer. -/
def Core.buffered (c : Core) (ds : List (List Word)) : Core :=
  { (ds.zipIdx.foldl (fun c e => c.putProduct (c.pcnt + e.2) e.1) c) with pcnt := c.pcnt + ds.length }

theorem buffered_eq (c : Core) (ds : List (List Word)) :
    c.buffered ds = { c with arr := c.arr.writeAll (0x1000 + 32 * c.pcnt) (productParts ds 0), pcnt := c.pcnt + ds.length } := by
  have hfold (l : List (List Word × Nat)) (c : Core) : l.foldl (fun c e => c.putProduct (c.pcnt + e.2) e.1) c =
      { c with arr := c.arr.writeAll (0x1000 + 32 * c.pcnt) (l.map fun e => (32 * e.2, wordBytes e.1)) } := by
    induction l generalizing c with
    | nil => rfl
    | cons e r ih =>
      rw [List.foldl_cons, ih, List.map_cons, Memory.writeAll_cons, Nat.add_assoc, ← Nat.mul_add]
      rfl
  rw [Core.buffered, hfold]
  rfl

/-- What the buffer holds after products were put into it, and what else of the core stays. -/
theorem buffered_spec {c : Core} (hwf : c.arr.wf = true) {ds : List (List Word)} (h4 : ∀ d ∈ ds, d.length = 4) :
    (∀ i (hi : i < ds.length) j, j < 4 → (c.buffered ds).arr.word (0x1000 + 32 * (c.pcnt + i) + 8 * j) = ds[i].getD j 0) ∧
    ∀ a, a < 0x1000 + 32 * c.pcnt ∨ 0x1000 + 32 * (c.pcnt + ds.length) ≤ a → (c.buffered ds).arr.byte a = c.arr.byte a := by
  have hlaid := laidOut_productParts h4 0
  rw [buffered_eq]
  refine ⟨fun i hi j hj => ?_, fun a ha => ?_⟩
  · have hlen : ds[i].length = 4 := h4 _ (List.getElem_mem hi)
    have hpart : (32 * i, wordBytes ds[i]) ∈ productParts ds 0 :=
      List.mem_map.2 ⟨(ds[i], i), List.mk_mem_zipIdx_iff_getElem?.2 (List.getElem?_eq_getElem hi), rfl⟩
    have hread := Memory.read_writeAll hwf (0x1000 + 32 * c.pcnt) hlaid hpart
    rw [length_wordBytes] at hread
    rw [show 0x1000 + 32 * (c.pcnt + i) + 8 * j = 0x1000 + 32 * c.pcnt + 32 * i + 8 * j by omega,
      word_of_read hread (by omega), List.getD_eq_getElem]
  · exact Memory.byte_writeAll_other _ _ hlaid (by omega)

/-! ### Descriptors of an array -/

theorem fours_spec {n : Nat} {ws : List Word} (h : ws.length = 4 * n) :
    (fours ws).length = n ∧ (∀ d ∈ fours ws, d.length = 4) ∧
    ∀ i (hi : i < (fours ws).length) j, j < 4 → (fours ws)[i].getD j 0 = ws.getD (4 * i + j) 0 := by
  induction n generalizing ws with
  | zero =>
    obtain rfl : ws = [] := List.eq_nil_of_length_eq_zero h
    exact ⟨rfl, by simp [fours], fun i hi => absurd hi (by simp [fours])⟩
  | succ n ih =>
    match ws, h with
    | a :: b :: c :: d :: r, h =>
      obtain ⟨hlen, h4, hget⟩ := ih (ws := r) (by simp only [List.length_cons] at h; omega)
      refine ⟨congrArg (· + 1) hlen, fun x hx => ?_, fun i hi j hj => ?_⟩
      · rcases List.mem_cons.1 hx with rfl | hx
        · rfl
        · exact h4 x hx
      · cases i with
        | zero => interval_cases j <;> rfl
        | succ i =>
          rw [show 4 * (i + 1) + j = 4 * i + j + 4 by omega]
          exact hget i (Nat.lt_of_succ_lt_succ hi) j hj

end Sys2Proof.Machine

/-! INDESC, EMIT and EMITV (R210 to R212). -/

namespace Sys2Proof.Machine
open Host

/-! ### Instructions that issue -/

@[simp] theorem Core.inHandler_begin (c : Core) (len : Nat) : (c.begin len).inHandler = c.inHandler := rfl

/-- Bodies that do the same where an instruction starts make the same instruction. -/
theorem issue_congr {s : State} {len : Nat} {stl : BitVec 2} {body body' : M Unit} (h : body (s.at len) = body' (s.at len)) :
    issue len stl body s = issue len stl body' s := by
  have h' : body (s.setCore s.cur ((s.core s.cur).begin len)) = body' (s.setCore s.cur ((s.core s.cur).begin len)) := h
  simp only [issue, h']

/-! ### INDESC (R210) -/

section Firing

variable {s : State} {f : Firing}

theorem indesc_at (h : Quiet s) (hf : s.firingOf s.cur = some f) (sel : BitVec 3) (word slot : BitVec 2) {rd : BitVec 5} (hd : s.mayWrite rd)
    (stl : BitVec 2) : exec (.indesc sel word slot rd stl) s = .next (s.wrote 4 stl rd
      (indescValue (spanOf (fun i => s.me.arr.word (0x600 + 32 * slot.toNat + 8 * i)) 0 4) sel.toNat word.toNat) 0) := by
  apply issue_after (u := ())
  simp only [M.bind_run, readyM_at h, firingM_some hf, M.getC_run, State.at_me, Core.begin_arr, put_at _ _ hd]

theorem indesc_without_firing (h : Quiet s) (hf : s.firingOf s.cur = none) (sel : BitVec 3) (word slot : BitVec 2) (rd : BitVec 5)
    (stl : BitVec 2) : exec (.indesc sel word slot rd stl) s = .next (s.takeTrap s.cur 1 (instrBits (.indesc sel word slot rd stl))) := by
  apply issue_trap
  simp only [M.bind_run, readyM_at h, firingM_none hf]
  rfl

theorem spanOf_four_getD {α : Type} (g : Nat → α) (x : α) (word : BitVec 2) : (spanOf g 0 4).getD word.toNat x = g word.toNat := by
  have := word.isLt
  interval_cases word.toNat <;> rfl

/-- What INDESC reads is the field as R17 places it. -/
theorem indescValue_spec (w : Nat → Word) (sel : BitVec 3) (word : BitVec 2) :
    let fld (i lo n : Nat) : Word := BitVec.ofNat 64 ((w i).toNat / 2 ^ lo % 2 ^ n)
    indescValue (spanOf w 0 4) sel.toNat word.toNat =
      [w word.toNat, fld 0 0 16, fld 0 16 24, fld 0 40 24, fld 3 32 32, fld 2 53 8, fld 3 0 16, fld 3 16 16].getD sel.toNat 0 := by
  intro fld
  have hfld (i lo n : Nat) : fld i lo n = BitVec.ofNat 64 (fieldNat (w i) lo n) := by rw [fieldNat_eq]
  have hsel := sel.isLt
  simp only [hfld]
  interval_cases sel.toNat
  · exact spanOf_four_getD w 0 word
  all_goals rfl

/-! ### Who may emit (R208, R212, R226) -/

theorem emitterM_inBody (h : Spec.InBody s f) (hst : isStager s.cur = false) (bits : Word) (len : Nat) :
    emitterM bits (s.at len) = .ok ((), s.at len) := by
  simp only [emitterM, M.bind_run, firingM_some h.runs, M.get_run, State.at_me, Core.inHandler_begin, h.handler, Core.begin_undo, h.undo,
    State.at_cur, hst]
  rfl

theorem emitterM_illop (h : s.firingOf s.cur = none ∨ s.me.inHandler = true ∨ s.me.undo = true ∨ isStager s.cur = true) (bits : Word)
    (len : Nat) : emitterM bits (s.at len) = .error (.trap cILLOP bits) := by
  cases hf : s.firingOf s.cur with
  | none => rw [emitterM, M.bind_run, firingM_none hf]
  | some f =>
    have hbad : (!s.me.inHandler && !s.me.undo && !isStager s.cur) = false := by
      rcases h with h | h | h | h
      · exact absurd (hf.symm.trans h) (by simp)
      all_goals simp [h]
    simp only [emitterM, M.bind_run, firingM_some hf, M.get_run, State.at_me, Core.inHandler_begin, Core.begin_undo, State.at_cur, hbad,
      M.need_false]

theorem emit_illop (hq : Quiet s) (h : s.firingOf s.cur = none ∨ s.me.inHandler = true ∨ s.me.undo = true ∨ isStager s.cur = true)
    (r : BitVec 3) (stl : BitVec 2) : exec (.emit r stl) s = .next (s.takeTrap s.cur 1 (instrBits (.emit r stl))) := by
  apply issue_trap
  simp only [M.bind_run, readyM_at hq, emitterM_illop h]
  rfl

theorem emitv_illop (hq : Quiet s) (h : s.firingOf s.cur = none ∨ s.me.inHandler = true ∨ s.me.undo = true ∨ isStager s.cur = true)
    (rb ra : BitVec 5) (stl : BitVec 2) : exec (.emitv rb ra stl) s = .next (s.takeTrap s.cur 1 (instrBits (.emitv rb ra stl))) := by
  apply issue_trap
  simp only [M.bind_run, readyM_at hq, emitterM_illop h]
  rfl

/-! ### Room in the buffer, the checks and the buffering -/

theorem roomM_at (n len : Nat) : roomM n (s.at len) =
    need (decide (s.me.pcnt + n ≤ 64)) cPRODOVF (BitVec.ofNat 64 (s.me.pcnt % 128 * 2 ^ 16 + min n 0xFFFF)) (s.at len) := by
  simp only [roomM, M.bind_run, M.getC_run, State.at_me, Core.begin_pcnt]
  rfl

theorem roomM_fits {n : Nat} (h : s.me.pcnt + n ≤ 64) (len : Nat) : roomM n (s.at len) = .ok ((), s.at len) := by
  rw [roomM_at, decide_eq_true h]
  rfl

theorem roomM_full {n : Nat} (h : 64 < s.me.pcnt + n) (len : Nat) :
    roomM n (s.at len) = .error (.trap 9 (BitVec.ofNat 64 (s.me.pcnt % 128 * 2 ^ 16 + min n 0xFFFF))) := by
  rw [roomM_at, decide_eq_false (Nat.not_le.2 h)]
  rfl

end Firing

section Buffer

variable {s u v : State} {g : Region}

theorem bufferM_insertable (hs : s.RunsIn g) {ds : List (List Word)} (h : Spec.Insertable g s ds u) :
    bufferM ds s = .ok ((), u.modCore u.cur (·.buffered ds)) := by
  obtain ⟨hcheck, -⟩ := checkDescs_insertable hs h s.me.pcnt
  simp only [bufferM, M.bind_run, M.getC_run, hcheck, M.modC_run]
  rfl

theorem bufferM_bad (hs : s.RunsIn g) {pre post : List (List Word)} {d : List Word} (hpre : Spec.Insertable g s pre u)
    {e : Option (Word × Word)} (hentry : u.kindEntry g.space g.eff.kinds (descKind d) = (v, .ok e)) (hreason : insertReason d e ≠ 0) :
    bufferM (pre ++ d :: post) s = .error (.trap cFMTCHK (badProduct (s.me.pcnt + pre.length) d e)) := by
  simp only [bufferM, M.bind_run, M.getC_run, checkDescs_bad hs hpre hentry hreason]

theorem ReadOnly.loadOnly (h : ReadOnly s u) (k : Nat) : LoadOnly k s u := loadOnly_of_belowCores h.toBelowCores h.beyond k

/-- Products that joined the buffer of a core that only loaded before. -/
theorem buffered_of_loadOnly (h : LoadOnly s.cur (s.at 4) u) (hwf : s.me.arr.wf = true) {ds : List (List Word)} {ws : List Word} {n : Nat}
    (hn : ds.length = n) (h4 : ∀ d ∈ ds, d.length = 4) (hws : ∀ i (hi : i < ds.length) j, j < 4 → ds[i].getD j 0 = ws.getD (4 * i + j) 0)
    (stl : BitVec 2) : Spec.Buffered s ((u.modCore u.cur (·.buffered ds)).modCore s.cur (·.retired stl)) ws n := by
  have hcur : u.cur = s.cur := h.cur
  have hat : (s.at 4).core s.cur = s.me.begin 4 := State.at_me
  have hme : ((u.modCore u.cur (·.buffered ds)).modCore s.cur (·.retired stl)).me = ((u.core s.cur).buffered ds).retired stl := by
    rw [State.me, State.modCore_cur, State.modCore_cur, hcur, State.core_modCore_same, State.core_modCore_same]
  have harr : (u.core s.cur).arr = s.me.arr := h.arr.trans (by rw [hat]; rfl)
  have hpcnt : (u.core s.cur).pcnt = s.me.pcnt := h.pcnt.trans (by rw [hat]; rfl)
  obtain ⟨hput, hother⟩ := buffered_spec (c := u.core s.cur) (by rw [harr]; exact hwf) h4
  subst hn
  rw [Spec.Buffered, hme, ← hpcnt, ← harr]
  simp only [Core.retired_pcnt, Core.retired_pc, Core.retired_cr, Core.retired_preds, Core.retired_arr]
  have heq := buffered_eq (u.core s.cur) ds
  refine ⟨by rw [heq], ?_, ?_, ?_, fun i j hi hj => ?_, hother⟩
  · rw [heq]
    exact h.pc.trans (by rw [hat]; rfl)
  · rw [heq]
    exact h.cr.trans (by rw [hat]; rfl)
  · rw [heq]
    exact h.preds.trans (by rw [hat]; rfl)
  · exact (hput i hi j hj).trans (hws i hi j hj)

end Buffer

/-! ### EMIT and EMITV -/

theorem toNat_quadReg_add {r : BitVec 3} {i : Nat} (hi : i < 4) : (quadReg r + BitVec.ofNat 5 i).toNat = 4 * r.toNat + i := by
  have hquad : (quadReg r).toNat = 4 * r.toNat := by
    revert r
    decide
  have := r.isLt
  rw [BitVec.toNat_add, hquad, BitVec.toNat_ofNat]
  omega

section Emit

variable {s u v : State} {f : Firing} {g : Region}

/-- What EMIT does once its core may emit: its four registers are one product. -/
theorem emit_body (hq : Quiet s) (hin : Spec.InBody s f) (hst : isStager s.cur = false) {r : BitVec 3}
    (hr : ∀ i, i < 4 → s.plain (quadReg r + BitVec.ofNat 5 i)) (stl : BitVec 2) :
    exec (.emit r stl) s = issue 4 stl (do
      roomM 1
      bufferM [[s.me.reg (4 * r.toNat), s.me.reg (4 * r.toNat + 1), s.me.reg (4 * r.toNat + 2), s.me.reg (4 * r.toNat + 3)]]) s := by
  have hsrc {i : Nat} (hi : i < 4) : src (quadReg r + BitVec.ofNat 5 i) (s.at 4) = .ok (s.me.reg (4 * r.toNat + i), s.at 4) := by
    rw [src_at hq (hr i hi), toNat_quadReg_add hi]
  have h0 : src (quadReg r) (s.at 4) = .ok (s.me.reg (4 * r.toNat + 0), s.at 4) := by
    rw [← BitVec.add_zero (quadReg r)]
    exact hsrc (by decide)
  have h1 : src (quadReg r + 1) (s.at 4) = _ := hsrc (i := 1) (by decide)
  have h2 : src (quadReg r + 2) (s.at 4) = _ := hsrc (i := 2) (by decide)
  have h3 : src (quadReg r + 3) (s.at 4) = _ := hsrc (i := 3) (by decide)
  refine issue_congr ?_
  simp only [M.bind_run, readyM_at hq, emitterM_inBody hin hst, h0, h1, h2, h3, Nat.add_zero]

theorem buffered_of_insertable (hin : Spec.InBody s f) (hwf : s.me.arr.wf = true) (hg : s.region? f.region = some g) {ds : List (List Word)}
    (h : LoadOnly s.cur (s.at 4) v) (hu : Spec.Insertable g v ds u) {ws : List Word} {n : Nat} (hn : ds.length = n) (h4 : ∀ d ∈ ds, d.length = 4)
    (hws : ∀ i (hi : i < ds.length) j, j < 4 → ds[i].getD j 0 = ws.getD (4 * i + j) 0) {body : M Unit}
    (hbody : body (s.at 4) = bufferM ds v) (stl : BitVec 2) : ∃ t, issue 4 stl body s = .next t ∧ Spec.Buffered s t ws n := by
  have hs : v.RunsIn g := h.runsIn (runsIn_at hin.runs hg 4)
  obtain ⟨-, hread⟩ := checkDescs_insertable hs hu 0
  exact ⟨_, issue_ok (hbody.trans (bufferM_insertable hs hu)), buffered_of_loadOnly (h.trans (hread.loadOnly _)) hwf hn h4 hws stl⟩

theorem emit_insertable (hq : Quiet s) (hin : Spec.InBody s f) (hst : isStager s.cur = false) (hwf : s.me.arr.wf = true) {r : BitVec 3}
    (hr : ∀ i, i < 4 → s.plain (quadReg r + BitVec.ofNat 5 i)) (stl : BitVec 2) (hroom : s.me.pcnt < 64) (hg : s.region? f.region = some g)
    {ws : List Word} (hws : ws = [s.me.reg (4 * r.toNat), s.me.reg (4 * r.toNat + 1), s.me.reg (4 * r.toNat + 2), s.me.reg (4 * r.toNat + 3)])
    (h : Spec.Insertable g (s.at 4) [ws] u) : ∃ t, exec (.emit r stl) s = .next t ∧ Spec.Buffered s t ws 1 := by
  rw [emit_body hq hin hst hr, ← hws]
  refine buffered_of_insertable hin hwf hg (.refl _ _) h rfl ?_ ?_ ?_ stl
  · simp [hws]
  · intro i hi j hj
    obtain rfl : i = 0 := by simpa using hi
    simp
  · rw [M.bind_run, roomM_fits (by omega)]

theorem emit_bad (hq : Quiet s) (hin : Spec.InBody s f) (hst : isStager s.cur = false) {r : BitVec 3}
    (hr : ∀ i, i < 4 → s.plain (quadReg r + BitVec.ofNat 5 i)) (stl : BitVec 2) (hroom : s.me.pcnt < 64) (hg : s.region? f.region = some g)
    {ws : List Word} (hws : ws = [s.me.reg (4 * r.toNat), s.me.reg (4 * r.toNat + 1), s.me.reg (4 * r.toNat + 2), s.me.reg (4 * r.toNat + 3)])
    {e : Option (Word × Word)} (hentry : (s.at 4).kindEntry g.space g.eff.kinds (descKind ws) = (u, .ok e)) (hreason : insertReason ws e ≠ 0) :
    exec (.emit r stl) s = .next (s.takeTrap s.cur 3 (badProduct s.me.pcnt ws e)) := by
  rw [emit_body hq hin hst hr, ← hws]
  apply issue_trap
  rw [M.bind_run, roomM_fits (by omega)]
  have hbad := bufferM_bad (post := []) (runsIn_at hin.runs hg 4) (pre := []) rfl hentry hreason
  rwa [State.at_me] at hbad

theorem emit_full (hq : Quiet s) (hin : Spec.InBody s f) (hst : isStager s.cur = false) {r : BitVec 3}
    (hr : ∀ i, i < 4 → s.plain (quadReg r + BitVec.ofNat 5 i)) (stl : BitVec 2) (hroom : 64 ≤ s.me.pcnt) :
    exec (.emit r stl) s = .next (s.takeTrap s.cur 9 (BitVec.ofNat 64 (s.me.pcnt % 128 * 2 ^ 16 + 1))) := by
  rw [emit_body hq hin hst hr]
  apply issue_trap
  rw [M.bind_run, roomM_full (by omega)]
  rfl

/-- What EMITV does once its core may emit. -/
theorem emitv_body (hq : Quiet s) (hin : Spec.InBody s f) (hst : isStager s.cur = false) {ra rb : BitVec 5} (ha : s.plain ra) (hb : s.plain rb)
    (stl : BitVec 2) : exec (.emitv rb ra stl) s = issue 4 stl (do
      roomM (s.me.reg rb.toNat).toNat
      if (s.me.reg rb.toNat).toNat ≠ 0 then
        need ((s.me.reg ra.toNat).toNat % 8 == 0) cALIGN (s.me.reg ra.toNat)
        let ws ← loadWordsM (vaOf (s.me.reg ra.toNat)) (4 * (s.me.reg rb.toNat).toNat)
        bufferM (fours ws)) s := by
  refine issue_congr ?_
  simp only [M.bind_run, readyM_at hq, emitterM_inBody hin hst, src_at hq ha, src_at hq hb]

section Emitv

variable (hq : Quiet s) (hin : Spec.InBody s f) (hst : isStager s.cur = false) {ra rb : BitVec 5} (ha : s.plain ra) (hb : s.plain rb)
  (stl : BitVec 2)
include hq hin hst ha hb

theorem emitv_none (hn : (s.me.reg rb.toNat).toNat = 0) (hroom : s.me.pcnt ≤ 64) :
    exec (.emitv rb ra stl) s = .next (s.after 4 stl id) := by
  rw [emitv_body hq hin hst ha hb, hn]
  apply issue_after (u := ())
  rw [M.bind_run, roomM_fits (by omega)]
  rfl

theorem emitv_full (hroom : 64 < s.me.pcnt + (s.me.reg rb.toNat).toNat) : exec (.emitv rb ra stl) s =
    .next (s.takeTrap s.cur 9 (BitVec.ofNat 64 (s.me.pcnt % 128 * 2 ^ 16 + min (s.me.reg rb.toNat).toNat 0xFFFF))) := by
  rw [emitv_body hq hin hst ha hb]
  apply issue_trap
  rw [M.bind_run, roomM_full hroom]

theorem emitv_misaligned (hn : 0 < (s.me.reg rb.toNat).toNat) (hroom : s.me.pcnt + (s.me.reg rb.toNat).toNat ≤ 64)
    (halign : (s.me.reg ra.toNat).toNat % 8 ≠ 0) : exec (.emitv rb ra stl) s = .next (s.takeTrap s.cur 5 (s.me.reg ra.toNat)) := by
  rw [emitv_body hq hin hst ha hb]
  apply issue_trap
  rw [M.bind_run, roomM_fits hroom, if_pos (by omega), beq_false_of_ne halign]
  rfl

/-- The descriptors of an array that is there, and that the buffer has room for. -/
theorem emitv_loaded {a : Nat} (hn : 0 < (s.me.reg rb.toNat).toNat) (hroom : s.me.pcnt + (s.me.reg rb.toNat).toNat ≤ 64)
    (halign : (s.me.reg ra.toNat).toNat % 8 = 0) (hva : a = (s.me.reg ra.toNat).toNat % 2 ^ 53) {ws : List Word}
    (hload : loadWordsM a (4 * (s.me.reg rb.toNat).toNat) (s.at 4) = .ok (ws, v)) :
    ∃ body : M Unit, exec (.emitv rb ra stl) s = issue 4 stl body s ∧ body (s.at 4) = bufferM (fours ws) v := by
  refine ⟨_, emitv_body hq hin hst ha hb stl, ?_⟩
  subst hva
  rw [M.bind_run, roomM_fits hroom, if_pos (by omega), halign]
  simp only [beq_self_eq_true, M.bind_run, M.need_true]
  rw [show vaOf (s.me.reg ra.toNat) = (s.me.reg ra.toNat).toNat % 2 ^ 53 from rfl, hload]

end Emitv

end Emit

/-- Settles O40: the checks of R24 only read, so that the core runs its firing in its region at each of them, and the products are written one
behind the other where none is buffered yet. -/
theorem inputsAndProducts : Obligations.InputsAndProducts := by
  unfold Obligations.InputsAndProducts
  intro s f g sel r word slot stl rb ra rd hq w fld q n a bad
  refine ⟨fun hd hf => ?_, fun hin hst hwf => ⟨fun hr => ⟨fun u hroom hg h => ?_, fun u e hroom hg hentry hreason => ?_, fun hroom => ?_⟩,
    fun ha hb => ⟨fun hn hroom => ?_, fun s1 u ws hn hroom halign hg hload h => ?_,
      fun s1 u v ws pre d post e hn hroom halign hg hload hfours hpre hentry hreason => ?_, fun hroom => ?_, fun hn hroom halign => ?_⟩⟩,
    fun hf => indesc_without_firing hq hf sel word slot rd stl, fun h => ⟨emit_illop hq h r stl, emitv_illop hq h rb ra stl⟩⟩
  · rw [indesc_at hq hf sel word slot hd, indescValue_spec]
  · exact emit_insertable hq hin hst hwf hr stl hroom hg rfl h
  · exact emit_bad hq hin hst hr stl hroom hg rfl hentry hreason
  · exact emit_full hq hin hst hr stl hroom
  · exact emitv_none hq hin hst ha hb stl hn hroom
  · obtain ⟨body, hexec, hbody⟩ := emitv_loaded hq hin hst ha hb stl hn hroom halign rfl hload
    obtain ⟨hloads, hlen⟩ := loadOnly_loadWordsM hload
    obtain ⟨hlen4, h4, hws⟩ := fours_spec hlen
    rw [hexec]
    exact buffered_of_insertable hin hwf hg hloads h hlen4 h4 hws hbody stl
  · obtain ⟨body, hexec, hbody⟩ := emitv_loaded hq hin hst ha hb stl hn hroom halign rfl hload
    obtain ⟨hloads, -⟩ := loadOnly_loadWordsM hload
    rw [hexec]
    apply issue_trap
    have hpcnt : s1.me.pcnt = s.me.pcnt := by
      rw [State.me, hloads.cur]
      exact hloads.pcnt.trans (congrArg Core.pcnt (State.at_me (s := s) (len := 4)) :)
    rw [hbody, hfours, bufferM_bad (hloads.runsIn (runsIn_at hin.runs hg 4)) hpre hentry hreason, hpcnt]
    rfl
  · exact emitv_full hq hin hst ha hb stl hroom
  · exact emitv_misaligned hq hin hst ha hb stl hn hroom halign

end Sys2Proof.Machine

/-! COMMIT and ABORT, and what an undo routine may not run (R178, R209, R213, R216, R225, R226). -/

namespace Sys2Proof.Machine
open Host

/-! ### Releases (R241, R331) -/

theorem cacheOnly_releaseAt (s : State) (k scope : Nat) : CacheOnly k s (s.releaseAt k scope) := by
  have hl1 := CacheOnly.foldl (fun s n => cacheOnly_writeBackL1 s k n false) (lineNums (s.core k).l1) s
  unfold State.releaseAt
  split
  · exact .refl k s
  dsimp only
  split
  · exact hl1
  · exact hl1.trans ((BelowCores.foldl (fun s n => belowCores_writeBackCluster s (clusterOf k) n false) _ _).cacheOnly k)

theorem belowCores_mergeClusterFlags (s : State) (c : Nat) : BelowCores s (s.mergeClusterFlags c) := by
  have hflags := BelowCores.foldl (fun s (o : OwnedLine) => belowCores_mergeFlags s o.line.num o.flags) (s.cluster c).owned s
  unfold State.mergeClusterFlags
  exact hflags.trans (belowCores_modCluster _ c _)

theorem cacheOnly_release (s : State) (k scope : Nat) : CacheOnly k s (s.release k scope) := by
  have hat := cacheOnly_releaseAt s k scope
  unfold State.release
  dsimp only
  split
  · exact hat.trans ((belowCores_mergeClusterFlags _ _).cacheOnly k)
  · exact hat

theorem beyondMemory_releaseAt (s : State) (k scope : Nat) : (s.releaseAt k scope).beyondMemory = s.beyondMemory := by
  have hl1 := beyondMemory_foldl (fun s n => beyondMemory_writeBackL1 s k n false) (lineNums (s.core k).l1) s
  unfold State.releaseAt
  split
  · rfl
  dsimp only
  split
  · exact hl1
  · exact (beyondMemory_foldl (fun s n => beyondMemory_writeBackCluster s (clusterOf k) n false) _ _).trans hl1

theorem beyondMemory_mergeClusterFlags (s : State) (c : Nat) : (s.mergeClusterFlags c).beyondMemory = s.beyondMemory := by
  have hflags := beyondMemory_foldl (fun s (o : OwnedLine) => beyondMemory_mergeFlags s o.line.num o.flags) (s.cluster c).owned s
  unfold State.mergeClusterFlags
  exact (beyondMemory_modCluster _ c _).trans hflags

theorem beyondMemory_release (s : State) (k scope : Nat) : (s.release k scope).beyondMemory = s.beyondMemory := by
  have hat := beyondMemory_releaseAt s k scope
  unfold State.release
  dsimp only
  split
  · exact (beyondMemory_mergeClusterFlags _ _).trans hat
  · exact hat

/-! ### An instruction that waits -/

/-- The body of an instruction runs `x`, then `f`: the step that fails decides. -/
theorem bind_error {α β : Type} {x : M α} {f : α → M β} {s : State} {e : Stop} (h : x s = .error e) : (x >>= f) s = .error e := by
  rw [M.bind_run, h]

theorem bind_ok {α β : Type} {x : M α} {f : α → M β} {s t : State} {a : α} (h : x s = .ok (a, t)) : (x >>= f) s = f a t := by
  rw [M.bind_run, h]

/-- An instruction that has not been performed leaves the state in which it waits, with the PC as it was. -/
theorem issue_hold {len : Nat} {stl : BitVec 2} {body : M Unit} {s t : State} (h : body (s.at len) = .error (.hold t)) :
    issue len stl body s = .next ((t.modCore s.cur fun x => x.back s.me.pc s.me.empty).stalled s.cur) := by
  have h' : body (s.setCore s.cur ((s.core s.cur).begin len)) = .error (.hold t) := h
  simp only [issue, h']
  rfl

section Ends

variable {s : State} {f : Firing} {len : Nat}

theorem deferredPoison_none (h : s.me.poisonAt = none) : deferredPoison (s.at len) = .ok ((), s.at len) := by
  simp only [deferredPoison, M.bind_run, M.get_run, State.at_me, Core.begin_poisonAt, h, M.pure_run]

/-! ### COMMIT and C.CMT -/

/-- What COMMIT does once its firing runs outside its handler and undo routines, and nothing is on its way. -/
theorem commitM_inBody (hq : Quiet s) (h : Spec.InBody s f) (hp : s.me.poisonAt = none) (bits : Word) :
    commitM bits (s.at len) =
      if s.engineBusy f.id || !s.insertTurn [] then .error (.hold ((s.at len).modCore s.cur fun c => { c with committing := true }))
      else
        let u := (s.at len).release s.cur s.regionScope
        .error (.fin (if u.isKilled f then u.abortFiring u.cur f else u.commitCore u.cur f)) := by
  have hneed : (!s.me.inHandler && !s.me.undo) = true := by rw [h.handler, h.undo]; rfl
  rw [commitM, bind_ok (deferredPoison_none hp), bind_ok (firingM_some h.runs bits len)]
  simp only [M.bind_run, M.getC_run, State.at_me, Core.inHandler_begin, Core.begin_undo, hneed, M.need_true, settleM_at hq, M.get_run]
  rw [show (s.at len).engineBusy f.id = s.engineBusy f.id from rfl, show (s.at len).insertTurn [] = s.insertTurn [] from rfl]
  split <;> rfl

theorem commitM_illop (hp : s.me.poisonAt = none) (h : s.firingOf s.cur = none ∨ s.me.inHandler = true ∨ s.me.undo = true) (bits : Word) :
    commitM bits (s.at len) = .error (.trap 1 bits) := by
  rw [commitM, bind_ok (deferredPoison_none hp)]
  cases hf : s.firingOf s.cur with
  | none => exact bind_error (firingM_none hf bits len)
  | some f =>
    have hneed : (!s.me.inHandler && !s.me.undo) = false := by
      rcases h with h | h | h
      · exact absurd (hf.symm.trans h) (by simp)
      all_goals simp [h]
    rw [bind_ok (firingM_some hf bits len)]
    simp only [M.bind_run, M.getC_run, State.at_me, Core.inHandler_begin, Core.begin_undo, hneed, M.need_false]
    rfl

theorem commit_performed (hq : Quiet s) (h : Spec.InBody s f) (hp : s.me.poisonAt = none) (hbusy : s.engineBusy f.id = false)
    (hturn : s.insertTurn [] = true) (stl : BitVec 2) (bits : Word) : issue len stl (commitM bits) s =
      let u := (s.at len).release s.cur s.regionScope
      .next (if u.isKilled f then u.abortFiring s.cur f else u.commitCore s.cur f) := by
  refine issue_fin ?_
  have hcur : ((s.at len).release s.cur s.regionScope).cur = s.cur := (congrArg State.cur (beyondMemory_release _ _ _) :)
  rw [commitM_inBody hq h hp bits, hbusy, hturn]
  dsimp only
  rw [hcur]
  rfl

theorem commit_waits (hq : Quiet s) (h : Spec.InBody s f) (hp : s.me.poisonAt = none)
    (hwait : s.engineBusy f.id = true ∨ s.insertTurn [] = false) (stl : BitVec 2) (bits : Word) : ∃ u, issue len stl (commitM bits) s = .next u ∧
      u.me.pc = s.me.pc ∧ u.me.committing = true ∧ u.me.run = s.me.run ∧ u.tiles = s.tiles := by
  have hbusy : (s.engineBusy f.id || !s.insertTurn []) = true := by rcases hwait with hb | hb <;> simp [hb]
  refine ⟨_, issue_hold (by rw [commitM_inBody hq h hp bits, if_pos hbusy]), ?_⟩
  let t := ((s.at len).modCore s.cur fun c => { c with committing := true }).modCore s.cur fun x => x.back s.me.pc s.me.empty
  have hcore : t.core s.cur = { (s.me.begin len) with committing := true, pc := s.me.pc, empty := s.me.empty || (s.me.begin len).empty } := by
    rw [State.core_modCore_same, State.core_modCore_same, show (s.at len).core s.cur = s.me.begin len from State.at_me]
    rfl
  have hstalled : t.stalled s.cur = t := State.stalled_quiet (by rw [hcore]; exact hq.pend)
  have hme : (t.stalled s.cur).me = t.core s.cur := by
    rw [hstalled]
    rfl
  rw [hme, hcore, hstalled]
  exact ⟨rfl, rfl, rfl, rfl⟩

/-! ### ABORT -/

theorem abort_runs (hf : s.firingOf s.cur = some f) (hundo : s.me.undo = false) (stl : BitVec 2) : exec (.abort stl) s = .next (
    if s.classOf f = 2 ∧ s.me.inHandler = true ∧ s.me.opened = true then
      ((s.at 4).faultRegion f.region (BitVec.ofNat 64 (32 + 10 * 2 ^ 32))).dropFiring f
    else (s.at 4).abortFiring s.cur f) := by
  refine issue_fin ?_
  rw [bind_ok (firingM_some hf _ 4)]
  simp only [M.bind_run, M.get_run, State.at_me, Core.begin_undo, hundo, Bool.not_false, M.need_true]
  by_cases h : s.classOf f = 2 ∧ s.me.inHandler = true ∧ s.me.opened = true
  · rw [if_pos h]
    exact congrArg (fun b : M Unit => b (s.at 4)) (if_pos h)
  · rw [if_neg h]
    exact congrArg (fun b : M Unit => b (s.at 4)) (if_neg h)

theorem abort_illop (h : s.firingOf s.cur = none ∨ s.me.undo = true) (stl : BitVec 2) :
    exec (.abort stl) s = .next (s.takeTrap s.cur 1 (instrBits (.abort stl))) := by
  refine issue_trap ?_
  cases hf : s.firingOf s.cur with
  | none => exact bind_error (firingM_none hf _ 4)
  | some f =>
    have hundo : s.me.undo = true := h.resolve_left (by simp [hf])
    rw [bind_ok (firingM_some hf _ 4)]
    simp only [M.bind_run, M.get_run, State.at_me, Core.begin_undo, hundo, Bool.not_true, M.need_false]
    rfl

/-! ### What an undo routine may not run (R226) -/

theorem boostedM_undo (hundo : s.me.undo = true) (bits : Word) : boostedM bits (s.at len) = .error (.trap 1 bits) := by
  cases hf : s.firingOf s.cur with
  | none => exact bind_error (firingM_none hf _ len)
  | some f =>
    rw [boostedM, bind_ok (firingM_some hf _ len)]
    simp only [M.bind_run, M.get_run, State.at_me, Core.begin_undo, hundo, Bool.not_true, Bool.and_false, M.need_false]
    rfl

theorem undo_illop (hq : Quiet s) (hf : s.firingOf s.cur = some f) (hthread : s.me.isThread = false) (hundo : s.me.undo = true)
    (hp : s.me.poisonAt = none) (last kh : BitVec 1) (r : BitVec 3) (rb ra kl rd : BitVec 5) (stl : BitVec 2) :
    ∀ i ∈ [Instr.bop kh rb ra kl stl, .bopEnd stl, .emit r stl, .emitv rb ra stl, .commit stl, .cCmt, .abort stl, .idem ra stl,
      .rspawn ra rd stl, .qsend last rb ra stl], exec i s = .next (s.takeTrap s.cur 1 (instrBits i)) := by
  simp only [List.forall_mem_cons, List.not_mem_nil, false_implies, implies_true, and_true]
  have hc : (s.at 4).me.undo = true := by rw [State.at_me, Core.begin_undo, hundo]
  have hidem : (s.at 4).me.isThread = false := by rw [State.at_me]; exact hthread
  refine ⟨issue_trap ?_, issue_trap ?_, emit_illop hq (.inr (.inr (.inl hundo))) r stl, emitv_illop hq (.inr (.inr (.inl hundo))) rb ra stl,
    issue_trap (commitM_illop hp (.inr (.inr hundo)) _), issue_trap (commitM_illop hp (.inr (.inr hundo)) _), abort_illop (.inr hundo) stl,
    issue_trap ?_, issue_trap ?_, issue_trap ?_⟩
  · simp only [M.bind_run, M.get_run, settleM_at hq, readyM_at hq, boostedM_undo hundo]
  · simp only [M.bind_run, settleM_at hq, boostedM_undo hundo]
  · simp only [M.bind_run, M.getC_run, hidem, Bool.false_eq_true, if_false, settleM_at hq, readyM_at hq, hc, Bool.not_true, M.need_false]
    rfl
  · simp only [M.bind_run, settleM_at hq, readyM_at hq, firingM_some hf, M.getC_run, hc, Bool.not_true, M.need_false]
    rfl
  · simp only [M.bind_run, M.get_run, settleM_at hq, readyM_at hq, M.getC_run, hc, Bool.not_true, M.need_false]
    rfl

theorem ctxsw_undo (hq : Quiet s) {ra : BitVec 5} (ha : s.plain ra) (hundo : s.me.undo = true) (stl : BitVec 2) :
    exec (.ctxsw ra stl) s = .next (s.takeTrap s.cur 1 (s.me.reg ra.toNat)) := by
  refine issue_trap ?_
  have hc : (s.at 4).me.undo = true := by rw [State.at_me, Core.begin_undo, hundo]
  simp only [M.bind_run, settleM_at hq, readyM_at hq, src_at hq ha, M.getC_run, hc, Bool.not_true, Bool.and_false, Bool.false_and, M.need_false]
  rfl

/-- The return address of an undo routine is no instruction: the next entry runs, or the firing ends (R226). -/
theorem coreTurn_undoReturn {n : Nat} (hrun : s.me.run = .firing n) (hcur : s.cur < 0x10000) (hstopped : s.me.stopped = false)
    (hwait : s.me.waitRecord = none) (hdeliver : s.me.deliver = false) (hundo : s.me.undo = true) (hpc : s.me.pc = 0x1FFFFFFF001800) :
    s.coreTurn = .next (s.undoReturned s.cur) := by
  have hwaits : s.recordWaits s.cur = false := by rw [State.recordWaits, show (s.core s.cur).waitRecord = none from hwait]
  simp only [State.me] at hrun hstopped hdeliver hundo hpc
  have hreturn : (s.core s.cur).pc == undoReturn := by rw [hpc]; rfl
  simp [State.coreTurn, hrun, isSaved_eq_false hcur, hstopped, hwaits, hdeliver, hundo, hreturn]

end Ends

end Sys2Proof.Machine

/-! What insertions, notices and the faults of regions leave alone: the firings, their conflict entries and the count of each region. -/

namespace Sys2Proof.Machine
open Host

/-- The states have the same firings, conflict entries, regions with their counters, and stream generators. -/
structure SameWork (s t : State) : Prop where
  cur : t.cur = s.cur
  firings : t.firings = s.firings
  filters : t.filters = s.filters
  nextRegion : t.nextRegion = s.nextRegion
  regions : t.regions.map (fun g => (g.id, g.cnt)) = s.regions.map fun g => (g.id, g.cnt)
  gens : ∀ k, (t.core k).gens = (s.core k).gens

/-- They have the same tiles too, held or not. -/
structure SamePool (s t : State) : Prop extends SameWork s t where
  tiles : t.tiles.map (·.id) = s.tiles.map (·.id)

theorem cnt_region?_of {s t : State} (h : t.regions.map (fun g => (g.id, g.cnt)) = s.regions.map fun g => (g.id, g.cnt)) (r : Nat) :
    (t.region? r).map Region.cnt = (s.region? r).map Region.cnt := by
  have hseen (u : State) : (u.region? r).map Region.cnt =
      ((u.regions.map fun g => (g.id, g.cnt)).find? fun p => p.1 == r).map Prod.snd := by
    rw [List.find?_map, Option.map_map]
    rfl
  rw [hseen, hseen, h]

namespace SameWork

variable {s t u : State}

theorem refl (s : State) : SameWork s s := ⟨rfl, rfl, rfl, rfl, rfl, fun _ => rfl⟩

theorem trans (h : SameWork s t) (h' : SameWork t u) : SameWork s u :=
  ⟨h'.cur.trans h.cur, h'.firings.trans h.firings, h'.filters.trans h.filters, h'.nextRegion.trans h.nextRegion, h'.regions.trans h.regions,
    fun k => (h'.gens k).trans (h.gens k)⟩

theorem foldl {α : Type} {op : State → α → State} (h : ∀ s a, SameWork s (op s a)) (l : List α) (s : State) : SameWork s (l.foldl op s) :=
  List.foldlRecOn l op (.refl s) fun t ht a _ => ht.trans (h t a)

/-- A region is found again, with its counters. -/
theorem cnt_region? (h : SameWork s t) (r : Nat) : (t.region? r).map Region.cnt = (s.region? r).map Region.cnt :=
  cnt_region?_of h.regions r

theorem region?_isSome (h : SameWork s t) (r : Nat) : (t.region? r).isSome = (s.region? r).isSome := by
  rw [← Option.isSome_map (f := Region.cnt), h.cnt_region?, Option.isSome_map]

theorem ids (h : SameWork s t) : t.regions.map (·.id) = s.regions.map (·.id) := by
  have hids (u : State) : u.regions.map (·.id) = (u.regions.map fun g => (g.id, g.cnt)).map Prod.fst := by
    rw [List.map_map]
    rfl
  rw [hids, hids, h.regions]

end SameWork

namespace SamePool

variable {s t u : State}

theorem refl (s : State) : SamePool s s := ⟨.refl s, rfl⟩

theorem trans (h : SamePool s t) (h' : SamePool t u) : SamePool s u := ⟨h.toSameWork.trans h'.toSameWork, h'.tiles.trans h.tiles⟩

theorem foldl {α : Type} {op : State → α → State} (h : ∀ s a, SamePool s (op s a)) (l : List α) (s : State) : SamePool s (l.foldl op s) :=
  List.foldlRecOn l op (.refl s) fun t ht a _ => ht.trans (h t a)

end SamePool

theorem cnts_of_beyond {s t : State} (h : t.beyondMemory = s.beyondMemory) :
    t.regions.map (fun g => (g.id, g.cnt)) = s.regions.map fun g => (g.id, g.cnt) := by
  have hregions (u : State) : u.regions.map (fun g => (g.id, g.cnt)) = u.beyondMemory.regions.map fun g => (g.id, g.cnt) := by
    rw [State.beyondMemory, List.map_map]
    rfl
  exact (hregions t).trans ((congrArg (fun v : State => v.regions.map fun g => (g.id, g.cnt)) h).trans (hregions s).symm)

/-- The work of the memory hierarchy. -/
theorem samePool_of_beyond {s t : State} (h : t.beyondMemory = s.beyondMemory) (hgens : ∀ k, (t.core k).gens = (s.core k).gens) :
    SamePool s t :=
  ⟨⟨(congrArg State.cur h :), (congrArg State.firings h :), (congrArg State.filters h :), (congrArg State.nextRegion h :), cnts_of_beyond h, hgens⟩,
    (congrArg (fun v : State => v.tiles.map (·.id)) h :)⟩

theorem samePool_of_endsAlike {s t : State} (h : t.beyondMemory = s.beyondMemory) (hends : EndsAlike s t) : SamePool s t :=
  samePool_of_beyond h fun k => (congrArg Core.gens (hends.core k) :)

theorem ReadOnly.samePool {s t : State} (h : ReadOnly s t) : SamePool s t := samePool_of_endsAlike h.beyond h.toBelowCores.endsAlike

theorem gens_modCore {s : State} {k : Nat} {f : Core → Core} (hf : ∀ c, (f c).gens = c.gens) (j : Nat) :
    ((s.modCore k f).core j).gens = (s.core j).gens := by
  by_cases h : j = k
  · rw [h, State.core_modCore_same, hf]
  · rw [State.core_modCore_other s f h]

theorem samePool_modCore (s : State) (k : Nat) {f : Core → Core} (hf : ∀ c, (f c).gens = c.gens) : SamePool s (s.modCore k f) :=
  samePool_of_beyond (beyondMemory_modCore s k f) fun j => gens_modCore hf j

theorem samePool_modRegion (s : State) (r : Nat) {g : Region → Region} (hid : ∀ x, (g x).id = x.id) (hcnt : ∀ x, (g x).cnt = x.cnt) :
    SamePool s (s.modRegion r g) := by
  refine ⟨⟨rfl, rfl, rfl, rfl, ?_, fun _ => rfl⟩, rfl⟩
  rw [State.modRegion, List.map_map]
  refine List.map_congr_left fun x _ => ?_
  rw [Function.comp_apply]
  split
  · rw [hid, hcnt]
  · rfl

theorem SamePool.modRegion {s t : State} (h : SamePool s t) {r : Nat} {g : Region → Region} (hid : ∀ x, (g x).id = x.id)
    (hcnt : ∀ x, (g x).cnt = x.cnt) : SamePool s (t.modRegion r g) := h.trans (samePool_modRegion t r hid hcnt)

theorem SameWork.modRegion {s t : State} (h : SameWork s t) {r : Nat} {g : Region → Region} (hid : ∀ x, (g x).id = x.id)
    (hcnt : ∀ x, (g x).cnt = x.cnt) : SameWork s (t.modRegion r g) := h.trans (samePool_modRegion t r hid hcnt).toSameWork

/-! ### Faults of a region and budgets -/

theorem markDirty_cnt (g : Region) (sl : Nat) : (g.markDirty sl).cnt = g.cnt := by
  unfold Region.markDirty
  split <;> rfl

theorem samePool_releaseTiles (s : State) (r copy l : Nat) (ids : List Nat) : SamePool s (s.releaseTiles r copy l ids) := by
  have htiles (t : State) (ht : t =
      { s with tiles := s.tiles.map fun t => if ids.contains t.id then { t with held := false, from_ := s.clock + 1 } else t }) :
      SamePool s t := by
    subst ht
    refine ⟨⟨rfl, rfl, rfl, rfl, rfl, fun _ => rfl⟩, ?_⟩
    rw [List.map_map]
    refine List.map_congr_left fun x _ => ?_
    rw [Function.comp_apply]
    split <;> rfl
  unfold State.releaseTiles
  dsimp only
  split
  · exact htiles _ rfl
  · exact (htiles _ rfl).trans (samePool_modRegion _ r (fun x => markDirty_id x _) fun x => markDirty_cnt x _)

theorem samePool_withdraw (s : State) (o : Offer) : SamePool s (s.withdraw o) := by
  unfold State.withdraw
  refine SamePool.trans ?_ (SamePool.foldl (fun u g => samePool_releaseTiles u o.region o.copy o.lslice g.tiles) o.groups _)
  split <;> exact ⟨⟨rfl, rfl, rfl, rfl, rfl, fun _ => rfl⟩, rfl⟩

theorem samePool_drain (s : State) (r : Nat) : SamePool s (s.drain r) := by
  unfold State.drain
  split
  · exact .refl s
  split
  · have hstate := samePool_modRegion s r (g := fun x => { x with state := .draining }) (fun _ => rfl) fun _ => rfl
    have hstatus := hstate.trans (samePool_of_endsAlike (beyondMemory_putStatus _ r) (endsAlike_putStatus _ r))
    exact hstatus.trans (.foldl samePool_withdraw _ _)
  · exact .refl s

theorem samePool_faultRegion (s : State) (r : Nat) (d : Word) : SamePool s (s.faultRegion r d) := by
  have hfault := samePool_modRegion s r (g := fun g => { g with faulted := true, detail := if g.faulted then g.detail else d }) (fun _ => rfl)
    fun _ => rfl
  exact hfault.trans (samePool_drain _ r)

theorem samePool_spendBudget (s : State) (r which : Nat) : SamePool s (s.spendBudget r which) := by
  unfold State.spendBudget
  split
  · exact .refl s
  have hdrain := (samePool_modRegion s r
    (g := fun x => { x with spent := if x.spent.contains which then x.spent else which :: x.spent }) (fun _ => rfl) fun _ => rfl).trans
    (samePool_drain _ r)
  dsimp only
  split
  · refine hdrain.trans (.foldl (fun s f => .foldl (fun s k => ?_) _ s) _ _)
    split
    · exact .refl s
    · exact samePool_modCore s k fun _ => rfl
  · exact hdrain

theorem samePool_memBudget (s : State) (r : Nat) : SamePool s (s.memBudget r) := by
  unfold State.memBudget
  split
  · exact .refl s
  split
  · exact samePool_spendBudget s r 3
  · exact .refl s

theorem samePool_tileBudgets (s : State) (r : Nat) : SamePool s (s.tileBudgets r) := by
  unfold State.tileBudgets
  split
  · exact .refl s
  refine SamePool.trans ?_ (samePool_memBudget _ r)
  split
  · exact samePool_spendBudget s r 2
  · exact .refl s

theorem samePool_noteInsert (s : State) (key : List Nat) : SamePool s (s.noteInsert key) := ⟨⟨rfl, rfl, rfl, rfl, rfl, fun _ => rfl⟩, rfl⟩

/-! ### Places and insertions -/

theorem readOnly_placeOf (s : State) (g : Region) (d : List Word) (layout : Bool) : ReadOnly s (s.placeOf g d layout).1 := by
  have hentry := readOnly_kindEntry s g.space g.eff.kinds (descKind d)
  unfold State.placeOf
  split
  · next heq => rwa [heq] at hentry
  · next heq => rwa [heq] at hentry
  · next heq =>
    rw [heq] at hentry
    split <;> exact hentry

theorem sameWork_tiles (s : State) (ts : List Tile) (n : Nat) : SameWork s { s with tiles := ts, nextTile := n } :=
  ⟨rfl, rfl, rfl, rfl, rfl, fun _ => rfl⟩

theorem sameWork_renumber (s : State) (r copy l : Nat) : SameWork s (s.renumber r copy l) := by
  unfold State.renumber
  refine SameWork.modRegion ?_ (fun _ => rfl) fun _ => rfl
  exact sameWork_tiles s _ s.nextTile

theorem sameWork_nextAge (s : State) (r copy l : Nat) : SameWork s (s.nextAge r copy l).1 := by
  unfold State.nextAge
  dsimp only
  refine SameWork.modRegion ?_ (fun _ => rfl) fun _ => rfl
  split
  · exact sameWork_renumber s r copy l
  · exact .refl s

theorem sameWork_insertOne (s : State) (r copy l : Nat) (d : List Word) (pending : Bool) (key : Nat × Nat × Nat × Nat) :
    SameWork s (s.insertOne r copy l d pending key) := by
  have hage : SameWork s (if pending then (s, pendingAge) else s.nextAge r copy l).1 := by
    split
    · exact .refl s
    · exact sameWork_nextAge s r copy l
  unfold State.insertOne
  split
  · exact .refl s
  dsimp only
  split
  · exact (samePool_faultRegion s r _).toSameWork
  · exact SameWork.modRegion (hage.trans (sameWork_tiles _ _ _)) (fun x => markDirty_id x _) fun x => markDirty_cnt x _

theorem sameWork_deliverTile (s : State) (parent : Option Nat) (cdesc : Word) (cstat bwhich rcb : Nat) :
    SameWork s (s.deliverTile parent cdesc cstat bwhich rcb).1 := by
  unfold State.deliverTile
  split
  · exact .refl s
  next p _ =>
  split
  · exact .refl s
  have hplace := (readOnly_placeOf s p (completionDesc cdesc cstat bwhich rcb) false).samePool.toSameWork
  dsimp only
  split
  · next heq =>
    rw [heq] at hplace
    exact hplace.trans (samePool_faultRegion _ _ _).toSameWork
  · next heq =>
    rw [heq] at hplace
    exact (hplace.trans (.foldl (fun s c => sameWork_insertOne s _ c _ _ _ _) _ _)).trans
      ((samePool_memBudget _ _).trans (samePool_noteInsert _ _)).toSameWork

/-! ### Fields of an RCB that the device writes -/

theorem samePool_postNotice (s : State) (f : Nat) (n : Word × Word) (by_ : Option Nat) : SamePool s (s.postNotice f n by_) :=
  samePool_of_endsAlike (beyondMemory_postNotice s f n by_) (endsAlike_postNotice s f n by_)

theorem samePool_devWrite (s : State) (space va : Nat) (bs : List Byte) : SamePool s (s.devWrite space va bs).1 :=
  samePool_of_endsAlike (beyondMemory_devWrite s space va bs) (endsAlike_devWrite s space va bs)

theorem samePool_devStore8 (s : State) (f p va : Nat) (v : Word) (by_ : Option Nat) : SamePool s (s.devStore8 f p va v by_) := by
  have hwrite := samePool_devWrite s (f * 256 + p) va (leBytes 8 v.toNat)
  unfold State.devStore8
  split
  · next heq => rwa [heq] at hwrite
  · next heq =>
    rw [heq] at hwrite
    exact hwrite.trans (samePool_postNotice _ _ _ _)

theorem samePool_putCounters (s : State) (func proc rcb : Nat) (detail : Word) (c : Counters) (by_ : Option Nat) :
    SamePool s (s.putCounters func proc rcb detail c by_) :=
  SamePool.foldl (op := fun s (e : Word × Nat) => s.devStore8 func proc (rcb + 0x88 + 8 * e.2) e.1 by_)
    (fun s e => samePool_devStore8 s func proc (rcb + 0x88 + 8 * e.2) e.1 by_) _ s

theorem samePool_dropLost (s : State) (f p rcb : Nat) : SamePool s (s.dropLost f p rcb) := ⟨⟨rfl, rfl, rfl, rfl, rfl, fun _ => rfl⟩, rfl⟩

theorem samePool_lostStatus (s : State) (ls : List (Nat × Nat × Word)) : SamePool s { s with lostStatus := ls } :=
  ⟨⟨rfl, rfl, rfl, rfl, rfl, fun _ => rfl⟩, rfl⟩

theorem samePool_noticeIf {s t : State} (h : SamePool s t) (b : Bool) {f : Nat} {n : Word × Word} {by_ : Option Nat} :
    SamePool s (if b then t.postNotice f n by_ else t) := by
  split
  · exact h.trans (samePool_postNotice t f n by_)
  · exact h

theorem samePool_finalStatus (s : State) (f p rcb : Nat) (v : Word) (cstat : Nat) (detail : Word) :
    SamePool s (s.finalStatus f p rcb v cstat detail) := by
  have hwrite := (samePool_dropLost s f p rcb).trans
    (samePool_devWrite (s.dropLost f p rcb) (f * 256 + p) (rcb + 0x80) (leBytes 8 v.toNat))
  unfold State.finalStatus
  dsimp only
  rcases heq : (s.dropLost f p rcb).devWrite (f * 256 + p) (rcb + 0x80) (leBytes 8 v.toNat) with ⟨t, _ | e⟩
  all_goals rw [heq] at hwrite
  · exact samePool_noticeIf hwrite _
  · exact samePool_noticeIf ((hwrite.trans (samePool_postNotice _ _ _ _)).trans (samePool_lostStatus _ _)) _

theorem sameWork_refuseRegion (s : State) (func proc rcb : Nat) (w : List Word) (p : Option Region) (reason rule slot : Nat) :
    SameWork s (s.refuseRegion func proc rcb w p reason rule slot) := by
  have hcounters := (samePool_putCounters s func proc rcb (detailWord reason rule slot 0) .zero none).toSameWork
  have htile : SameWork s (if tileSent (fieldNat (w.getD 0 0) 0 53) (w.getD 8 0) then
      (s.putCounters func proc rcb (detailWord reason rule slot 0) .zero none).deliverTile (p.map (·.id)) (w.getD 8 0) 3 0 rcb
      else (s.putCounters func proc rcb (detailWord reason rule slot 0) .zero none, true)).1 := by
    split
    · exact hcounters.trans (sameWork_deliverTile _ _ _ _ _ _)
    · exact hcounters
  unfold State.refuseRegion
  dsimp only
  generalize (if tileSent (fieldNat (w.getD 0 0) 0 53) (w.getD 8 0) then _ else _ : State × Bool) = d at htile ⊢
  refine SameWork.trans ?_ (samePool_finalStatus _ func proc rcb _ 3 _).toSameWork
  split
  · exact htile
  · exact htile.trans (samePool_devStore8 _ _ _ _ _ _).toSameWork

end Sys2Proof.Machine

/-! The undo stack: its header, and the call of its top entry (R224, R226). -/

namespace Sys2Proof.Machine
open Host

/-! ### The undo header (R224) -/

section Header

variable {c : Core}

theorem ucnt_lt (c : Core) : c.ucnt < 512 := by
  rw [Core.ucnt, fieldNat_eq]
  exact Nat.mod_lt _ (by decide)

theorem word_setUndo_other (op : Bool) (n : Nat) {a : Nat} (h : a + 8 ≤ 0x1800 ∨ 0x1808 ≤ a) : (c.setUndo op n).arr.word a = c.arr.word a :=
  Memory.word_setWord_other _ _ (by omega)

theorem header_setUndo (hwf : c.arr.wf = true) (op : Bool) {n : Nat} (hn : n < 512) :
    ((c.setUndo op n).arr.word 0x1800).toNat = n + if op then 512 else 0 := by
  rw [Core.setUndo, Memory.word_setWord_same hwf, BitVec.toNat_ofNat]
  exact Nat.mod_eq_of_lt (by split <;> omega)

theorem ucnt_setUndo (hwf : c.arr.wf = true) (op : Bool) {n : Nat} (hn : n < 512) : (c.setUndo op n).ucnt = n := by
  rw [Core.ucnt, fieldNat_zero, header_setUndo hwf op hn]
  split <;> omega

theorem opened_setUndo (hwf : c.arr.wf = true) (op : Bool) {n : Nat} (hn : n < 512) : (c.setUndo op n).opened = op := by
  have hbit : (c.setUndo op n).opened = (n + if op then 512 else 0).testBit 9 := by
    rw [← header_setUndo hwf op hn]
    rfl
  rw [hbit, Nat.testBit_eq_decide_div_mod_eq]
  cases op
  · simp only [Bool.false_eq_true, if_false, decide_eq_false_iff_not]
    omega
  · simp only [if_true, decide_eq_true_eq]
    omega

end Header

/-! ### Registers and the header -/

section Registers

variable {c : Core}

theorem regOff_setReg (c : Core) (n : Nat) (v : Word) (m : Nat) : (c.setReg n v).regOff m = c.regOff m := by
  rw [setReg_eq]
  rfl

theorem wf_setReg (hwf : c.arr.wf = true) (n : Nat) (v : Word) : (c.setReg n v).arr.wf = true := by
  unfold Core.setReg
  split
  · exact hwf
  · exact Memory.wf_setWord hwf _ _

theorem word_setReg_other (n : Nat) (v : Word) {a : Nat} (h : c.regOff n + 8 ≤ a ∨ a + 8 ≤ c.regOff n) :
    (c.setReg n v).arr.word a = c.arr.word a := by
  unfold Core.setReg
  split
  · rfl
  · exact Memory.word_setWord_other _ _ (by omega)

/-- The array and the workspace pointer alone decide what a register holds. -/
theorem reg_of_arr {d : Core} (harr : d.arr = c.arr) (hcr : d.cr = c.cr) (m : Nat) : d.reg m = c.reg m := by
  rw [Core.reg, Core.regOff, harr, hcr, Core.reg, Core.regOff]

/-- Registers of a core written one behind the other. -/
def Core.setRegs (c : Core) (rs : List (Nat × Word)) : Core := rs.foldl (fun c r => c.setReg r.1 r.2) c

theorem setRegs_eq (c : Core) (rs : List (Nat × Word)) : c.setRegs rs = { c with arr := (c.setRegs rs).arr } := by
  induction rs generalizing c with
  | nil => rfl
  | cons r rs ih =>
    rw [Core.setRegs, List.foldl_cons, ← Core.setRegs, ih (c.setReg r.1 r.2), setReg_eq]

theorem word_setRegs_other {rs : List (Nat × Word)} {a : Nat} (h : ∀ r ∈ rs, c.regOff r.1 + 8 ≤ a ∨ a + 8 ≤ c.regOff r.1) :
    (c.setRegs rs).arr.word a = c.arr.word a := by
  induction rs generalizing c with
  | nil => rfl
  | cons r rs ih =>
    have hrest := ih (c := c.setReg r.1 r.2) fun x hx => by
      rw [regOff_setReg]
      exact h x (List.mem_cons_of_mem r hx)
    exact hrest.trans (word_setReg_other _ _ (h r List.mem_cons_self))

theorem reg_setRegs_other {rs : List (Nat × Word)} {m : Nat} (h : m ∉ rs.map Prod.fst) : (c.setRegs rs).reg m = c.reg m := by
  induction rs generalizing c with
  | nil => rfl
  | cons r rs ih =>
    obtain ⟨hne, hrest⟩ := List.ne_and_not_mem_of_not_mem_cons h
    exact (ih hrest).trans (Core.reg_setReg_other c r.2 hne.symm)

theorem reg_setRegs (hwf : c.arr.wf = true) {rs : List (Nat × Word)} (hnodup : (rs.map Prod.fst).Nodup) {n : Nat} {v : Word}
    (h : (n, v) ∈ rs) (hn : n ≠ 0) : (c.setRegs rs).reg n = v := by
  induction rs generalizing c with
  | nil => exact absurd h (by simp)
  | cons r rs ih =>
    obtain ⟨hfirst, hrest⟩ := List.nodup_cons.1 hnodup
    rcases List.mem_cons.1 h with rfl | h
    · exact (reg_setRegs_other hfirst).trans (Core.reg_setReg_same' c v hn hwf)
    · exact ih (wf_setReg hwf r.1 r.2) hrest h

end Registers

/-! ### The call of an undo entry (R226) -/

/-- The registers that the call of undo entry `n` writes, in order. -/
def Core.undoArgs (c : Core) (n : Nat) : List (Nat × Word) :=
  let b := 0x1800 + 32 * n
  [(3, c.arr.word (b + 8)), (4, c.arr.word (b + 16)), (5, BitVec.ofNat 64 (fieldNat (c.arr.word b) 53 6)), (1, undoReturn.setWidth 64)]

theorem mem_undoArgs (c : Core) (n : Nat) :
    let w (i : Nat) : Word := c.arr.word (0x1800 + 32 * n + 8 * i)
    (3, w 1) ∈ c.undoArgs n ∧ (4, w 2) ∈ c.undoArgs n ∧ (5, BitVec.ofNat 64 ((w 0).toNat / 2 ^ 53 % 64)) ∈ c.undoArgs n ∧
      (1, 0x1FFFFFFF001800) ∈ c.undoArgs n := by
  have hlink : undoReturn.setWidth 64 = (0x1FFFFFFF001800 : Word) := by decide
  simp [Core.undoArgs, fieldNat, Nat.shiftRight_eq_div_pow, hlink]

theorem fst_undoArgs (c : Core) (n : Nat) : (c.undoArgs n).map Prod.fst = [3, 4, 5, 1] := rfl

theorem callUndo_eq (c : Core) : c.callUndo =
    { c.setRegs (c.undoArgs c.ucnt) with
      pc := (c.arr.word (0x1800 + 32 * c.ucnt)).setWidth 53 &&& ~~~1, undo := true, pend := [], vpend := [] } := rfl

/-- An address that is even already. -/
theorem toNat_even_address {e : Word} (h : e.toNat % 2 = 0) : (e.setWidth 53 &&& ~~~1).toNat = e.toNat % 2 ^ 53 := by
  have heven : e.setWidth 53 &&& ~~~1 = e.setWidth 53 := by
    ext i hi
    by_cases h0 : i = 0
    · subst h0
      have hbit : e.getLsbD 0 = false := by
        rw [BitVec.getLsbD, Nat.testBit_zero, h]
        rfl
      simp only [BitVec.getElem_and, BitVec.getElem_setWidth, hbit, Bool.false_and]
    · have hone : (1 : BitVec 53)[i] = false := by
        rw [show (1 : BitVec 53) = 1#53 from rfl, BitVec.getElem_one, decide_eq_false h0]
      simp only [BitVec.getElem_and, BitVec.getElem_not, hone, Bool.not_false, Bool.and_true]
  rw [heven, BitVec.toNat_setWidth]

variable {c d : Core} {n : Nat}

/-- A core about to call the undo entry at the top of its stack: `d` is `c` with the header set, and fields besides the array and the
control registers changed. -/
structure Undoing (c d : Core) (n : Nat) : Prop where
  wf : c.arr.wf = true
  regs : ∀ m, m < 32 → c.regOff m + 8 ≤ 0x1800 ∨ 0x1808 ≤ c.regOff m
  pos : 0 < n
  fits : n < 512
  arr : d.arr = (c.setUndo false n).arr
  cr : d.cr = c.cr
  run : d.run = c.run

theorem Undoing.calls (h : Undoing c d n) :
    let w (i : Nat) : Word := c.arr.word (0x1800 + 32 * n + 8 * i)
    let t := d.callUndo
    t.undo = true ∧ t.ucnt = n ∧ t.opened = false ∧ ((w 0).toNat % 2 = 0 → t.pc.toNat = (w 0).toNat % 2 ^ 53) ∧
      t.reg 3 = w 1 ∧ t.reg 4 = w 2 ∧ t.reg 5 = BitVec.ofNat 64 ((w 0).toNat / 2 ^ 53 % 64) ∧ t.reg 1 = 0x1FFFFFFF001800 ∧
      (∀ m, m < 32 → m ∉ [1, 3, 4, 5] → t.reg m = c.reg m) ∧ t.run = c.run ∧ t.cr = c.cr := by
  obtain ⟨hwf, hregs, hpos, hfits, harr, hcr, hrun⟩ := h
  intro w t
  have hoff (m : Nat) : d.regOff m = c.regOff m := by rw [Core.regOff, hcr, Core.regOff]
  have hwfd : d.arr.wf = true := by
    rw [harr]
    exact Memory.wf_setWord hwf _ _
  have hword {a : Nat} (ha : a + 8 ≤ 0x1800 ∨ 0x1808 ≤ a) : d.arr.word a = c.arr.word a := by rw [harr, word_setUndo_other _ _ ha]
  have hucnt : d.ucnt = n := by
    rw [Core.ucnt, harr]
    exact ucnt_setUndo hwf false hfits
  have hopened : d.opened = false := by
    rw [Core.opened, harr]
    exact opened_setUndo hwf false hfits
  have hargs : d.undoArgs n = c.undoArgs n := by
    simp only [Core.undoArgs]
    rw [hword (by omega), hword (by omega), hword (by omega)]
  have ht : t = { d.setRegs (c.undoArgs n) with pc := (w 0).setWidth 53 &&& ~~~1, undo := true, pend := [], vpend := [] } := by
    have heq := callUndo_eq d
    rw [hucnt, hargs, hword (a := 0x1800 + 32 * n) (by omega)] at heq
    exact heq
  have harr_t : t.arr = (d.setRegs (c.undoArgs n)).arr := by rw [ht]
  have hcr_t : t.cr = (d.setRegs (c.undoArgs n)).cr := by rw [ht]
  have hheader : t.arr.word 0x1800 = d.arr.word 0x1800 := by
    rw [harr_t]
    refine word_setRegs_other fun r hr => ?_
    rw [hoff]
    have hr32 : r.1 < 32 := by
      have hfst : r.1 ∈ [3, 4, 5, 1] := fst_undoArgs c n ▸ List.mem_map_of_mem hr
      revert hfst
      generalize r.1 = m
      simp
      omega
    have := hregs r.1 hr32
    omega
  have hregs_t (m : Nat) : t.reg m = (d.setRegs (c.undoArgs n)).reg m := reg_of_arr harr_t hcr_t m
  have hreg {m : Nat} {v : Word} (hm : (m, v) ∈ c.undoArgs n) (h0 : m ≠ 0) : t.reg m = v := by
    rw [hregs_t]
    exact reg_setRegs (c := d) hwfd (by rw [fst_undoArgs]; decide) hm h0
  have hrest : t.run = c.run ∧ t.cr = c.cr := by
    rw [ht, setRegs_eq]
    exact ⟨hrun, hcr⟩
  obtain ⟨h3, h4, h5, h1⟩ := mem_undoArgs c n
  refine ⟨by rw [ht], by rw [Core.ucnt, hheader]; exact hucnt, by rw [Core.opened, hheader]; exact hopened, fun he => ?_,
    hreg h3 (by decide), hreg h4 (by decide), hreg h5 (by decide), hreg h1 (by decide), fun m hm hm' => ?_, hrest⟩
  · rw [ht]
    exact toNat_even_address he
  · have hother : t.reg m = d.reg m := by
      rw [hregs_t]
      refine reg_setRegs_other (c := d) ?_
      rw [fst_undoArgs]
      simp only [List.mem_cons, List.not_mem_nil, or_false, not_or] at hm' ⊢
      omega
    rw [hother]
    by_cases h0 : m = 0
    · rw [h0, Core.reg_zero, Core.reg_zero]
    · rw [Core.reg, if_neg h0, hoff, hword (hregs m hm), Core.reg, if_neg h0]

end Sys2Proof.Machine

/-! The ends of a firing: aborts with their undo entries and commits (R209, R213, R215, R216, R226). -/

namespace Sys2Proof.Machine
open Host

/-! ### Cores that become idle -/

theorem beyondMemory_closePacket (s : State) (k : Nat) : (s.closePacket k).beyondMemory = s.beyondMemory := by
  unfold State.closePacket
  split <;> rfl

theorem beyondMemory_idleCore (s : State) (k : Nat) : (s.idleCore k).beyondMemory = s.beyondMemory := by
  unfold State.idleCore
  split
  · dsimp only
    split <;> rfl
  · have hcluster (t : State) (f : Cluster → Cluster) := beyondMemory_modCluster t (clusterOf k) f
    exact (beyondMemory_modCore _ k _).trans ((hcluster _ _).trans ((hcluster _ _).trans ((hcluster _ _).trans
      ((beyondMemory_closePacket _ k).trans (hcluster s _)))))

theorem core_closePacket_other (s : State) {k j : Nat} (h : j ≠ k) : (s.closePacket k).core j = s.core j := by
  unfold State.closePacket
  split
  · rfl
  · rw [State.core_modCore_other _ _ h, State.core_modCluster]

theorem core_idleCore_other (s : State) {k j : Nat} (hk : isSaved k = false) (h : j ≠ k) : (s.idleCore k).core j = s.core j := by
  rw [State.idleCore, if_neg (by simp [hk]), State.core_modCore_other _ _ h]
  exact core_closePacket_other (s.noteUnit (clusterOf k)) h

theorem grant_idleCore (s : State) {k : Nat} (hk : isSaved k = false) : ((s.idleCore k).core k).grant = 0 := by
  rw [State.idleCore, if_neg (by simp [hk]), State.core_modCore_same]
  rfl

/-- Cores made idle in turn are idle, without lanes. -/
theorem idle_idleCores {ks : List Nat} (hks : ∀ x ∈ ks, x < 0x10000) (s : State) :
    ∀ x ∈ ks, ((ks.foldl State.idleCore s).core x).run = .idle ∧ ((ks.foldl State.idleCore s).core x).grant = 0 := by
  have hkeep (l : List Nat) (hl : ∀ x ∈ l, x < 0x10000) (t : State) (x : Nat) (h : (t.core x).run = .idle ∧ (t.core x).grant = 0) :
      ((l.foldl State.idleCore t).core x).run = .idle ∧ ((l.foldl State.idleCore t).core x).grant = 0 := by
    refine List.foldlRecOn (motive := fun u : State => (u.core x).run = .idle ∧ (u.core x).grant = 0) l _ h fun u hu k hk => ?_
    have hsaved := isSaved_eq_false (hl k hk)
    by_cases hx : x = k
    · rw [hx]
      exact ⟨run_idleCore u hsaved, grant_idleCore u hsaved⟩
    · rw [core_idleCore_other u hsaved hx]
      exact hu
  induction ks generalizing s with
  | nil => exact fun x hx => absurd hx (by simp)
  | cons k r ih =>
    have hsaved := isSaved_eq_false (hks k List.mem_cons_self)
    have hr : ∀ x ∈ r, x < 0x10000 := fun x hx => hks x (List.mem_cons_of_mem k hx)
    intro x hx
    rcases List.mem_cons.1 hx with rfl | hx
    · exact hkeep r hr _ x ⟨run_idleCore s hsaved, grant_idleCore s hsaved⟩
    · exact ih hr (s.idleCore k) x hx

/-! ### A firing leaves flight -/

/-- In `t` the firing `f` of `s` has left flight, its inputs given back unchanged. -/
structure LeftFlight (f : Firing) (s t : State) : Prop where
  idle : ∀ x ∈ f.cores, (t.core x).run = .idle ∧ (t.core x).grant = 0
  gone : t.firing? f.id = none
  filters : ∀ e ∈ t.filters, e.holder ≠ f.id
  tiles : t.tiles.map (·.id) = s.tiles.map (·.id)
  held : ∀ x ∈ t.tiles, x.id ∈ f.tiles → x.held = false
  descs : t.tiles.map (·.d) = s.tiles.map (·.d)

theorem leftFlight_dropFiring {s u : State} {f : Firing} (hf : ∀ x ∈ f.cores, x < 0x10000) (hu : u.tiles = s.tiles) :
    LeftFlight f s (u.dropFiring f) := by
  let v : State := { u with firings := u.firings.filter (fun x => x.id != f.id), filters := u.filters.filter (fun e => e.holder != f.id) }
  let w : State := (f.cores.foldl State.idleCore v).clearCells f.id
  have hdrop : u.dropFiring f = w.releaseTiles f.region f.copy f.lslice f.tiles := rfl
  have hbeyond : w.beyondMemory = v.beyondMemory := beyondMemory_foldl beyondMemory_idleCore f.cores v
  have hwtiles : w.tiles = u.tiles := (congrArg State.tiles hbeyond :)
  replace hwtiles := hwtiles.trans hu
  have htiles {α : Type} (p : Tile → α) (hp : ∀ t n, p { t with held := false, from_ := n } = p t) :
      (u.dropFiring f).tiles.map p = s.tiles.map p := by
    rw [hdrop, tiles_releaseTiles, hwtiles, List.map_map]
    refine List.map_congr_left fun x _ => ?_
    rw [Function.comp_apply]
    split
    · exact hp x _
    · rfl
  refine ⟨fun x hx => ?_, firing?_dropFiring u f, fun e he => ?_, htiles _ fun _ _ => rfl, fun x hx => held_releaseTiles hx, htiles _ fun _ _ => rfl⟩
  · rw [hdrop, State.core, cores_releaseTiles]
    exact idle_idleCores hf v x hx
  · have hfilters : (u.dropFiring f).filters = u.filters.filter fun e => e.holder != f.id :=
      (samePool_releaseTiles w f.region f.copy f.lslice f.tiles).filters.trans (congrArg State.filters hbeyond :)
    rw [hfilters, List.mem_filter] at he
    exact bne_iff_ne.1 he.2

/-! ### Aborts (R216, R226) -/

section Aborts

variable {s : State} {f : Firing} {k : Nat}

theorem leftFlight_abort (hf : ∀ x ∈ f.cores, x < 0x10000) (hclass : s.classOf f ≠ 2) : LeftFlight f s (s.abortFiring k f) := by
  rw [abortFiring_of_class_ne hclass]
  exact leftFlight_dropFiring hf rfl

theorem leftFlight_boosted (hf : ∀ x ∈ f.cores, x < 0x10000) (hclass : s.classOf f = 2) (hundo : (s.core k).undo = false)
    (hucnt : (s.core k).ucnt = 0) : LeftFlight f s (s.abortFiring k f) := by
  have habort : s.abortFiring k f = ((s.dropSfu k).release k (s.dropSfu k).regionScope).dropFiring f := by
    rw [State.abortFiring]
    exact (if_pos ⟨hclass, hundo⟩).trans (if_pos hucnt)
  rw [habort]
  exact leftFlight_dropFiring hf (congrArg State.tiles (beyondMemory_release (s.dropSfu k) k _) :)

theorem leftFlight_undoReturned (hf : ∀ x ∈ f.cores, x < 0x10000) (hrun : (s.core k).run = .firing f.id) (hfiring : s.firing? f.id = some f)
    (hucnt : (s.core k).ucnt ≤ 1) : LeftFlight f s (s.undoReturned k) := by
  let u : State := s.setCore k ((s.core k).setUndo false ((s.core k).ucnt - 1))
  have hof : u.firingOf k = some f := by
    rw [State.firingOf, State.core_setCore_same]
    exact hrun ▸ hfiring
  have hended : s.undoReturned k = (u.release k u.regionScope).dropFiring f := by
    rw [State.undoReturned]
    refine (if_pos (by omega)).trans ?_
    show u.undoEnded k = _
    rw [State.undoEnded, hof]
  rw [hended]
  exact leftFlight_dropFiring hf (congrArg State.tiles (beyondMemory_release u k _) :)

theorem core_callUndo (s : State) (k : Nat) : (s.callUndo k).core k = (s.core k).callUndo := State.core_setCore_same _ _ _

/-- A BOOSTED firing that aborts with undo entries calls the top one. -/
theorem abort_calls (hclass : s.classOf f = 2) (hundo : (s.core k).undo = false) (hhandler : (s.core k).inHandler = false)
    (hucnt : 0 < (s.core k).ucnt) (hwf : (s.core k).arr.wf = true)
    (hregs : ∀ m, m < 32 → (s.core k).regOff m + 8 ≤ 0x1800 ∨ 0x1808 ≤ (s.core k).regOff m) :
    Spec.Calls s (s.abortFiring k f) k (s.core k).ucnt ∧ ((s.abortFiring k f).filters = s.filters ∧ (s.abortFiring k f).tiles = s.tiles ∧
      (s.abortFiring k f).firing? f.id = s.firing? f.id) ∧ ((s.abortFiring k f).core k).pcnt = 0 := by
  have hleave : (s.core k).leaveHandler k = s.core k := by rw [Core.leaveHandler, hhandler]; rfl
  let d : Core := { ((s.core k).setUndo false (s.core k).ucnt) with
    pcnt := 0, mchk := none, sfuLost := [], poisonAt := none, waitRecord := none, deliver := false, waitFrom := none, waitOver := false }
  have habort : s.abortFiring k f = ((s.dropSfu k).setCore k d).callUndo k := by
    rw [State.abortFiring]
    refine (if_pos ⟨hclass, hundo⟩).trans ((if_neg (Nat.ne_of_gt hucnt)).trans ?_)
    show ((s.dropSfu k).setCore k { (((s.core k).leaveHandler k).setUndo false ((s.core k).leaveHandler k).ucnt) with
      pcnt := 0, mchk := none, sfuLost := [], poisonAt := none, waitRecord := none, deliver := false, waitFrom := none, waitOver := false }).callUndo k = _
    rw [hleave]
  have hcore : (s.abortFiring k f).core k = d.callUndo := by rw [habort, core_callUndo, State.core_setCore_same]
  have hcalls : Undoing (s.core k) d (s.core k).ucnt := ⟨hwf, hregs, hucnt, ucnt_lt _, rfl, rfl, rfl⟩
  refine ⟨?_, ?_, ?_⟩
  · rw [Spec.Calls, hcore]
    exact hcalls.calls
  · rw [habort]
    exact ⟨rfl, rfl, rfl⟩
  · rw [hcore, callUndo_eq, setRegs_eq]

/-- The return of an undo routine calls the entry below. -/
theorem undoReturned_calls (hucnt : 1 < (s.core k).ucnt) (hwf : (s.core k).arr.wf = true)
    (hregs : ∀ m, m < 32 → (s.core k).regOff m + 8 ≤ 0x1800 ∨ 0x1808 ≤ (s.core k).regOff m) :
    Spec.Calls s (s.undoReturned k) k ((s.core k).ucnt - 1) ∧ ((s.undoReturned k).filters = s.filters ∧ (s.undoReturned k).tiles = s.tiles ∧
      (s.undoReturned k).firing? f.id = s.firing? f.id) := by
  let d : Core := (s.core k).setUndo false ((s.core k).ucnt - 1)
  have hreturn : s.undoReturned k = (s.setCore k d).callUndo k := by
    rw [State.undoReturned]
    exact if_neg (show (s.core k).ucnt - 1 ≠ 0 by omega)
  have hcore : (s.undoReturned k).core k = d.callUndo := by rw [hreturn, core_callUndo, State.core_setCore_same]
  have hlt := ucnt_lt (s.core k)
  have hcalls : Undoing (s.core k) d ((s.core k).ucnt - 1) := ⟨hwf, hregs, by omega, by omega, rfl, rfl, rfl⟩
  refine ⟨?_, ?_⟩
  · rw [Spec.Calls, hcore]
    exact hcalls.calls
  · rw [hreturn]
    exact ⟨rfl, rfl, rfl⟩

end Aborts

end Sys2Proof.Machine

/-! COMMIT of the last core of a firing: its products, its inputs and its count (R213, R215, R388). -/

namespace Sys2Proof.Machine
open Host

/-! ### Products on their way -/

theorem sendProducts_spec (ds : List (List Word)) (r i : Nat) {s : State} (h : (s.region? r).isSome = true) :
    SamePool s (s.sendProducts r i ds).1 ∧ (s.sendProducts r i ds).2.map (·.index) = List.range' i ds.length ∧
      (s.sendProducts r i ds).2.map (·.d) = ds := by
  induction ds generalizing s i with
  | nil => exact ⟨.refl s, rfl, rfl⟩
  | cons d ds ih =>
    obtain ⟨g, hg⟩ := Option.isSome_iff_exists.1 h
    have hplace := (readOnly_placeOf s g d true).samePool
    rcases heq : s.placeOf g d true with ⟨u, _ | l⟩
    · rw [heq] at hplace
      have hfault := hplace.trans (samePool_faultRegion u r (detailWord 42 0 0 (descKind d)))
      obtain ⟨hpool, hindex, hdesc⟩ := ih (i + 1) ((hfault.region?_isSome r).trans h)
      simp only [State.sendProducts, hg, heq, List.map_cons, hindex, hdesc]
      exact ⟨hfault.trans hpool, rfl, trivial⟩
    · rw [heq] at hplace
      obtain ⟨hpool, hindex, hdesc⟩ := ih (i + 1) ((hplace.region?_isSome r).trans h)
      simp only [State.sendProducts, hg, heq, List.map_cons, hindex, hdesc]
      exact ⟨hplace.trans hpool, rfl, trivial⟩

theorem length_products (c : Core) : c.products.length = c.pcnt := by
  rw [Core.products, List.length_map, length_spanOf]

theorem getElem_products (c : Core) {i : Nat} (h : i < c.products.length) : c.products[i] =
    [c.arr.word (0x1000 + 32 * i), c.arr.word (0x1008 + 32 * i), c.arr.word (0x1010 + 32 * i), c.arr.word (0x1018 + 32 * i)] := by
  simp only [Core.products, List.getElem_map, getElem_spanOf, spanOf, id]
  simp only [Nat.zero_add, Nat.mul_zero, Nat.add_zero]
  rw [show 0x1008 + 32 * i = 0x1000 + 32 * i + 8 * 1 by omega, show 0x1010 + 32 * i = 0x1000 + 32 * i + 8 * (1 + 1) by omega,
    show 0x1018 + 32 * i = 0x1000 + 32 * i + 8 * (1 + 1 + 1) by omega]

/-- A product's descriptor is the one at its index. -/
theorem product_desc {ps : List Product} {ds : List (List Word)} (hindex : ps.map (·.index) = List.range ds.length) (hdesc : ps.map (·.d) = ds)
    {p : Product} (hp : p ∈ ps) (hi : p.index < ds.length) : p.d = ds[p.index] := by
  obtain ⟨j, hj, rfl⟩ := List.getElem_of_mem hp
  have hjj : ps[j].index = j := by
    have hget : (ps.map (·.index))[j]? = (List.range ds.length)[j]? := by rw [hindex]
    have hlt : j < ds.length := by
      have hlen := congrArg List.length hdesc
      rw [List.length_map] at hlen
      omega
    rw [List.getElem?_map, List.getElem?_eq_getElem hj, List.getElem?_eq_getElem (by simpa using hlt)] at hget
    simpa using hget
  have hdj : (ps.map (·.d))[j]? = ds[j]? := by rw [hdesc]
  rw [List.getElem?_map, List.getElem?_eq_getElem hj] at hdj
  simp only [hjj] at hi ⊢
  rw [List.getElem?_eq_getElem hi] at hdj
  exact Option.some.inj hdj

/-! ### The steps of a commit -/

section Commit

variable {s : State} {f : Firing}

/-- The pool after a firing's conflict entries and inputs are gone. -/
def State.withoutInputs (s : State) (f : Firing) (emitter : Nat) : State :=
  let s := { s with filters := s.filters.filter (fun e => e.holder != f.id) }
  let s := if s.classOf f = 2 then s.modCore emitter (fun c => c.setUndo false 0) else s
  (s.noteInsert []).removeTiles f.region f.copy f.lslice f.tiles

/-- The firing and its region after its products went on their way. -/
def State.withProducts (s : State) (f : Firing) (ds : List (List Word)) : State :=
  let q := s.sendProducts f.region 0 ds
  (q.1.modFiring f.id fun x => { x with retired := true, products := q.2, cores := [] }).count f.region f.copy
    fun c => { c with nfire := c.nfire + 1, nprod := c.nprod + ds.length }

/-- Where no product is to be inserted the budgets are judged, the cores become idle, and a firing without products leaves flight. -/
def State.committed (s : State) (f : Firing) (judged : Bool) : State :=
  ((f.cores.foldl State.idleCore (if judged then s.tileBudgets f.region else s)).clearCells f.id).retire f.id

theorem commitFiring_eq (s : State) (f : Firing) (emitter : Nat) : s.commitFiring f emitter =
    ((s.withoutInputs f emitter).withProducts f (s.core emitter).products).committed f
      (((s.withoutInputs f emitter).sendProducts f.region 0 (s.core emitter).products).2.all (·.inserted)) := rfl

theorem withoutInputs_spec (s : State) (f : Firing) (emitter : Nat) :
    SameWork { s with filters := s.filters.filter (fun e => e.holder != f.id) } (s.withoutInputs f emitter) ∧
      (s.withoutInputs f emitter).tiles = s.tiles.filter fun t => !f.tiles.contains t.id := by
  let u : State := { s with filters := s.filters.filter (fun e => e.holder != f.id) }
  let v : State := if u.classOf f = 2 then u.modCore emitter (fun c => c.setUndo false 0) else u
  have hv : SamePool u v ∧ v.tiles = s.tiles := by
    by_cases h : u.classOf f = 2
    · rw [show v = _ from if_pos h]
      exact ⟨samePool_modCore u emitter fun _ => rfl, rfl⟩
    · rw [show v = _ from if_neg h]
      exact ⟨.refl u, rfl⟩
  obtain ⟨hpool, htiles⟩ := hv
  refine ⟨?_, congrArg (List.filter fun t : Tile => !f.tiles.contains t.id) htiles⟩
  exact SameWork.modRegion ((hpool.toSameWork.trans (samePool_noteInsert v []).toSameWork).trans (sameWork_tiles _ _ _)) (fun _ => rfl)
    fun _ => rfl

theorem idle_committed (hf : ∀ x ∈ f.cores, x < 0x10000) (s : State) (b : Bool) :
    ∀ x ∈ f.cores, ((s.committed f b).core x).run = .idle ∧ ((s.committed f b).core x).grant = 0 :=
  idle_idleCores hf _

/-- What the end of a commit leaves of the pool. -/
theorem committed_spec (s : State) (f : Firing) (b : Bool) :
    (s.committed f b).filters = s.filters ∧ (s.committed f b).tiles.map (·.id) = s.tiles.map (·.id) ∧
      (s.committed f b).firings = s.firings.filter (fun x => !(x.id == f.id && x.retired && x.products.isEmpty)) ∧
      ((s.committed f b).region? f.region).map Region.cnt = (s.region? f.region).map Region.cnt := by
  let u : State := if b then s.tileBudgets f.region else s
  have hu : SamePool s u := by
    cases b
    · exact .refl s
    · exact samePool_tileBudgets s f.region
  have hbeyond : (f.cores.foldl State.idleCore u).beyondMemory = u.beyondMemory := beyondMemory_foldl beyondMemory_idleCore f.cores u
  have hfirings : (f.cores.foldl State.idleCore u).firings = s.firings := (congrArg State.firings hbeyond :).trans hu.firings
  refine ⟨(congrArg State.filters hbeyond :).trans hu.filters, (congrArg (fun v : State => v.tiles.map (·.id)) hbeyond :).trans hu.tiles, ?_,
    (cnt_region?_of (cnts_of_beyond hbeyond) f.region).trans (hu.cnt_region? f.region)⟩
  exact congrArg (List.filter fun x : Firing => !(x.id == f.id && x.retired && x.products.isEmpty)) hfirings

theorem count_spec (s : State) (r copy : Nat) (c : Counters → Counters) :
    (s.count r copy c).filters = s.filters ∧ (s.count r copy c).tiles = s.tiles ∧ (s.count r copy c).firings = s.firings ∧
      (copy = 0 → ((s.count r copy c).region? r).map Region.cnt = ((s.region? r).map Region.cnt).map c) := by
  unfold State.count
  split
  · refine ⟨rfl, rfl, rfl, fun _ => ?_⟩
    rw [region?_modRegion s r r (g := fun x => { x with cnt := c x.cnt }) fun _ => rfl]
    cases hg : s.region? r with
    | none => rfl
    | some g => simp [region?_id hg]
  · next h => exact ⟨rfl, rfl, rfl, fun h0 => absurd h0 h⟩

/-- The firing with its products on their way. -/
def Firing.sent (f : Firing) (ps : List Product) : Firing := { f with retired := true, products := ps, cores := [] }

theorem withProducts_spec (hfiring : s.firing? f.id = some f) {g : Region} (hg : (s.region? f.region).map Region.cnt = some g.cnt)
    (ds : List (List Word)) : ∃ ps : List Product, ps.map (·.index) = List.range ds.length ∧ ps.map (·.d) = ds ∧
      (s.withProducts f ds).filters = s.filters ∧ (s.withProducts f ds).tiles.map (·.id) = s.tiles.map (·.id) ∧
      (s.withProducts f ds).firing? f.id = some (f.sent ps) ∧
      (∀ x ∈ (s.withProducts f ds).firings, x.id = f.id → x.retired = true ∧ x.products = ps) ∧
      (f.copy = 0 → ((s.withProducts f ds).region? f.region).map Region.cnt =
        some { g.cnt with nfire := g.cnt.nfire + 1, nprod := g.cnt.nprod + ds.length }) := by
  have hsome : (s.region? f.region).isSome = true := by
    rw [← Option.isSome_map (f := Region.cnt), hg]
    rfl
  obtain ⟨hpool, hindex, hdesc⟩ := sendProducts_spec ds f.region 0 hsome
  let q := s.sendProducts f.region 0 ds
  let u : State := q.1.modFiring f.id fun x => { x with retired := true, products := q.2, cores := [] }
  obtain ⟨hfilters, htiles, hfirings, hcnt⟩ := count_spec u f.region f.copy
    fun c => { c with nfire := c.nfire + 1, nprod := c.nprod + ds.length }
  have hq : q.1.firing? f.id = some f := by rw [State.firing?, hpool.firings, ← State.firing?, hfiring]
  refine ⟨q.2, by rw [List.range_eq_range']; exact hindex, hdesc, hfilters.trans hpool.filters,
    (congrArg (List.map (·.id)) htiles).trans hpool.tiles, ?_, fun x hx hid => ?_, fun h0 => ?_⟩
  · have hfound : u.firing? f.id = some (f.sent q.2) := firing?_modFiring hq
    rw [State.firing?] at hfound ⊢
    rw [show (s.withProducts f ds).firings = u.firings from hfirings, hfound]
  · rw [show (s.withProducts f ds).firings = u.firings from hfirings] at hx
    obtain ⟨y, -, rfl⟩ := List.mem_map.1 hx
    split at hid
    · next h => rw [if_pos h]; exact ⟨rfl, rfl⟩
    · next h => exact absurd hid h
  · refine (hcnt h0).trans ?_
    rw [show (u.region? f.region).map Region.cnt = some g.cnt from (hpool.cnt_region? f.region).trans hg]
    rfl

theorem firing?_filter {fs : List Firing} {n : Nat} {x : Firing} {keep : Firing → Bool} (h : fs.find? (fun x => x.id == n) = some x)
    (hkeep : keep x = true) : (fs.filter keep).find? (fun x => x.id == n) = some x := by
  obtain ⟨hid, as, bs, rfl, has⟩ := List.find?_eq_some_iff_append.1 h
  rw [List.filter_append, List.filter_cons_of_pos hkeep]
  exact List.find?_eq_some_iff_append.2 ⟨hid, _, _, rfl, fun a ha => has a (List.mem_of_mem_filter ha)⟩

/-- What the commit of a firing's last core leaves (R213). -/
structure Commits (s t : State) (f : Firing) (g : Region) (c : Core) : Prop where
  idle : ∀ x ∈ f.cores, (t.core x).run = .idle ∧ (t.core x).grant = 0
  filters : ∀ e ∈ t.filters, e.holder ≠ f.id
  tiles : t.tiles.map (·.id) = (s.tiles.map (·.id)).filter (fun i => !f.tiles.contains i)
  gone : c.pcnt = 0 → t.firing? f.id = none
  sent : 0 < c.pcnt → ∃ f', t.firing? f.id = some f' ∧ f'.retired = true ∧ f'.cores = [] ∧ f'.products.length = c.pcnt ∧
    f'.products.map (·.index) = List.range c.pcnt ∧ ∀ i, i < c.pcnt → ∀ p ∈ f'.products, p.index = i →
      p.d = [c.arr.word (0x1000 + 32 * i), c.arr.word (0x1008 + 32 * i), c.arr.word (0x1010 + 32 * i), c.arr.word (0x1018 + 32 * i)]
  counted : f.copy = 0 → ∃ g', t.region? f.region = some g' ∧ g'.cnt.nfire = g.cnt.nfire + 1 ∧ g'.cnt.nprod = g.cnt.nprod + c.pcnt

theorem commits_commitFiring (hf : ∀ x ∈ f.cores, x < 0x10000) (hfiring : s.firing? f.id = some f) {g : Region}
    (hg : s.region? f.region = some g) (emitter : Nat) : Commits s (s.commitFiring f emitter) f g (s.core emitter) := by
  let ds := (s.core emitter).products
  let b := ((s.withoutInputs f emitter).sendProducts f.region 0 ds).2.all (·.inserted)
  have hlen : ds.length = (s.core emitter).pcnt := length_products _
  obtain ⟨hwork, htiles⟩ := withoutInputs_spec s f emitter
  have hfiring' : (s.withoutInputs f emitter).firing? f.id = some f := by
    rw [State.firing?, hwork.firings]
    exact hfiring
  have hcnt : ((s.withoutInputs f emitter).region? f.region).map Region.cnt = some g.cnt :=
    (hwork.cnt_region? f.region).trans (congrArg (Option.map Region.cnt) hg)
  obtain ⟨ps, hindex, hdesc, hpfilters, hptiles, hpfiring, hpall, hpcnt⟩ := withProducts_spec hfiring' hcnt ds
  obtain ⟨hcfilters, hctiles, hcfirings, hccnt⟩ := committed_spec ((s.withoutInputs f emitter).withProducts f ds) f b
  have hpslen : ps.length = (s.core emitter).pcnt := by rw [← hlen, ← hdesc, List.length_map]
  rw [commitFiring_eq]
  refine ⟨idle_committed hf _ _, fun e he => ?_, ?_, fun h0 => ?_, fun hpos => ⟨f.sent ps, ?_, rfl, rfl, hpslen, ?_, fun i hi p hp hpi => ?_⟩,
    fun h0 => ?_⟩
  · rw [hcfilters, hpfilters, hwork.filters] at he
    exact bne_iff_ne.1 (List.mem_filter.1 he).2
  · rw [hctiles, hptiles, htiles, List.filter_map]
    rfl
  · rw [State.firing?, hcfirings, List.find?_eq_none]
    intro x hx hid
    obtain ⟨hxmem, hkeep⟩ := List.mem_filter.1 hx
    have hid := beq_iff_eq.1 hid
    obtain ⟨hretired, hproducts⟩ := hpall x hxmem hid
    have hnil : ps = [] := List.eq_nil_of_length_eq_zero (hpslen.trans h0)
    simp [hid, hretired, hproducts, hnil] at hkeep
  · rw [State.firing?, hcfirings]
    refine firing?_filter hpfiring ?_
    have hne : ps ≠ [] := by
      rintro rfl
      exact absurd hpslen (Nat.ne_of_lt hpos)
    simp [Firing.sent, hne]
  · exact hindex.trans (congrArg List.range hlen)
  · subst hpi
    rw [product_desc hindex hdesc hp (by omega)]
    exact getElem_products _ _
  · have hfinal := hccnt.trans (hpcnt h0)
    obtain ⟨g', hg', hcnt'⟩ := Option.map_eq_some_iff.1 hfinal
    refine ⟨g', hg', ?_, ?_⟩
    · rw [hcnt']
    · rw [hcnt', ← hlen]

/-! ### COMMIT by one core (R215) -/

theorem commitCore_last {k : Nat} (h : ¬ (s.classOf f = 1 ∧ ∃ x ∈ f.cores, x ≠ k ∧ x ∉ f.committed)) :
    s.commitCore k f = s.commitFiring f ((f.cores.find? isIssuer).getD k) := by
  rw [State.commitCore]
  refine if_neg fun hwait => h ⟨hwait.1, ?_⟩
  simpa [List.all_eq_true] using hwait.2

theorem commitCore_first {k : Nat} (hclass : s.classOf f = 1) (h : ∃ x ∈ f.cores, x ≠ k ∧ x ∉ f.committed) : s.commitCore k f =
    (s.modFiring f.id fun x => { x with committed := k :: x.committed }).modCore k fun c => { c with run := .committed f.id } := by
  rw [State.commitCore]
  refine if_pos ⟨hclass, ?_⟩
  simpa [List.all_eq_true] using h

end Commit

/-- Settles O42: COMMIT and ABORT are run step by step, the ends of a firing change the pool in steps that each keep the firings, the conflict
entries and the counts, and the undo entries lie above the header that a call writes. -/
theorem firingEnds : Obligations.FiringEnds := by
  unfold Obligations.FiringEnds
  intro s f last kh r rb ra kl rd stl hq illop
  refine ⟨fun hin hp hbusy hturn => ⟨commit_performed hq hin hp hbusy hturn stl _, commit_performed hq hin hp hbusy hturn 0 _⟩,
    fun hin hp hwait => ?_, fun hf hundo => ⟨fun h => ?_, fun hclass hhandler hopened => ?_⟩, fun hp h => ?_, fun h => ?_,
    fun hf hthread hundo hp => undo_illop hq hf hthread hundo hp last kh r rb ra kl rd stl, fun hundo ha => ctxsw_undo hq ha hundo stl,
    fun hagenda hrun hcur hstopped hwait hdeliver hundo hpc => ?_, fun k g hcores hk hmem hfiring hg => ?_⟩
  · exact List.forall_mem_cons.2 ⟨commit_waits hq hin hp hwait stl _, List.forall_mem_singleton.2 (commit_waits hq hin hp hwait 0 _)⟩
  · rw [abort_runs hf hundo, if_neg h]
  · rw [abort_runs hf hundo, if_pos ⟨hclass, hhandler, hopened⟩]
  · have hbad : s.firingOf s.cur = none ∨ s.me.inHandler = true ∨ s.me.undo = true := h.imp_right .inl
    exact List.forall_mem_cons.2 ⟨issue_trap (commitM_illop hp hbad _), List.forall_mem_singleton.2 (issue_trap (commitM_illop hp hbad _))⟩
  · exact List.forall_mem_singleton.2 (abort_illop (.inl h) stl)
  · rw [step, hagenda]
    exact coreTurn_undoReturn hrun hcur hstopped hwait hdeliver hundo hpc
  · intro idle other n arr a t c ended kept
    have hended {u : State} (h : LeftFlight f s u) : ended u := ⟨h.idle, h.gone, h.filters, h.tiles, h.held⟩
    refine ⟨fun hclass hwf hregs => ⟨fun hundo hucnt => hended (leftFlight_boosted hcores hclass hundo hucnt), fun hundo hhandler hucnt => ?_,
      fun hrun hucnt => hended (leftFlight_undoReturned hcores hrun hfiring hucnt), fun hucnt => ?_⟩, fun hclass => ?_, fun hother => ?_,
      fun hlast => ?_⟩
    · obtain ⟨hcalls, ⟨hfilters, htiles, hfirings⟩, hpcnt⟩ := abort_calls (f := f) hclass hundo hhandler hucnt hwf hregs
      exact ⟨hcalls, ⟨hfilters, htiles, hfirings.trans hfiring⟩, hpcnt⟩
    · obtain ⟨hcalls, hfilters, htiles, hfirings⟩ := undoReturned_calls (f := f) hucnt hwf hregs
      exact ⟨hcalls, hfilters, htiles, hfirings.trans hfiring⟩
    · have h := leftFlight_abort (k := k) hcores hclass
      exact ⟨h.idle, h.gone, h.filters, h.tiles, h.held, h.descs⟩
    · rw [show t = _ from commitCore_first hother.1 hother.2]
      exact ⟨by rw [State.core_modCore_same], rfl, rfl, rfl, _, firing?_modFiring hfiring, List.mem_cons_self, rfl⟩
    · have h : Commits s t f g _ := commitCore_last hlast ▸ commits_commitFiring hcores hfiring hg _
      exact ⟨h.idle, h.filters, h.tiles, h.gone, h.sent, h.counted⟩

end Sys2Proof.Machine

/-! IDEM, KLD, BOP and BOP.end (R217, R220, R222 to R225). -/

namespace Sys2Proof.Machine
open Host

theorem closeRegionM_run (s : State) : closeRegionM s = .ok ((), s.modCore s.cur Spec.closed) := rfl

section Regions

variable {s : State} {f : Firing} {g : Region}

/-! ### IDEM (R217) -/

theorem openRegion_idem (c : Core) (m : BitVec 32) : c.openRegion c.pc m =
    { c with ient := c.pc, imask := m &&& 0xFFFFFFFE, ipc := c.pcnt, noDiscard := false, waitOpen := false,
             entry := { preds := c.preds, gens := c.gens, ctl := c.cr }, empty := true } := rfl

theorem idem_opens (hq : Quiet s) {ra : BitVec 5} (ha : s.plain ra) (hthread : s.me.isThread = false) (hundo : s.me.undo = false)
    (stl : BitVec 2) : exec (.idem ra stl) s = .next (s.after 4 stl fun c => c.openRegion c.pc ((s.me.reg ra.toNat).setWidth 32)) := by
  apply issue_after (u := ())
  have hthread' : (s.at 4).me.isThread = false := by rw [State.at_me]; exact hthread
  have hundo' : (s.at 4).me.undo = false := by rw [State.at_me, Core.begin_undo, hundo]
  simp only [M.bind_run, M.getC_run, hthread', Bool.false_eq_true, if_false, settleM_at hq, readyM_at hq, hundo', Bool.not_false, M.need_true,
    src_at hq ha, M.modC_run]
  rw [State.at_cur, State.at_eq, State.modCore_setCore]

theorem idem_thread (hq : Quiet s) {ra : BitVec 5} (ha : s.plain ra) (hthread : s.me.isThread = true) (stl : BitVec 2) :
    exec (.idem ra stl) s = .next (s.after 4 stl id) := by
  apply issue_after (u := ())
  have hthread' : (s.at 4).me.isThread = true := by rw [State.at_me]; exact hthread
  simp only [M.bind_run, M.getC_run, hthread', if_true, readyM_at hq, src_at hq ha, M.pure_run]
  rfl

/-! ### KLD (R220) -/

theorem constM_at (hg : s.regionOf s.cur = some g) (n : Nat) (bits : Word) (len : Nat) :
    constM n bits (s.at len) = .ok (g.eff.kbank.getD n 0, s.at len) := by
  simp only [constM, M.bind_run, M.get_run, State.at_cur, regionOf_at, hg, M.pure_run]

theorem kld_at (hq : Quiet s) {rd : BitVec 5} (hd : s.mayWrite rd) (hg : s.regionOf s.cur = some g) (kn : BitVec 5) (stl : BitVec 2) :
    exec (.kld kn rd stl) s = .next (s.wrote 4 stl rd (g.eff.kbank.getD kn.toNat 0) 0) := by
  apply issue_after (u := ())
  simp only [M.bind_run, readyM_at hq, constM_at hg, put_at _ _ hd]

theorem kldX_at (hq : Quiet s) {ra rd : BitVec 5} (ha : s.plain ra) (hd : s.mayWrite rd) (hg : s.regionOf s.cur = some g)
    (hi : (s.me.reg ra.toNat).toNat < 32) (stl : BitVec 2) :
    exec (.kldX ra rd stl) s = .next (s.wrote 4 stl rd (g.eff.kbank.getD (s.me.reg ra.toNat).toNat 0) 0) := by
  apply issue_after (u := ())
  simp only [M.bind_run, readyM_at hq, src_at hq ha, hi, decide_true, M.need_true, constM_at hg, put_at _ _ hd]

theorem kldX_illop (hq : Quiet s) {ra : BitVec 5} (ha : s.plain ra) (hi : 32 ≤ (s.me.reg ra.toNat).toNat) (rd : BitVec 5) (stl : BitVec 2) :
    exec (.kldX ra rd stl) s = .next (s.takeTrap s.cur 1 (s.me.reg ra.toNat)) := by
  apply issue_trap
  simp only [M.bind_run, readyM_at hq, src_at hq ha, decide_eq_false (Nat.not_lt.2 hi), M.need_false]
  rfl

/-! ### BOP.end (R225) -/

theorem boostedM_at (h : Spec.InBody s f) (hclass : s.classOf f = 2) (bits : Word) (len : Nat) :
    boostedM bits (s.at len) = .ok (f, s.at len) := by
  have hclass' : (s.at len).classOf f = 2 := hclass
  rw [boostedM, bind_ok (firingM_some h.runs bits len)]
  simp only [M.bind_run, M.get_run, hclass', State.at_me, Core.inHandler_begin, h.handler, Core.begin_undo, h.undo]
  rfl

theorem bopEnd_at (hq : Quiet s) (h : Spec.InBody s f) (hclass : s.classOf f = 2) (stl : BitVec 2) :
    exec (.bopEnd stl) s = .next (s.after 4 stl fun c => Spec.closed (c.setUndo false c.ucnt)) := by
  apply issue_after (u := ())
  simp only [M.bind_run, settleM_at hq, boostedM_at h hclass, M.modC_run, closeRegionM_run]
  rw [State.modCore_cur, State.modCore_modCore, State.at_cur, State.at_eq, State.modCore_setCore]

/-! ### BOP (R222) -/

/-- The state of a BOP of the current core after its section is closed, before it looks for rivals. -/
def State.shut (s : State) : State := (s.at 4).modCore s.cur fun c => c.setUndo false c.ucnt

@[simp] theorem shut_cur (s : State) : s.shut.cur = s.cur := rfl

theorem shut_me (s : State) : s.shut.me = (s.me.begin 4).setUndo false s.me.ucnt := by
  rw [State.shut, State.me, State.modCore_cur, State.at_cur, State.core_modCore_same, show (s.at 4).core s.cur = s.me.begin 4 from State.at_me]
  rfl

theorem ucnt_shut (hwf : s.me.arr.wf = true) : s.shut.me.ucnt = s.me.ucnt := by
  rw [shut_me]
  exact ucnt_setUndo (c := s.me.begin 4) hwf false (ucnt_lt _)

/-- What a BOP does once its kind is one of the table's: the inverse call is `e0`, and `row` says with which kinds it commutes. -/
def bopM (s0 : State) (f : Firing) (k : Nat) (row e0 obj arg : Word) : M Unit := do
  let s ← get
  if !e0.getLsbD 53 ∧ s.me.ucnt = 319 then throw (.fin (s.bopConf s.cur 3))
  let hs := s.rivals f obj row
  if hs.any (fun h => decide (h.stamp < f.stamp)) then throw (.fin (s.bopConf s.cur 1))
  if !hs.isEmpty then
    let w := s0.modCore s.cur fun c => c.setUndo false c.ucnt
    throw (.hold (hs.foldl (fun s h => s.modFiring h.id fun x => { x with notified := true }) w))
  match s.recordOp f obj k with
  | none => throw (.fin (s.bopConf s.cur 2))
  | some s =>
    set s
    if !e0.getLsbD 53 then modC fun c => c.pushUndo e0 k obj arg
    acquireM s.regionScope
    forgetAhead
    closeRegionM

section Bop

variable (hq : Quiet s) (h : Spec.InBody s f) (hg : s.region? f.region = some g) (hclass : s.classOf f = 2) (kh : BitVec 1)
  {rb ra kl : BitVec 5} (stl : BitVec 2)
include hq h hg hclass

theorem bop_illop (hk : g.eff.commRows.length ≤ kh.toNat * 32 + kl.toNat) :
    exec (.bop kh rb ra kl stl) s = .next (s.takeTrap s.cur 1 (BitVec.ofNat 64 (kh.toNat * 32 + kl.toNat))) := by
  have hregion : (s.at 4).regionOf (s.at 4).cur = some g := by rw [State.at_cur, regionOf_at, regionOf_eq_of_firing h.runs, hg]
  apply issue_trap
  simp only [M.bind_run, M.get_run, settleM_at hq, readyM_at hq, boostedM_at h hclass, hregion, decide_eq_false (Nat.not_lt.2 hk), M.need_false]
  rfl

theorem bop_at (ha : s.plain ra) (hb : s.plain rb) (hk : kh.toNat * 32 + kl.toNat < g.eff.commRows.length) : ∃ body : M Unit,
    exec (.bop kh rb ra kl stl) s = issue 4 stl body s ∧ body (s.at 4) = bopM (s.at 4) f (kh.toNat * 32 + kl.toNat) (g.eff.commRows.getD (kh.toNat * 32 + kl.toNat) 0)
      (g.eff.commInv.getD (kh.toNat * 32 + kl.toNat) 0) (s.me.reg ra.toNat) (s.me.reg rb.toNat) s.shut := by
  have hregion : (s.at 4).regionOf (s.at 4).cur = some g := by rw [State.at_cur, regionOf_at, regionOf_eq_of_firing h.runs, hg]
  refine ⟨_, rfl, ?_⟩
  simp only [M.bind_run, M.get_run, settleM_at hq, readyM_at hq, boostedM_at h hclass, hregion, hk, decide_true, M.need_true, src_at hq ha,
    src_at hq hb, M.modC_run]
  rfl

end Bop

section BopCases

variable {k : Nat} {row e0 obj arg : Word} {s0 t : State}

/-- The undo stack is full (R222). -/
theorem bopM_full (hread : e0.getLsbD 53 = false) (hucnt : t.me.ucnt = 319) :
    bopM s0 f k row e0 obj arg t = .error (.fin (t.bopConf t.cur 3)) := by
  simp only [bopM, M.bind_run, M.get_run, hread, hucnt]
  rfl

variable (hroom : e0.getLsbD 53 = true ∨ t.me.ucnt ≠ 319)
include hroom

theorem bop_room : ¬ ((!e0.getLsbD 53) = true ∧ t.me.ucnt = 319) := by
  rintro ⟨hread, hucnt⟩
  rcases hroom with h | h
  · rw [h] at hread
    exact absurd hread (by decide)
  · exact h hucnt

/-- An older firing holds the object. -/
theorem bopM_older (hold : ∃ h ∈ t.rivals f obj row, h.stamp < f.stamp) :
    bopM s0 f k row e0 obj arg t = .error (.fin (t.bopConf t.cur 1)) := by
  have hany : (t.rivals f obj row).any (fun h => decide (h.stamp < f.stamp)) = true := by simpa using hold
  simp only [bopM, M.bind_run, M.get_run, if_neg (bop_room hroom), hany, if_true]
  rfl

/-- Firings told to abort. -/
def State.notify (s : State) (hs : List Firing) : State :=
  hs.foldl (fun s h => s.modFiring h.id fun x => { x with notified := true }) s

/-- Only younger firings hold it. -/
theorem bopM_younger (hsome : t.rivals f obj row ≠ []) (hyoung : ∀ h ∈ t.rivals f obj row, f.stamp ≤ h.stamp) :
    bopM s0 f k row e0 obj arg t =
      .error (.hold ((s0.modCore t.cur fun c => c.setUndo false c.ucnt).notify (t.rivals f obj row))) := by
  have hany : (t.rivals f obj row).any (fun h => decide (h.stamp < f.stamp)) = false := by simpa using hyoung
  have hempty : (!(t.rivals f obj row).isEmpty) = true := by simp [hsome]
  simp only [bopM, M.bind_run, M.get_run, if_neg (bop_room hroom), hany, Bool.false_eq_true, if_false, hempty, if_true]
  rfl

/-- No entry of the filter is free. -/
theorem bopM_noEntry (hnone : t.rivals f obj row = []) (hrecord : t.recordOp f obj k = none) :
    bopM s0 f k row e0 obj arg t = .error (.fin (t.bopConf t.cur 2)) := by
  simp only [bopM, M.bind_run, M.get_run, if_neg (bop_room hroom), hnone, hrecord]
  rfl

/-- The operation is recorded. -/
theorem bopM_records {u : State} (hnone : t.rivals f obj row = []) (hrecord : t.recordOp f obj k = some u) :
    let v := if e0.getLsbD 53 then u else u.modCore u.cur fun c => c.pushUndo e0 k obj arg
    bopM s0 f k row e0 obj arg t =
      .ok ((), (v.acquireAt u.cur v.regionScope false).modCore u.cur fun c => Spec.closed { c with ahead := [] }) := by
  have hacquire (v : State) (n : Nat) : (v.acquireAt v.cur n false).cur = v.cur := (congrArg State.cur (beyondMemory_acquireAt v v.cur n false) :)
  have hrun (v : State) (n : Nat) : (acquireM n >>= fun _ => forgetAhead >>= fun _ => closeRegionM) v =
      .ok ((), (v.acquireAt v.cur n false).modCore v.cur fun c => Spec.closed { c with ahead := [] }) := by
    have hends : (acquireM n >>= fun _ => forgetAhead >>= fun _ => closeRegionM) v =
        .ok ((), ((v.acquireAt v.cur n false).modCore (v.acquireAt v.cur n false).cur fun c => { c with ahead := [] }).modCore
          (v.acquireAt v.cur n false).cur Spec.closed) := rfl
    rw [hends, hacquire, State.modCore_modCore]
  simp only [bopM, M.bind_run, M.get_run, if_neg (bop_room hroom), hnone, hrecord, List.any_nil, List.isEmpty_nil, Bool.not_true,
    Bool.false_eq_true, if_false, M.set_run]
  cases e0.getLsbD 53 with
  | true => exact hrun u u.regionScope
  | false => exact hrun (u.modCore u.cur fun c => c.pushUndo e0 k obj arg) u.regionScope

end BopCases

theorem cur_recordOp {t u : State} {obj : Word} {k : Nat} (h : t.recordOp f obj k = some u) : u.cur = t.cur := by
  unfold State.recordOp at h
  dsimp only at h
  split at h
  · cases h
    rfl
  · split at h
    · cases h
    · cases h
      rfl

/-! ### Firings told to abort (R222) -/

theorem notify_same (s : State) (hs : List Firing) : (s.notify hs).cores = s.cores ∧ (s.notify hs).filters = s.filters ∧ (s.notify hs).cur = s.cur :=
  List.foldlRecOn (motive := fun t : State => t.cores = s.cores ∧ t.filters = s.filters ∧ t.cur = s.cur) hs _ ⟨rfl, rfl, rfl⟩ fun _ ht _ _ => ht

theorem notified_notify {s : State} {hs : List Firing} {h x : Firing} (hh : h ∈ hs) (hx : (s.notify hs).firing? h.id = some x) :
    x.notified = true := by
  have hstep (t : State) (n : Nat) (ht : ∀ y ∈ t.firings, y.id = h.id → y.notified = true ∨ n = h.id) :
      ∀ y ∈ (t.modFiring n fun x => { x with notified := true }).firings, y.id = h.id → y.notified = true := by
    intro y hy hid
    obtain ⟨z, hz, rfl⟩ := List.mem_map.1 hy
    by_cases hn : z.id = n
    · rw [if_pos hn]
    · rw [if_neg hn] at hid ⊢
      exact (ht z hz hid).resolve_right fun heq => hn (hid.trans heq.symm)
  have hall : ∀ y ∈ (s.notify hs).firings, y.id = h.id → y.notified = true := by
    obtain ⟨as, bs, rfl⟩ := List.append_of_mem hh
    rw [State.notify, List.foldl_append, List.foldl_cons]
    refine List.foldlRecOn (motive := fun t : State => ∀ y ∈ t.firings, y.id = h.id → y.notified = true) bs _ (hstep _ _ fun _ _ _ => .inr rfl)
      fun t ht b _ => hstep t b.id fun y hy hid => .inl (ht y hy hid)
  exact hall x (List.mem_of_find?_eq_some hx) (by simpa using List.find?_some hx)

/-! ### BOP as a whole (R222) -/

section BopRuns

variable (hq : Quiet s) (h : Spec.InBody s f) (hg : s.region? f.region = some g) (hclass : s.classOf f = 2) (hwf : s.me.arr.wf = true)
  {kh : BitVec 1} {rb ra kl : BitVec 5} (ha : s.plain ra) (hb : s.plain rb) (stl : BitVec 2) {k : Nat} (hk : k = kh.toNat * 32 + kl.toNat)
  (hlen : k < g.eff.commRows.length)
include hq h hg hclass hwf ha hb hk hlen

theorem bop_full (hread : (g.eff.commInv.getD k 0).getLsbD 53 = false) (hucnt : s.me.ucnt = 319) :
    exec (.bop kh rb ra kl stl) s = .next (s.shut.bopConf s.cur 3) := by
  subst hk
  obtain ⟨body, hexec, hbody⟩ := bop_at hq h hg hclass kh stl ha hb hlen
  rw [hexec, issue_fin (hbody.trans (bopM_full hread ((ucnt_shut hwf).trans hucnt)))]
  rfl

variable (hroom : (g.eff.commInv.getD k 0).getLsbD 53 = true ∨ s.me.ucnt ≠ 319)
include hroom

theorem bop_older (hold : ∃ r ∈ s.rivals f (s.me.reg ra.toNat) (g.eff.commRows.getD k 0), r.stamp < f.stamp) :
    exec (.bop kh rb ra kl stl) s = .next (s.shut.bopConf s.cur 1) := by
  subst hk
  obtain ⟨body, hexec, hbody⟩ := bop_at hq h hg hclass kh stl ha hb hlen
  rw [← ucnt_shut hwf] at hroom
  rw [hexec, issue_fin (hbody.trans (bopM_older hroom hold))]
  rfl

theorem bop_younger {rivals : List Firing} (hrivals : rivals = s.rivals f (s.me.reg ra.toNat) (g.eff.commRows.getD k 0)) (hsome : rivals ≠ [])
    (hyoung : ∀ r ∈ rivals, f.stamp ≤ r.stamp) : ∃ u, exec (.bop kh rb ra kl stl) s = .next u ∧ u.me.pc = s.me.pc ∧ u.me.opened = false ∧
      u.me.ucnt = s.me.ucnt ∧ u.filters = s.filters ∧ ∀ r ∈ rivals, ∀ x, u.firing? r.id = some x → x.notified = true := by
  subst hk
  obtain ⟨body, hexec, hbody⟩ := bop_at hq h hg hclass kh stl ha hb hlen
  rw [← ucnt_shut hwf] at hroom
  rw [hrivals] at hsome hyoung
  have hwaits := hbody.trans (bopM_younger hroom hsome hyoung)
  let v : State := s.shut.notify rivals
  let u : State := v.modCore s.cur fun x => x.back s.me.pc s.me.empty
  obtain ⟨hcores, hfilters, hcur⟩ := notify_same s.shut rivals
  have hcore : u.core s.cur = ((s.me.begin 4).setUndo false s.me.ucnt).back s.me.pc s.me.empty := by
    rw [State.core_modCore_same]
    refine congrArg (Core.back · s.me.pc s.me.empty) ((congrArg (fun cs => tget Core.init cs s.cur) hcores).trans ?_)
    exact shut_me s
  have hstalled : u.stalled s.cur = u := State.stalled_quiet (by rw [hcore]; exact hq.pend)
  have hme : u.me = u.core s.cur := congrArg u.core hcur
  refine ⟨u, ?_, ?_, ?_, ?_, hfilters, fun r hr x hx => notified_notify hr hx⟩
  · rw [hexec, issue_hold hwaits, show s.shut.rivals f _ _ = rivals from hrivals.symm]
    exact congrArg _ hstalled
  · rw [hme, hcore]
    rfl
  · rw [hme, hcore]
    exact opened_setUndo (c := s.me.begin 4) hwf false (ucnt_lt _)
  · rw [hme, hcore]
    exact ucnt_setUndo (c := s.me.begin 4) hwf false (ucnt_lt _)

theorem bop_noEntry (hnone : s.rivals f (s.me.reg ra.toNat) (g.eff.commRows.getD k 0) = [])
    (hrecord : s.shut.recordOp f (s.me.reg ra.toNat) k = none) : exec (.bop kh rb ra kl stl) s = .next (s.shut.bopConf s.cur 2) := by
  subst hk
  obtain ⟨body, hexec, hbody⟩ := bop_at hq h hg hclass kh stl ha hb hlen
  rw [← ucnt_shut hwf] at hroom
  rw [hexec, issue_fin (hbody.trans (bopM_noEntry hroom hnone hrecord))]
  rfl

theorem bop_records {u : State} (hnone : s.rivals f (s.me.reg ra.toNat) (g.eff.commRows.getD k 0) = [])
    (hrecord : s.shut.recordOp f (s.me.reg ra.toNat) k = some u) :
    let v := if (g.eff.commInv.getD k 0).getLsbD 53 then u
      else u.modCore s.cur fun c => c.pushUndo (g.eff.commInv.getD k 0) k (s.me.reg ra.toNat) (s.me.reg rb.toNat)
    exec (.bop kh rb ra kl stl) s = .next (((v.acquireAt s.cur v.regionScope false).modCore s.cur fun c =>
      Spec.closed { c with ahead := [] }).past stl) := by
  subst hk
  obtain ⟨body, hexec, hbody⟩ := bop_at hq h hg hclass kh stl ha hb hlen
  rw [← ucnt_shut hwf] at hroom
  have hcur : u.cur = s.shut.cur := cur_recordOp hrecord
  rw [shut_cur] at hcur
  intro v
  have hvcur : v.cur = s.cur := by
    cases hread : (g.eff.commInv.getD (kh.toNat * 32 + kl.toNat) 0).getLsbD 53 <;> simp only [v, hread] <;> exact hcur
  have hpast : ((v.acquireAt s.cur v.regionScope false).modCore s.cur fun c => Spec.closed { c with ahead := [] }).cur = s.cur :=
    (congrArg State.cur (beyondMemory_acquireAt v s.cur v.regionScope false) :).trans hvcur
  have hrun := hbody.trans (bopM_records hroom hnone hrecord)
  rw [hcur] at hrun
  rw [hexec, issue_ok hrun, State.past, hpast]

end BopRuns

end Regions

end Sys2Proof.Machine

/-! The checks of an activation only read (R74): how they run, and what one that passes gives. -/

namespace Sys2Proof.Machine
open Host

/-! ### How checks run -/

theorem chk_bind_run {α β : Type} (m : Chk α) (f : α → Chk β) (s : State) : (m >>= f).run.run s =
    match m.run.run s with
    | (.ok a, t) => (f a).run.run t
    | (.error e, t) => (.error e, t) := by
  show (match m.run.run s with | (a, t) => (ExceptT.bindCont f a).run t) = _
  rcases m.run.run s with ⟨_ | a, t⟩ <;> rfl

theorem chk_pure_run {α : Type} (a : α) (s : State) : (pure a : Chk α).run.run s = (.ok a, s) := rfl

theorem chk_get_run (s : State) : (get : Chk State).run.run s = (.ok s, s) := rfl

theorem chk_set_run (t s : State) : (set t : Chk Unit).run.run s = (.ok (), t) := rfl

/-- A check that holds goes on; one that fails ends with its reason. -/
theorem chk_run (b : Bool) (reason rule slot : Nat) (s : State) :
    (chk b reason rule slot).run.run s = if b then (.ok (), s) else (.error (reason, rule, slot), s) := by
  cases b <;> rfl

theorem chk_then_run {α : Type} (b : Bool) (reason rule slot : Nat) (f : Unit → Chk α) (s : State) :
    (chk b reason rule slot >>= f).run.run s = if b then (f ()).run.run s else (.error (reason, rule, slot), s) := by
  rw [chk_bind_run, chk_run]
  cases b <;> rfl

theorem chkWords_run (space va n : Nat) (s : State) : (chkWords space va n).run.run s =
    match s.devWords space va n with
    | (t, .error _) => (.error (15, 0, 0), t)
    | (t, .ok ws) => (.ok ws, t) := by
  rw [chkWords, chk_bind_run, chk_get_run]
  dsimp only
  rcases s.devWords space va n with ⟨t, _ | ws⟩ <;> rfl

/-- The same check for every element, in order. -/
theorem chk_for {α : Type} (l : List α) (m : α → Chk Unit) :
    (forIn l PUnit.unit fun x _ => (do m x; pure (ForInStep.yield PUnit.unit) : Chk (ForInStep PUnit))) = l.forM m := by
  induction l with
  | nil => rfl
  | cons a l ih =>
    rw [List.forIn_cons, bind_assoc]
    simp only [pure_bind, ih]
    rfl

/-! ### Checks that only read -/

/-- The checks change nothing but replicas, an answer fits `Q`, and the reason of a failure is none that says that all is well. -/
def Reads {α : Type} (Q : α → Prop) (m : Chk α) : Prop :=
  ∀ s, ReadOnly s (m.run.run s).2 ∧ (∀ e, (m.run.run s).1 = .error e → e.1 ≠ 0) ∧ ∀ a, (m.run.run s).1 = .ok a → Q a

namespace Reads

variable {α β : Type} {Q : α → Prop} {R : β → Prop}

theorem pure {a : α} (h : Q a) : Reads Q (pure a : Chk α) := by
  intro s
  rw [chk_pure_run]
  refine ⟨.refl s, fun _ he => ?_, fun _ ha => ?_⟩
  · cases he
  · cases ha
    exact h

theorem bind {m : Chk α} {f : α → Chk β} (hm : Reads Q m) (hf : ∀ a, Q a → Reads R (f a)) : Reads R (m >>= f) := by
  intro s
  obtain ⟨hread, herr, hok⟩ := hm s
  rw [chk_bind_run]
  rcases heq : m.run.run s with ⟨e | a, t⟩
  · rw [heq] at hread herr
    refine ⟨hread, fun e' he => ?_, fun _ ha => ?_⟩
    · cases he
      exact herr e rfl
    · cases ha
  · rw [heq] at hread hok
    obtain ⟨hread', hrest⟩ := hf a (hok a rfl) t
    exact ⟨hread.trans hread', hrest⟩

theorem mono {m : Chk α} {Q' : α → Prop} (hm : Reads Q m) (h : ∀ a, Q a → Q' a) : Reads Q' m :=
  fun s => ⟨(hm s).1, (hm s).2.1, fun a ha => h a ((hm s).2.2 a ha)⟩

theorem chk (b : Bool) {reason : Nat} (rule slot : Nat) (h : reason ≠ 0) : Reads (fun _ => b = true) (chk b reason rule slot) := by
  intro s
  rw [chk_run]
  cases b
  · refine ⟨.refl s, fun _ he => ?_, fun _ ha => ?_⟩
    · cases he
      exact h
    · cases ha
  · refine ⟨.refl s, fun _ he => ?_, fun _ _ => rfl⟩
    cases he

theorem words (space va n : Nat) : Reads (fun _ => True) (chkWords space va n) := by
  intro s
  have hread := readOnly_devWords s space va n
  rw [chkWords_run]
  rcases heq : s.devWords space va n with ⟨t, e | ws⟩
  · rw [heq] at hread
    refine ⟨hread, fun _ he => ?_, fun _ ha => ?_⟩
    · cases he
      decide
    · cases ha
  · rw [heq] at hread
    refine ⟨hread, fun _ he => ?_, fun _ _ => trivial⟩
    cases he

theorem forM {l : List α} {m : α → Chk Unit} (h : ∀ a ∈ l, Reads (fun _ => True) (m a)) : Reads (fun _ => True) (l.forM m) := by
  induction l with
  | nil => exact pure trivial
  | cons a l ih => exact bind (h a List.mem_cons_self) fun _ _ => ih fun b hb => h b (List.mem_cons_of_mem a hb)

end Reads

end Sys2Proof.Machine

/-! The checks of a rule and of an activation, rule by rule (R74 to R76). -/

namespace Sys2Proof.Machine
open Host

/-! ### The checks of a rule -/

theorem slotChk_run (space kinds i : Nat) (r : List Word) (slot : Nat) (s : State) : (slotChk space kinds i r slot).run.run s =
    if ruleArity r ≤ slot then (chk (ruleKind r slot == 0) 10 i slot).run.run s
    else match s.kindEntry space kinds (ruleKind r slot) with
      | (t, .error _) => (.error (15, 0, 0), t)
      | (t, .ok e) => (chk (match e with | some e => entPlace e == ruleSel r slot | none => false) 10 i slot).run.run t := by
  unfold slotChk
  split
  · rfl
  · rw [chk_bind_run, chk_get_run]
    dsimp only
    rcases s.kindEntry space kinds (ruleKind r slot) with ⟨t, _ | e⟩
    · rfl
    · rw [chk_bind_run, chk_set_run] <;> rfl

theorem reads_slotChk (space kinds i : Nat) (r : List Word) (slot : Nat) : Reads (fun _ => True) (slotChk space kinds i r slot) := by
  intro s
  have hchk (b : Bool) (t : State) := (Reads.chk b (reason := 10) i slot (by decide)).mono (fun _ _ => trivial : ∀ a : Unit, b = true → True) t
  rw [slotChk_run]
  split
  · exact hchk _ s
  · have hread := readOnly_kindEntry s space kinds (ruleKind r slot)
    rcases heq : s.kindEntry space kinds (ruleKind r slot) with ⟨t, _ | e⟩
    · rw [heq] at hread
      refine ⟨hread, fun _ he => ?_, fun _ _ => trivial⟩
      cases he
      decide
    · rw [heq] at hread
      exact ⟨hread.trans (hchk _ t).1, (hchk _ t).2⟩

theorem reads_commChk (space va i : Nat) : Reads (fun _ => True) (commChk space va i) := by
  unfold commChk
  refine .bind (.chk _ _ _ (by decide)) fun _ _ => .bind (.words _ _ _) fun h _ => ?_
  refine .bind (.chk _ _ _ (by decide)) fun _ _ => .bind (.words _ _ _) fun rows _ => .bind (.words _ _ _) fun inv _ => ?_
  exact .bind (.chk _ _ _ (by decide)) fun _ _ => .pure trivial

theorem reads_ruleChk (space kinds commVa i : Nat) (r : List Word) (comm : Option (List Word × List Word)) :
    Reads (fun _ => True) (ruleChk space kinds commVa i r comm) := by
  unfold ruleChk
  simp only [chk_for]
  refine .bind (.chk _ _ _ (by decide)) fun _ _ => .bind (.forM fun slot _ => reads_slotChk _ _ _ _ slot) fun _ _ => ?_
  refine .bind (.forM fun n _ => (Reads.chk _ _ _ (by decide)).mono fun _ _ => trivial) fun _ _ => ?_
  refine .bind (.chk _ _ _ (by decide)) fun _ _ => .bind (.chk _ _ _ (by decide)) fun _ _ => .bind (.chk _ _ _ (by decide)) fun _ _ => ?_
  split
  · exact .bind (reads_commChk _ _ _) fun _ _ => .pure trivial
  · exact .pure trivial

/-- Rules that pass: an inherited table is taken over as it is. -/
theorem reads_rulesChk (space kinds commVa rulesVa : Nat) (copy : Option (List (List Word))) (i : Nat) (comm : Option (List Word × List Word))
    (n : Nat) : Reads (fun x => ∀ rs, copy = some rs → i + n = rs.length → x.1 = rs.drop i) (rulesChk space kinds commVa rulesVa copy i comm n) := by
  induction n generalizing i comm with
  | zero =>
    refine .pure fun rs _ hlen => ?_
    exact (List.drop_of_length_le (by omega)).symm
  | succ n ih =>
    have hrest (r : List Word) (hr : ∀ rs, copy = some rs → r = rs.getD i []) :
        Reads (fun x : List (List Word) × Option (List Word × List Word) => ∀ rs, copy = some rs → i + (n + 1) = rs.length → x.1 = rs.drop i)
          (do
            let comm ← ruleChk space kinds commVa i r comm
            let (rs, c) ← rulesChk space kinds commVa rulesVa copy (i + 1) comm n
            return (r :: rs, c)) := by
      refine .bind (reads_ruleChk _ _ _ _ _ _) fun c _ => .bind (ih (i + 1) c) fun x hx => .pure fun rs hcopy hlen => ?_
      have hi : i < rs.length := by omega
      rw [hx rs hcopy (by omega), hr rs hcopy, List.getD_eq_getElem _ _ hi, ← List.drop_eq_getElem_cons hi]
    unfold rulesChk
    cases copy with
    | some rs => exact hrest (rs.getD i []) fun rs' h => Option.some.inj h ▸ rfl
    | none => exact .bind (.words _ _ _) fun r _ => hrest r fun _ h => by cases h

/-! ### The checks of an activation -/

/-- What the effective fields of an RCB that passes are: those of `effOf`, with the tables read or taken over. -/
def Accepted (p : Option Region) (w : List Word) (e : Eff) : Prop :=
  (∃ rules rows inv kb, e = { effOf p w with rules := rules, commRows := rows, commInv := inv, kbank := kb }) ∧
    (∀ q, p = some q → inherits p w 0 = true → e.rules = q.eff.rules) ∧ ∀ q, p = some q → inherits p w 3 = true → e.kbank = q.eff.kbank

/-- The rule table that a child takes over from its parent. -/
def ruleCopy (p : Option Region) (w : List Word) : Option (List (List Word)) := if inherits p w 0 then p.map (·.eff.rules) else none

/-- How many rules an activation checks. -/
def ruleCount (p : Option Region) (w : List Word) : Nat := match ruleCopy p w with | some rs => rs.length | none => fieldNat (w.getD 1 0) 48 9

/-- The checks of an activation from the kind table on (checks 7 to 15). -/
def tablesChk (space : Nat) (p : Option Region) (w : List Word) : Chk Eff := do
  let e := effOf p w
  let h ← chkWords space e.kinds 2
  chk (kindCount h).isSome 7 0 0
  let comm := if e.commRows.isEmpty then none else some (e.commRows, e.commInv)
  let (rules, comm) ← rulesChk space e.kinds e.comm (fieldNat (w.getD 2 0) 0 53) (ruleCopy p w) 0 comm (ruleCount p w)
  let kb ← match p with
    | some g => if inherits p w 3 then pure g.eff.kbank else chkWords space (fieldNat (w.getD 5 0) 0 53) 32
    | none => chkWords space (fieldNat (w.getD 5 0) 0 53) 32
  let c := comm.getD ([], [])
  return { e with rules := rules, commRows := c.1, commInv := c.2, kbank := kb }

/-- Checks 5 and 6, in the state in which they are made. -/
def placeChk (s : State) (func proc rcb : Nat) (w : List Word) (p : Option Region) : Bool × Bool :=
  let done := s.lostStatus.any fun x => x.1 == func * 256 + proc && x.2.1 == rcb
  ((fieldNat (w.getD 16 0) 0 4 == 0 || fieldNat (w.getD 16 0) 0 4 == 3 || done) && (s.regionAt func proc rcb).isNone,
    decide (s.depth (p.map (·.id)) 65 < 64) && decide (s.regions.length < 4096) && (fieldNat (w.getD 0 0) 0 53 == 0 || p.isSome))

/-- The checks in their order. -/
theorem activationChk_run (func proc rcb : Nat) (w : List Word) (p : Option Region) (s : State) :
    (activationChk func proc rcb w p).run.run s =
      if rcbOk p rcb w (effOf p w) then
        if !(effOf p w).rollback || (effOf p w).stepped then
          if !(effOf p w).paired || decide (2 ≤ s.bays) then
            if decide (1 ≤ ruleCount p w ∧ ruleCount p w ≤ 256) then
              if (placeChk s func proc rcb w p).1 then
                if (placeChk s func proc rcb w p).2 then (tablesChk (func * 256 + proc) p w).run.run s
                else (.error (6, 0, 0), s)
              else (.error (5, 0, 0), s)
            else (.error (4, 0, 0), s)
          else (.error (3, 0, 0), s)
        else (.error (2, 0, 0), s)
      else (.error (1, 0, 0), s) := by
  unfold activationChk
  rw [chk_bind_run, chk_get_run]
  dsimp only
  simp only [chk_then_run]
  rfl

theorem reads_tablesChk (space : Nat) (p : Option Region) (w : List Word) : Reads (Accepted p w) (tablesChk space p w) := by
  unfold tablesChk
  refine .bind (.words _ _ _) fun h _ => .bind (.chk _ _ _ (by decide)) fun _ _ => .bind (reads_rulesChk _ _ _ _ _ _ _ _) fun x hx => ?_
  have hrules (q : Region) (hq : p = some q) (h0 : inherits p w 0 = true) : x.1 = q.eff.rules := by
    subst hq
    have hcopy : ruleCopy (some q) w = some q.eff.rules := by rw [ruleCopy, if_pos h0]; rfl
    exact hx q.eff.rules hcopy (by rw [ruleCount, hcopy, Nat.zero_add])
  cases p with
  | none =>
    exact .bind (.words _ _ _) fun kb _ => .pure ⟨⟨_, _, _, _, rfl⟩, hrules, fun q hq => by cases hq⟩
  | some g =>
    dsimp only
    split
    · exact .bind (.pure (Q := fun kb => kb = g.eff.kbank) rfl) fun kb hkb => .pure ⟨⟨_, _, _, _, rfl⟩, hrules, fun q hq _ =>
        Option.some.inj hq ▸ hkb⟩
    · next h3 => exact .bind (.words _ _ _) fun kb _ => .pure ⟨⟨_, _, _, _, rfl⟩, hrules, fun q _ h => absurd h h3⟩

theorem reads_activationChk (func proc rcb : Nat) (w : List Word) (p : Option Region) :
    Reads (Accepted p w) (activationChk func proc rcb w p) := by
  intro s
  rw [activationChk_run]
  have hfail (n : Nat) (hn : n ≠ 0) (x : Except (Nat × Nat × Nat) Eff × State) (hx : x = (.error (n, 0, 0), s)) :
      ReadOnly s x.2 ∧ (∀ e, x.1 = .error e → e.1 ≠ 0) ∧ ∀ a, x.1 = .ok a → Accepted p w a := by
    subst hx
    refine ⟨.refl s, fun _ he => ?_, fun _ ha => ?_⟩
    · cases he
      exact hn
    · cases ha
  repeat' split
  · exact reads_tablesChk _ p w s
  · exact hfail 6 (by decide) _ rfl
  · exact hfail 5 (by decide) _ rfl
  · exact hfail 4 (by decide) _ rfl
  · exact hfail 3 (by decide) _ rfl
  · exact hfail 2 (by decide) _ rfl
  · exact hfail 1 (by decide) _ rfl

end Sys2Proof.Machine

/-! The activation of a region (R64, R66, R74): its refusals in order, and the region that a good RCB gives. -/

namespace Sys2Proof.Machine
open Host

section Activate

variable {s t : State} {func proc rcb : Nat} {w : List Word} {hold : Bool}

/-! ### Refused or accepted -/

theorem activate_error {e : Nat × Nat × Nat} (h : (activationChk func proc rcb w (Spec.parent s func proc w)).run.run s = (.error e, t)) :
    (s.activate func proc rcb w hold).2 = e.1 ∧ SameWork t (s.activate func proc rcb w hold).1 := by
  obtain ⟨reason, rule, slot⟩ := e
  unfold State.activate
  dsimp only
  erw [h]
  dsimp only
  split
  · exact ⟨rfl, .refl t⟩
  · exact ⟨rfl, sameWork_refuseRegion _ _ _ _ _ _ _ _ _⟩

/-- The region that an activation of good effective fields gives. -/
def Region.born (id func proc rcb : Nat) (w : List Word) (p : Option Region) (e : Eff) (hold esc : Bool) : Region :=
  { Region.fresh id func proc rcb w p e (hold || esc) with escalated := esc }

theorem activate_ok {e : Eff} (h : (activationChk func proc rcb w (Spec.parent s func proc w)).run.run s = (.ok e, t)) :
    ∃ (u : State) (esc : Bool), SamePool t u ∧ s.activate func proc rcb w hold =
      ({ u with regions := u.regions ++ [Region.born t.nextRegion func proc rcb w (Spec.parent s func proc w) e hold esc],
                nextRegion := t.nextRegion + 1 }, 0) := by
  unfold State.activate
  dsimp only
  erw [h]
  exact ⟨_, _, ((samePool_dropLost t func proc rcb).trans (samePool_putCounters _ _ _ _ _ _ _)).trans (samePool_devStore8 _ _ _ _ _ _), rfl⟩

/-- An activation reads, then refuses or gives a region. -/
theorem activate_cases (s : State) (func proc rcb : Nat) (w : List Word) (hold : Bool) :
    (∃ (t : State) (e : Nat × Nat × Nat), ReadOnly s t ∧ e.1 ≠ 0 ∧ (s.activate func proc rcb w hold).2 = e.1 ∧
      SameWork t (s.activate func proc rcb w hold).1) ∨
    ∃ (t u : State) (e : Eff) (esc : Bool), ReadOnly s t ∧ Accepted (Spec.parent s func proc w) w e ∧ SamePool t u ∧
      s.activate func proc rcb w hold =
        ({ u with regions := u.regions ++ [Region.born t.nextRegion func proc rcb w (Spec.parent s func proc w) e hold esc],
                  nextRegion := t.nextRegion + 1 }, 0) := by
  obtain ⟨hread, herror, hok⟩ := reads_activationChk func proc rcb w (Spec.parent s func proc w) s
  rcases heq : (activationChk func proc rcb w (Spec.parent s func proc w)).run.run s with ⟨e | e, t⟩
  · rw [heq] at hread herror
    exact .inl ⟨t, e, hread, herror e rfl, activate_error heq⟩
  · rw [heq] at hread hok
    obtain ⟨u, esc, hpool, hactivate⟩ := activate_ok (hold := hold) heq
    exact .inr ⟨t, u, e, esc, hread, hok e rfl, hpool, hactivate⟩

/-- Neither which core is current nor what its streams are bound to changes. -/
theorem activate_core (s : State) (func proc rcb : Nat) (w : List Word) (hold : Bool) : (s.activate func proc rcb w hold).1.cur = s.cur ∧
    ∀ k, ((s.activate func proc rcb w hold).1.core k).gens = (s.core k).gens := by
  rcases activate_cases s func proc rcb w hold with ⟨t, e, hread, -, -, hwork⟩ | ⟨t, u, e, esc, hread, -, hpool, hactivate⟩
  · have h := hread.samePool.toSameWork.trans hwork
    exact ⟨h.cur, h.gens⟩
  · have h := hread.samePool.trans hpool
    rw [hactivate]
    exact ⟨h.cur, h.gens⟩

/-- A refusal leaves the regions as they are. -/
theorem activate_refused (h : (s.activate func proc rcb w hold).2 ≠ 0) :
    (s.activate func proc rcb w hold).1.regions.map (·.id) = s.regions.map (·.id) ∧ (s.activate func proc rcb w hold).1.nextRegion = s.nextRegion := by
  rcases activate_cases s func proc rcb w hold with ⟨t, e, hread, -, -, hwork⟩ | ⟨t, u, e, esc, -, -, -, hactivate⟩
  · have hall := hread.samePool.toSameWork.trans hwork
    exact ⟨hall.ids, hall.nextRegion⟩
  · exact absurd (congrArg Prod.snd hactivate) h

/-- A region put behind others of other numbers is found. -/
theorem region?_append {u : State} {g : Region} {n : Nat} (hfresh : ∀ x ∈ u.regions, x.id ≠ g.id) :
    State.region? { u with regions := u.regions ++ [g], nextRegion := n } g.id = some g := by
  rw [State.region?, List.find?_append, List.find?_eq_none.2 fun x hx => by simpa using hfresh x hx]
  simp

theorem fresh_of_sameWork {s t : State} (h : SameWork s t) {n : Nat} (hfresh : ∀ x ∈ s.regions, x.id ≠ n) : ∀ x ∈ t.regions, x.id ≠ n := by
  have hids (u : State) : (∀ x ∈ u.regions, x.id ≠ n) ↔ n ∉ u.regions.map (·.id) := by simp [eq_comm]
  rw [hids, h.ids, ← hids]
  exact hfresh

theorem activate_accepted (h : (s.activate func proc rcb w hold).2 = 0) (hfresh : ∀ x ∈ s.regions, x.id ≠ s.nextRegion) :
    (s.activate func proc rcb w hold).1.nextRegion = s.nextRegion + 1 ∧ ∃ (e : Eff) (esc : Bool), Accepted (Spec.parent s func proc w) w e ∧
      (s.activate func proc rcb w hold).1.region? s.nextRegion =
        some (Region.born s.nextRegion func proc rcb w (Spec.parent s func proc w) e hold esc) := by
  rcases activate_cases s func proc rcb w hold with ⟨t, e, -, herror, hreason, -⟩ | ⟨t, u, e, esc, hread, haccepted, hpool, hactivate⟩
  · exact absurd (hreason.symm.trans h) herror
  · have hnext : t.nextRegion = s.nextRegion := hread.samePool.nextRegion
    rw [hactivate, hnext]
    refine ⟨rfl, e, esc, haccepted, ?_⟩
    exact region?_append (g := Region.born s.nextRegion func proc rcb w (Spec.parent s func proc w) e hold esc)
      (fresh_of_sameWork (hread.samePool.trans hpool).toSameWork hfresh)

/-! ### The fields of an activated region (R66) -/

theorem pick_eq {α : Type} (p : Option Region) (w : List Word) (b : Nat) (own : α) (get : Eff → α) :
    (if inherits p w b then (match p with | some g => get g.eff | none => own) else own) = Spec.pick p w b own get := by
  cases p with
  | none => rfl
  | some g =>
    simp only [inherits, Spec.pick, Bool.and_eq_true, beq_iff_eq, Bool.not_eq_true']

theorem pick_map {α β : Type} (F : α → β) (p : Option Region) (w : List Word) (b : Nat) (own : α) (get : Eff → α) :
    F (Spec.pick p w b own get) = Spec.pick p w b (F own) fun e => F (get e) := by
  cases p with
  | none => rfl
  | some g => exact apply_ite F _ _ _

theorem inherits_of {q : Region} {w : List Word} {b : Nat} (hpass : q.pass / 2 ^ b % 2 = 1) (hover : (w.getD 7 0).getLsbD (16 + b) = false) :
    inherits (some q) w b = true := by
  simp only [inherits, hpass, hover]
  rfl

theorem toNat_and_mask {x m : Word} (n : Nat) (hm : m.toNat = 2 ^ n - 1) : (x &&& m).toNat = x.toNat % 2 ^ n := by
  rw [BitVec.toNat_and, hm, Nat.and_two_pow_sub_one_eq_mod]

theorem activated_born {p : Option Region} {e : Eff} (h : Accepted p w e) (id : Nat) (esc : Bool) :
    Spec.Activated p rcb w hold (Region.born id func proc rcb w p e hold esc) := by
  obtain ⟨⟨rules, rows, inv, kb, rfl⟩, hrules, hkbank⟩ := h
  refine ⟨⟨rfl, rfl, rfl, rfl, rfl, fun hh => ?_⟩, ⟨fieldNat_zero _ _, rfl⟩, fun q hq hpass hover => ?_,
    fun q hq hpass hover => ?_, ⟨?_, ?_, ?_⟩, ⟨?_, ?_, ?_⟩, ⟨?_, ?_, ?_⟩, ⟨?_, ?_, ?_, ?_, ?_⟩, ?_⟩
  · subst hh
    rfl
  · subst hq
    exact hrules q rfl (inherits_of (by simpa using hpass) hover)
  · subst hq
    exact hkbank q rfl (inherits_of hpass hover)
  · exact pick_eq p w 1 _ _
  · exact pick_eq p w 2 _ _
  · have htrap : (w.getD 6 0 &&& 0x1FFFFFFFFFFFFF).toNat = fieldNat (w.getD 6 0) 0 53 := by rw [toNat_and_mask 53 rfl, fieldNat_zero]
    rw [← htrap, ← pick_map BitVec.toNat]
    exact congrArg BitVec.toNat (pick_eq p w 4 _ _)
  · exact pick_eq p w 5 _ _
  · exact pick_eq p w 5 _ _
  · exact pick_eq p w 5 _ _
  · exact pick_eq p w 6 _ _
  · exact pick_eq p w 7 _ _
  · exact pick_eq p w 8 _ _
  · exact pick_eq p w 9 _ _
  · exact pick_eq p w 10 _ _
  · exact pick_eq p w 11 _ _
  · exact pick_eq p w 12 _ _
  · exact pick_eq p w 13 _ _
  · have hfrmi : (w.getD 14 0 &&& 15).toNat % 16 = fieldNat (w.getD 14 0) 0 4 := by
      rw [toNat_and_mask 4 rfl, fieldNat_zero]
      exact Nat.mod_mod _ _
    rw [← hfrmi, ← pick_map fun x : Word => x.toNat % 16]
    exact congrArg (fun x : Word => x.toNat % 16) (pick_eq p w 14 _ _)

end Activate

end Sys2Proof.Machine

/-! The checks of an RCB without a parent (R74). -/

namespace Sys2Proof.Machine
open Host

section Root

variable {s : State} {func proc rcb : Nat} {w : List Word}

/-! ### Checks 1 to 6 -/

theorem fieldNat_top {x : Word} {lo : Nat} (hlo : lo ≤ 64) : fieldNat x lo (64 - lo) = 0 ↔ x.toNat < 2 ^ lo := by
  have hdiv : x.toNat / 2 ^ lo < 2 ^ (64 - lo) := by
    refine Nat.div_lt_of_lt_mul ?_
    rw [← Nat.pow_add, Nat.add_sub_cancel' hlo]
    exact x.isLt
  rw [fieldNat_eq, Nat.mod_eq_of_lt hdiv, Nat.div_eq_zero_iff_lt (Nat.two_pow_pos lo)]

theorem rcbReservedOk_iff (w : List Word) : rcbReservedOk w = true ↔ (∀ i ∈ [0, 2, 3, 4, 5, 6], (w.getD i 0).toNat < 2 ^ 53) ∧
    w.getD 1 0 &&& 0xFE00FFF00000F8F0 = 0 ∧ w.getD 7 0 &&& 0xFFFFFFFF80008000 = 0 ∧ (w.getD 14 0).toNat < 16 ∧ w.getD 15 0 = 0 := by
  have h53 (x : Word) : fieldNat x 53 11 = 0 ↔ x.toNat < 2 ^ 53 := fieldNat_top (lo := 53) (by decide)
  have h4 (x : Word) : fieldNat x 4 60 = 0 ↔ x.toNat < 16 := fieldNat_top (lo := 4) (by decide)
  simp only [rcbReservedOk, Bool.and_eq_true, List.all_eq_true, beq_iff_eq, h53, h4, and_assoc]

theorem rcbOk_root : rcbOk none rcb w (effOf none w) = true ↔ ¬ Spec.BadRcb rcb w := by
  have hfrmi : (effOf none w).frmi.toNat % 8 = fieldNat (w.getD 14 0) 0 3 := by
    rw [show (effOf none w).frmi = w.getD 14 0 &&& 15 from rfl, toNat_and_mask 4 rfl, fieldNat_zero]
    omega
  have hkinds : (effOf none w).kinds = fieldNat (w.getD 3 0) 0 53 := rfl
  have hcomm : (effOf none w).comm = fieldNat (w.getD 4 0) 0 53 := rfl
  simp only [rcbOk, Bool.and_eq_true, beq_iff_eq, rcbReservedOk_iff, hfrmi, hkinds, hcomm, inherits, Bool.false_or, decide_eq_true_eq, Spec.BadRcb,
    not_or, not_exists, not_and, not_le, not_lt, ne_eq, not_not, and_assoc]

theorem failsCheck_one : Spec.FailsCheck s func proc rcb w 1 ↔ rcbOk none rcb w (effOf none w) = false := by
  rw [← Bool.not_eq_true, rcbOk_root, not_not]
  rfl

theorem failsCheck_two : Spec.FailsCheck s func proc rcb w 2 ↔ (!(effOf none w).rollback || (effOf none w).stepped) = false := by
  show ((w.getD 1 0).getLsbD 2 = true ∧ fieldNat (w.getD 1 0) 0 2 ≠ 1) ↔
    (!(w.getD 1 0).getLsbD 2 || (fieldNat (w.getD 1 0) 0 2 == 1)) = false
  simp only [Bool.or_eq_false_iff, Bool.not_eq_false', beq_eq_false_iff_ne]

theorem failsCheck_three : Spec.FailsCheck s func proc rcb w 3 ↔ (!(effOf none w).paired || decide (2 ≤ s.bays)) = false := by
  show ((w.getD 1 0).getLsbD 3 = true ∧ s.bays < 2) ↔ (!(w.getD 1 0).getLsbD 3 || decide (2 ≤ s.bays)) = false
  simp only [Bool.or_eq_false_iff, Bool.not_eq_false', decide_eq_false_iff_not, not_le]

theorem ruleCount_root : ruleCount none w = fieldNat (w.getD 1 0) 48 9 := rfl

theorem failsCheck_four : Spec.FailsCheck s func proc rcb w 4 ↔ decide (1 ≤ ruleCount none w ∧ ruleCount none w ≤ 256) = false := by
  rw [decide_eq_false_iff_not]
  rfl

theorem regionAt_isNone : (s.regionAt func proc rcb).isNone = true ↔ ¬ ∃ g ∈ s.regions, g.func = func ∧ g.proc = proc ∧ g.rcb = rcb := by
  simp [State.regionAt, and_assoc]

theorem failsCheck_five : Spec.FailsCheck s func proc rcb w 5 ↔ (placeChk s func proc rcb w none).1 = false := by
  show (¬ (_ ∨ _ ∨ _) ∨ _) ↔ _
  rw [← Bool.not_eq_true]
  simp only [placeChk, Bool.and_eq_true, regionAt_isNone, Bool.or_eq_true, beq_iff_eq, List.any_eq_true, or_assoc]
  rw [not_and_or, not_not]

theorem failsCheck_six (h0 : fieldNat (w.getD 0 0) 0 53 = 0) :
    Spec.FailsCheck s func proc rcb w 6 ↔ (placeChk s func proc rcb w none).2 = false := by
  show 4096 ≤ s.regions.length ↔ _
  have hdepth : s.depth none 65 = 0 := rfl
  simp only [placeChk, h0, Option.map_none, hdepth, beq_self_eq_true, Bool.true_or, Bool.and_true]
  simp

/-- The checks of an RCB without a parent, each as the spec states it. -/
theorem activationChk_root (h0 : fieldNat (w.getD 0 0) 0 53 = 0) {i : Nat} (hlo : 1 ≤ i) (hhi : i ≤ 6) (hfails : Spec.FailsCheck s func proc rcb w i)
    (hbefore : ∀ j, 1 ≤ j → j < i → ¬ Spec.FailsCheck s func proc rcb w j) :
    (activationChk func proc rcb w none).run.run s = (.error (i, 0, 0), s) := by
  have hpass (j : Nat) (hj : 1 ≤ j) (hlt : j < i) {b : Bool} (hb : Spec.FailsCheck s func proc rcb w j ↔ b = false) : b = true := by
    rw [← Bool.not_eq_false, ← hb]
    exact hbefore j hj hlt
  rw [activationChk_run]
  have h1 (h : 1 < i) := hpass 1 (by decide) h failsCheck_one
  have h2 (h : 2 < i) := hpass 2 (by decide) h failsCheck_two
  have h3 (h : 3 < i) := hpass 3 (by decide) h failsCheck_three
  have h4 (h : 4 < i) := hpass 4 (by decide) h failsCheck_four
  have h5 (h : 5 < i) := hpass 5 (by decide) h failsCheck_five
  interval_cases i
  · rw [failsCheck_one.1 hfails]
    rfl
  · rw [h1 (by decide), failsCheck_two.1 hfails]
    rfl
  · rw [h1 (by decide), h2 (by decide), failsCheck_three.1 hfails]
    rfl
  · rw [h1 (by decide), h2 (by decide), h3 (by decide), failsCheck_four.1 hfails]
    rfl
  · rw [h1 (by decide), h2 (by decide), h3 (by decide), h4 (by decide), failsCheck_five.1 hfails]
    rfl
  · rw [h1 (by decide), h2 (by decide), h3 (by decide), h4 (by decide), h5 (by decide), (failsCheck_six h0).1 hfails]
    rfl

/-- What checks 1 to 6 leave is the tables. -/
theorem activationChk_good (h0 : fieldNat (w.getD 0 0) 0 53 = 0) (hgood : ∀ i, 1 ≤ i → i ≤ 6 → ¬ Spec.FailsCheck s func proc rcb w i) :
    (activationChk func proc rcb w none).run.run s = (tablesChk (func * 256 + proc) none w).run.run s := by
  have hpass (j : Nat) (hj : 1 ≤ j) (hlt : j ≤ 6) {b : Bool} (hb : Spec.FailsCheck s func proc rcb w j ↔ b = false) : b = true := by
    rw [← Bool.not_eq_false, ← hb]
    exact hgood j hj hlt
  rw [activationChk_run, hpass 1 (by decide) (by decide) failsCheck_one, hpass 2 (by decide) (by decide) failsCheck_two,
    hpass 3 (by decide) (by decide) failsCheck_three, hpass 4 (by decide) (by decide) failsCheck_four,
    hpass 5 (by decide) (by decide) failsCheck_five, hpass 6 (by decide) (by decide) (failsCheck_six h0)]
  rfl

theorem parent_root (h0 : fieldNat (w.getD 0 0) 0 53 = 0) : Spec.parent s func proc w = none := if_pos h0

/-! ### The kind table -/

theorem kindCount_isSome {x y : Word} : (kindCount [x, y]).isSome = true ↔ 2 ≤ x.toNat ∧ x.toNat ≤ 65536 ∧ y = 0 := by
  have hhigh (hx : x.toNat ≤ 65536) : fieldNat x 32 32 = 0 := by
    rw [fieldNat_eq, Nat.div_eq_of_lt (by omega)]
    rfl
  rw [kindCount]
  show (if fieldNat x 32 32 = 0 ∧ y = 0 ∧ 2 ≤ x.toNat ∧ x.toNat ≤ 65536 then some x.toNat else none).isSome = true ↔ _
  split
  · next h => simp [h.2.1, h.2.2]
  · next h =>
    simp only [Option.isSome_none, Bool.false_eq_true, false_iff]
    exact fun hx => h ⟨hhigh hx.2.1, hx.2.2, hx.1, hx.2.1⟩

theorem tablesChk_unread {space : Nat} {p : Option Region} {t : State} {e : MemErr × Nat}
    (h : s.devWords space (effOf p w).kinds 2 = (t, .error e)) : (tablesChk space p w).run.run s = (.error (15, 0, 0), t) := by
  rw [tablesChk, chk_bind_run, chkWords_run, h]

theorem tablesChk_kinds {space : Nat} {p : Option Region} {t : State} {x y : Word}
    (h : s.devWords space (effOf p w).kinds 2 = (t, .ok [x, y])) (hbad : ¬ (2 ≤ x.toNat ∧ x.toNat ≤ 65536 ∧ y = 0)) :
    (tablesChk space p w).run.run s = (.error (7, 0, 0), t) := by
  rw [tablesChk, chk_bind_run, chkWords_run, h]
  dsimp only
  rw [chk_then_run, if_neg (by rw [kindCount_isSome]; exact hbad)]

end Root

end Sys2Proof.Machine

/-! The activation of an RCB with one PLAIN rule (R74, R76). -/

namespace Sys2Proof.Machine
open Host

section Plain

variable {r0 r1 r4 r6 : Word} {e : Word × Word}

/-- The record of a rule of one slot without guards. -/
def plainRecord (r0 r1 r4 r6 : Word) : List Word := [r0, r1, 0, 0, r4, 0, r6, 0]

/-! ### Its fields -/

theorem plainRule_low (h : Spec.PlainRule r0 r1 r4 e) : r0.toNat < 2 ^ 18 ∧ r0.toNat % 2 ^ 5 = 1 := by
  obtain ⟨harity, -, -, -, hhigh⟩ := h.arity
  exact ⟨(fieldNat_top (lo := 18) (by decide)).1 hhigh, (fieldNat_zero _ _).symm.trans harity⟩

theorem arity_plainRecord (h : Spec.PlainRule r0 r1 r4 e) : ruleArity (plainRecord r0 r1 r4 r6) = 1 := by
  obtain ⟨-, hlow⟩ := plainRule_low h
  rw [ruleArity, show ruleWord (plainRecord r0 r1 r4 r6) 0 = r0 from rfl, fieldNat_zero]
  omega

theorem class_plainRecord (h : Spec.PlainRule r0 r1 r4 e) : ruleClass (plainRecord r0 r1 r4 r6) = 0 := by
  obtain ⟨-, hlow⟩ := plainRule_low h
  rw [ruleClass, show ruleWord (plainRecord r0 r1 r4 r6) 0 = r0 from rfl, fieldNat_eq]
  omega

theorem sel_plainRecord (h : Spec.PlainRule r0 r1 r4 e) {slot : Nat} (hs : 1 ≤ slot) : ruleSel (plainRecord r0 r1 r4 r6) slot = 0 := by
  obtain ⟨hlow, -⟩ := plainRule_low h
  have hpow : 2 ^ 18 ≤ 2 ^ (16 + 2 * slot) := Nat.pow_le_pow_right (by decide) (by omega)
  rw [ruleSel, show ruleWord (plainRecord r0 r1 r4 r6) 0 = r0 from rfl, fieldNat_eq, Nat.div_eq_of_lt (hlow.trans_le hpow)]
  rfl

theorem kind_plainRecord (h : Spec.PlainRule r0 r1 r4 e) : ruleKind (plainRecord r0 r1 r4 r6) 0 = r1.toNat := by
  rw [ruleKind, show ruleWord (plainRecord r0 r1 r4 r6) 1 = r1 from rfl, Nat.mul_zero, fieldNat_zero, Nat.mod_eq_of_lt h.kind]

theorem kind_plainRecord_other (h : Spec.PlainRule r0 r1 r4 e) {slot : Nat} (hs : 1 ≤ slot) : ruleKind (plainRecord r0 r1 r4 r6) slot = 0 := by
  have hpow : 2 ^ 16 ≤ 2 ^ (16 * slot) := Nat.pow_le_pow_right (by decide) (by omega)
  rw [ruleKind, show ruleWord (plainRecord r0 r1 r4 r6) 1 = r1 from rfl, fieldNat_eq, Nat.div_eq_of_lt (h.kind.trans_le hpow)]
  rfl

theorem guard_plainRecord {n : Nat} (hn : n < 4) : ruleGuard (plainRecord r0 r1 r4 r6) n = 0 := by
  have hword : ruleWord (plainRecord r0 r1 r4 r6) (2 + n / 2) = 0 := by interval_cases n <;> rfl
  rw [ruleGuard, hword, fieldNat_eq, show (0 : Word).toNat = 0 from rfl, Nat.zero_div, Nat.zero_mod]
  rfl

/-! ### The checks of R74 on it -/

theorem fieldsOk_plainRecord (h : Spec.PlainRule r0 r1 r4 e) : ruleFieldsOk (plainRecord r0 r1 r4 r6) = true := by
  obtain ⟨hlow, -⟩ := plainRule_low h
  obtain ⟨-, -, haff, hbit, -⟩ := h.arity
  have hr0 : ruleWord (plainRecord r0 r1 r4 r6) 0 = r0 := rfl
  have hhigh : fieldNat r0 24 40 = 0 := (fieldNat_top (lo := 24) (by decide)).2 (by omega)
  have hentry : fieldNat r4 53 11 = 0 := (fieldNat_top (lo := 53) (by decide)).2 h.entry.1
  have hsel0 : ruleSel (plainRecord r0 r1 r4 r6) 0 ≠ 3 := h.sel.2
  have hsels : ([0, 1, 2, 3].all fun s =>
      if s < 1 then ruleSel (plainRecord r0 r1 r4 r6) s != 3 else ruleSel (plainRecord r0 r1 r4 r6) s == 0) = true := by
    simp only [List.all_cons, List.all_nil, sel_plainRecord h (slot := 1) (by decide), sel_plainRecord h (slot := 2) (by decide),
      sel_plainRecord h (slot := 3) (by decide)]
    simpa using hsel0
  have haff' : ruleAff (plainRecord r0 r1 r4 r6) ≠ 3 := haff
  rw [ruleFieldsOk, arity_plainRecord h, hsels, hr0, hhigh, hbit, show ruleWord (plainRecord r0 r1 r4 r6) 4 = r4 from rfl, hentry,
    show ruleWord (plainRecord r0 r1 r4 r6) 5 = 0 from rfl, show ruleWord (plainRecord r0 r1 r4 r6) 7 = 0 from rfl]
  simpa using haff'

theorem placementOk_plainRecord (h : Spec.PlainRule r0 r1 r4 e) : placementOk (plainRecord r0 r1 r4 r6) = true := by
  simp only [placementOk, arity_plainRecord h, spanOf, List.all_cons, List.all_nil, id, beq_self_eq_true, Bool.and_self]

theorem entriesOk_plainRecord (h : Spec.PlainRule r0 r1 r4 e) : entriesOk (plainRecord r0 r1 r4 r6) = true := by
  obtain ⟨hlt, heven, hne⟩ := h.entry
  have hentry : ruleEntry (plainRecord r0 r1 r4 r6) = r4.toNat := by
    rw [ruleEntry, show ruleWord (plainRecord r0 r1 r4 r6) 4 = r4 from rfl, fieldNat_zero, Nat.mod_eq_of_lt hlt]
  have hzero : r4.toNat ≠ 0 := fun h0 => hne (BitVec.eq_of_toNat_eq h0)
  rw [entriesOk, hentry, class_plainRecord h, show ruleEntry2 (plainRecord r0 r1 r4 r6) = 0 from rfl]
  simp [hzero, heven]

theorem chk_forM_ok {α : Type} {l : List α} {m : α → Chk Unit} {t : State} (h : ∀ x ∈ l, (m x).run.run t = (.ok (), t)) :
    (l.forM m).run.run t = (.ok (), t) := by
  induction l with
  | nil => rfl
  | cons x l ih =>
    show (m x >>= fun _ => l.forM m).run.run t = _
    rw [chk_bind_run, h x List.mem_cons_self]
    exact ih fun y hy => h y (List.mem_cons_of_mem x hy)

variable {s t : State} {space kinds commVa : Nat}

theorem ruleChk_plain (h : Spec.PlainRule r0 r1 r4 e) (hentry : s.kindEntry space kinds r1.toNat = (t, .ok (some e))) (i : Nat) :
    (ruleChk space kinds commVa i (plainRecord r0 r1 r4 r6) none).run.run s = (.ok none, t) := by
  have hslot0 : (slotChk space kinds i (plainRecord r0 r1 r4 r6) 0).run.run s = (.ok (), t) := by
    have hplace : (entPlace e == ruleSel (plainRecord r0 r1 r4 r6) 0) = true := beq_iff_eq.2 h.sel.1.symm
    rw [slotChk_run, arity_plainRecord h, if_neg (by decide), kind_plainRecord h, hentry]
    dsimp only
    rw [chk_run, hplace]
    rfl
  have hslots : ([0, 1, 2, 3].forM fun slot => slotChk space kinds i (plainRecord r0 r1 r4 r6) slot).run.run s = (.ok (), t) := by
    show (slotChk space kinds i (plainRecord r0 r1 r4 r6) 0 >>= fun _ =>
      [1, 2, 3].forM fun slot => slotChk space kinds i (plainRecord r0 r1 r4 r6) slot).run.run s = _
    rw [chk_bind_run, hslot0]
    refine chk_forM_ok fun slot hslot => ?_
    have hpos : 1 ≤ slot := by
      simp only [List.mem_cons, List.not_mem_nil, or_false] at hslot
      omega
    rw [slotChk_run, arity_plainRecord h, if_pos hpos, kind_plainRecord_other h hpos, chk_run]
    rfl
  have hguards : ([0, 1, 2, 3].forM fun n =>
      chk (guardOk (ruleArity (plainRecord r0 r1 r4 r6)) (ruleGuard (plainRecord r0 r1 r4 r6) n)) 11 i n).run.run t = (.ok (), t) := by
    refine chk_forM_ok fun n hn => ?_
    have hlt : n < 4 := by
      simp only [List.mem_cons, List.not_mem_nil, or_false] at hn
      omega
    rw [guard_plainRecord hlt, chk_run]
    rfl
  obtain ⟨-, hgwid, -⟩ := h.arity
  have hwidth : (if ruleClass (plainRecord r0 r1 r4 r6) = 3 then
      decide (1 ≤ ruleGwid (plainRecord r0 r1 r4 r6) ∧ ruleGwid (plainRecord r0 r1 r4 r6) ≤ 8)
      else ruleGwid (plainRecord r0 r1 r4 r6) == 0) = true := by
    rw [class_plainRecord h, if_neg (by decide)]
    exact beq_iff_eq.2 hgwid
  unfold ruleChk
  simp only [chk_for]
  rw [chk_then_run, fieldsOk_plainRecord h, if_pos rfl, chk_bind_run, hslots]
  dsimp only
  rw [chk_bind_run, hguards]
  dsimp only
  rw [chk_then_run, placementOk_plainRecord h, if_pos rfl, chk_then_run, hwidth, if_pos rfl, chk_then_run, entriesOk_plainRecord h,
    if_pos rfl, class_plainRecord h, if_neg (fun hclass => absurd hclass.1 (by decide))]
  rfl

/-- The tables of an RCB with one PLAIN rule. -/
theorem tablesChk_plain {w : List Word} {s1 s2 s3 s4 : State} {h0 h1 : Word} {kb : List Word} (hcount : ruleCount none w = 1)
    (hkinds : s.devWords space (fieldNat (w.getD 3 0) 0 53) 2 = (s1, .ok [h0, h1])) (hgood : 2 ≤ h0.toNat ∧ h0.toNat ≤ 65536 ∧ h1 = 0)
    (hrule : s1.devWords space (fieldNat (w.getD 2 0) 0 53) 8 = (s2, .ok (plainRecord r0 r1 r4 r6)))
    (hentry : s2.kindEntry space (fieldNat (w.getD 3 0) 0 53) r1.toNat = (s3, .ok (some e))) (h : Spec.PlainRule r0 r1 r4 e)
    (hkbank : s3.devWords space (fieldNat (w.getD 5 0) 0 53) 32 = (s4, .ok kb)) :
    (tablesChk space none w).run.run s =
      (.ok { effOf none w with rules := [plainRecord r0 r1 r4 r6], commRows := [], commInv := [], kbank := kb }, s4) := by
  have hrules (va : Nat) : (rulesChk space (fieldNat (w.getD 3 0) 0 53) va (fieldNat (w.getD 2 0) 0 53) none 0 none 1).run.run s1 =
      (.ok ([plainRecord r0 r1 r4 r6], none), s3) := by
    unfold rulesChk
    dsimp only
    rw [chk_bind_run, chkWords_run, Nat.mul_zero, Nat.add_zero, hrule]
    dsimp only
    rw [chk_bind_run, ruleChk_plain h hentry]
    rfl
  unfold tablesChk
  dsimp only
  rw [chk_bind_run, chkWords_run, show (effOf none w).kinds = fieldNat (w.getD 3 0) 0 53 from rfl, hkinds]
  dsimp only
  rw [chk_then_run, kindCount_isSome.2 hgood, if_pos rfl, hcount, chk_bind_run, show ruleCopy none w = none from rfl,
    show (effOf none w).commRows = [] from rfl, List.isEmpty_nil, if_pos rfl, hrules]
  dsimp only
  rw [chk_bind_run, chkWords_run, hkbank]
  rfl

end Plain

end Sys2Proof.Machine

/-! RSPAWN, what a BOP pushes, and the statement on regions and their children (R222, R224, R378). -/

namespace Sys2Proof.Machine
open Host

/-! ### What a BOP pushes (R224) -/

/-- The array of a core with an inverse call at entry `n` of its undo stack. -/
def pushedEntry (m : Memory) (n : Nat) (e0 : Word) (k : Nat) (obj arg : Word) : Memory :=
  let b := 0x1800 + 32 * n
  (((m.setWord b (BitVec.ofNat 64 (fieldNat e0 0 53 + k * 2 ^ 53))).setWord (b + 8) obj).setWord (b + 16) arg).setWord (b + 24) 0

section Push

variable {m : Memory} {n k : Nat} {e0 obj arg : Word}

theorem wf_pushedEntry (h : m.wf = true) : (pushedEntry m n e0 k obj arg).wf = true :=
  Memory.wf_setWord (Memory.wf_setWord (Memory.wf_setWord (Memory.wf_setWord h _ _) _ _) _ _) _ _

theorem words_pushedEntry (h : m.wf = true) :
    (pushedEntry m n e0 k obj arg).word (0x1800 + 32 * n) = BitVec.ofNat 64 (fieldNat e0 0 53 + k * 2 ^ 53) ∧
      (pushedEntry m n e0 k obj arg).word (0x1800 + 32 * n + 8) = obj ∧ (pushedEntry m n e0 k obj arg).word (0x1800 + 32 * n + 16) = arg := by
  have h1 := Memory.wf_setWord h (0x1800 + 32 * n) (BitVec.ofNat 64 (fieldNat e0 0 53 + k * 2 ^ 53))
  have h2 := Memory.wf_setWord h1 (0x1800 + 32 * n + 8) obj
  refine ⟨?_, ?_, ?_⟩
  · rw [pushedEntry, Memory.word_setWord_other _ _ (by omega), Memory.word_setWord_other _ _ (by omega),
      Memory.word_setWord_other _ _ (by omega), Memory.word_setWord_same h]
  · rw [pushedEntry, Memory.word_setWord_other _ _ (by omega), Memory.word_setWord_other _ _ (by omega), Memory.word_setWord_same h1]
  · rw [pushedEntry, Memory.word_setWord_other _ _ (by omega), Memory.word_setWord_same h2]

theorem byte_pushedEntry {a : Nat} (ha : a < 0x1800 + 32 * n) : (pushedEntry m n e0 k obj arg).byte a = m.byte a := by
  rw [pushedEntry, Memory.byte_setWord_other _ _ (by omega), Memory.byte_setWord_other _ _ (by omega),
    Memory.byte_setWord_other _ _ (by omega), Memory.byte_setWord_other _ _ (by omega)]

end Push

theorem pushUndo_eq (c : Core) (e0 : Word) (k : Nat) (obj arg : Word) : c.pushUndo e0 k obj arg =
    ({ c with arr := pushedEntry c.arr (c.ucnt + 1) e0 k obj arg } : Core).setUndo true (c.ucnt + 1) := rfl

/-- The first doubleword of an undo entry: the address of the inverse call, and the kind above it. -/
theorem undoWord_fields (e0 : Word) {k : Nat} (hk : k < 64) :
    (BitVec.ofNat 64 (fieldNat e0 0 53 + k * 2 ^ 53) : Word).toNat % 2 ^ 53 = e0.toNat % 2 ^ 53 ∧
      (BitVec.ofNat 64 (fieldNat e0 0 53 + k * 2 ^ 53) : Word).toNat / 2 ^ 53 = k := by
  rw [fieldNat_zero, BitVec.toNat_ofNat]
  omega

theorem pushUndo_spec {c : Core} (hwf : c.arr.wf = true) (hucnt : c.ucnt < 319) {k : Nat} (hk : k < 64) (e0 obj arg : Word) :
    let d := c.pushUndo e0 k obj arg
    let b := 0x1800 + 32 * (c.ucnt + 1)
    d.ucnt = c.ucnt + 1 ∧ d.opened = true ∧ (d.arr.word b).toNat % 2 ^ 53 = e0.toNat % 2 ^ 53 ∧ (d.arr.word b).toNat / 2 ^ 53 = k ∧
      d.arr.word (b + 8) = obj ∧ d.arr.word (b + 16) = arg ∧
      ∀ n, 8 ≤ n → n < 32 * (c.ucnt + 1) → d.arr.byte (0x1800 + n) = c.arr.byte (0x1800 + n) := by
  intro d b
  let c' : Core := { c with arr := pushedEntry c.arr (c.ucnt + 1) e0 k obj arg }
  have hwf' : c'.arr.wf = true := wf_pushedEntry hwf
  have hd : d = c'.setUndo true (c.ucnt + 1) := pushUndo_eq c e0 k obj arg
  obtain ⟨hfirst, hobj, harg⟩ := words_pushedEntry (n := c.ucnt + 1) (e0 := e0) (k := k) (obj := obj) (arg := arg) hwf
  have hword {a : Nat} (ha : 0x1808 ≤ a) : d.arr.word a = c'.arr.word a := by rw [hd, word_setUndo_other _ _ (.inr ha)]
  have hb : d.arr.word b = BitVec.ofNat 64 (fieldNat e0 0 53 + k * 2 ^ 53) := (hword (by omega)).trans hfirst
  obtain ⟨hlow, hkind⟩ := undoWord_fields e0 hk
  refine ⟨?_, ?_, by rw [hb, hlow], by rw [hb, hkind], (hword (by omega)).trans hobj, (hword (by omega)).trans harg, fun n h8 hn => ?_⟩
  · rw [hd]
    exact ucnt_setUndo hwf' true (by omega)
  · rw [hd]
    exact opened_setUndo hwf' true (by omega)
  · rw [hd]
    exact (Memory.byte_setWord_other _ _ (by omega)).trans (byte_pushedEntry (by omega))

/-! ### RSPAWN (R378) -/

/-- A result that is not checked against live-ins, to a register that no stream is bound to. -/
theorem putNew_plain {s : State} {r : BitVec 5} (h : s.plain r) (v : Word) :
    putNew r v s = .ok ((), s.modCore s.cur fun c => c.putReg r.toNat v 0) := by
  have h : s.me.boundTo r.toNat = none := h
  simp only [putNew, putWith, M.bind_run, M.getC_run, h, Bool.false_and, Bool.not_false, M.need_true, M.modC_run]

theorem plain_of_gens {s t : State} {r : BitVec 5} (hcur : t.cur = s.cur) (hgens : (t.core s.cur).gens = (s.core s.cur).gens) (h : s.plain r) :
    t.plain r := by
  have hsame : t.me.gens = s.me.gens := by rw [State.me, hcur]; exact hgens
  rw [State.plain] at h ⊢
  simpa only [Core.boundTo, Core.gen, hsame] using h

/-- What RSPAWN does for firing `f` once the RCB at `v` has been loaded as `w`. -/
def rspawnM (f : Firing) (v : Word) (w : List Word) (rd : BitVec 5) : M Unit := do
  let s ← get
  match s.region? f.region with
  | none => pure ()
  | some g =>
    if fieldNat (w.getD 0 0) 0 53 ≠ g.rcb then putNew rd 16
    else
      releaseM s.regionScope
      let s ← get
      let a := s.activate g.func g.proc (vaOf v) w false
      if s.tooSoon a.1 then throw .stall
      set a.1
      putNew rd (BitVec.ofNat 64 a.2)
  closeRegionM

section Rspawn

variable {s s1 : State} {f : Firing} {g : Region} {ra rd : BitVec 5} {v : Word} {w : List Word}

/-- A template of another region. -/
theorem rspawnM_foreign (hg : s.region? f.region = some g) (hd : s.plain rd) (hrcb : fieldNat (w.getD 0 0) 0 53 ≠ g.rcb) :
    rspawnM f v w rd s = .ok ((), s.modCore s.cur fun c => Spec.closed (c.putReg rd.toNat 16 0)) := by
  simp only [rspawnM, M.bind_run, M.get_run, hg, if_pos hrcb, putNew_plain hd, closeRegionM_run]
  rw [State.modCore_cur, State.modCore_modCore]

section Own

variable (hg : s.region? f.region = some g) (hrcb : fieldNat (w.getD 0 0) 0 53 = g.rcb) {s2 : State} (hs2 : s.release s.cur s.regionScope = s2)
include hg hrcb hs2

/-- A template of the firing's own region, where the step comes too soon. -/
theorem rspawnM_waits (hsoon : s2.tooSoon (s2.activate g.func g.proc (vaOf v) w false).1 = true) :
    rspawnM f v w rd s = .error .stall := by
  simp only [rspawnM, M.bind_run, M.get_run, hg, if_neg (not_not.2 hrcb), releaseM, M.modify_run, hs2, hsoon, if_true, M.throw_run]

/-- A template of the firing's own region. -/
theorem rspawnM_own {u : State} {n : Nat} (hu : s2.activate g.func g.proc (vaOf v) w false = (u, n)) (hsoon : s2.tooSoon u = false)
    (hd : u.plain rd) : rspawnM f v w rd s =
      .ok ((), u.modCore u.cur fun c => Spec.closed (c.putReg rd.toNat (BitVec.ofNat 64 n) 0)) := by
  simp only [rspawnM, M.bind_run, M.get_run, hg, if_neg (not_not.2 hrcb), releaseM, M.modify_run, hs2, hu, hsoon, Bool.false_eq_true, if_false,
    M.set_run, putNew_plain hd, closeRegionM_run]
  rw [State.modCore_cur, State.modCore_modCore]

end Own

/-- The region of an RSPAWN's firing after the template's RCB has been loaded. -/
theorem region_loaded (h : LoadOnly s.cur (s.at 4) s1) (hg : s.region? f.region = some g) :
    ∃ g', s1.region? f.region = some g' ∧ g'.rcb = g.rcb ∧ g'.func = g.func ∧ g'.proc = g.proc := by
  have hmap := region?_of_beyond h.regions f.region
  rw [show (s.at 4).region? f.region = some g from hg] at hmap
  obtain ⟨g', hg', hframes⟩ := Option.map_eq_some_iff.1 hmap
  exact ⟨g', hg', (congrArg Region.rcb hframes :), (congrArg Region.func hframes :), (congrArg Region.proc hframes :)⟩

variable (hq : Quiet s) (h : Spec.InBody s f) (ha : s.plain ra) (stl : BitVec 2)
include hq h ha

theorem rspawn_misaligned (halign : (s.me.reg ra.toNat).toNat % 256 ≠ 0) :
    exec (.rspawn ra rd stl) s = .next (s.takeTrap s.cur 5 (s.me.reg ra.toNat)) := by
  have hundo : (s.at 4).me.undo = false := by rw [State.at_me, Core.begin_undo, h.undo]
  apply issue_trap
  simp only [M.bind_run, settleM_at hq, readyM_at hq, firingM_some h.runs, M.getC_run, hundo, Bool.not_false, M.need_true, src_at hq ha,
    beq_false_of_ne halign, M.need_false]
  rfl

theorem rspawn_body (halign : (s.me.reg ra.toNat).toNat % 256 = 0)
    (hload : loadWordsM ((s.me.reg ra.toNat).toNat % 2 ^ 53) 32 (s.at 4) = .ok (w, s1)) (rd : BitVec 5) : ∃ body : M Unit,
      exec (.rspawn ra rd stl) s = issue 4 stl body s ∧ body (s.at 4) = rspawnM f (s.me.reg ra.toNat) w rd s1 := by
  have hundo : (s.at 4).me.undo = false := by rw [State.at_me, Core.begin_undo, h.undo]
  have hload' : loadWordsM (vaOf (s.me.reg ra.toNat)) 32 (s.at 4) = .ok (w, s1) := hload
  refine ⟨_, rfl, ?_⟩
  simp only [M.bind_run, settleM_at hq, readyM_at hq, firingM_some h.runs, M.getC_run, hundo, Bool.not_false, M.need_true, src_at hq ha, halign,
    beq_self_eq_true, hload']
  rfl

section Loaded

variable (hd : s.plain rd) (hg : s.region? f.region = some g) (halign : (s.me.reg ra.toNat).toNat % 256 = 0)
  (hload : loadWordsM ((s.me.reg ra.toNat).toNat % 2 ^ 53) 32 (s.at 4) = .ok (w, s1))
include hd hg halign hload

theorem rspawn_foreign (hrcb : (w.getD 0 0).toNat % 2 ^ 53 ≠ g.rcb) :
    exec (.rspawn ra rd stl) s = .next ((s1.modCore s.cur fun c => Spec.closed (c.putReg rd.toNat 16 0)).past stl) := by
  obtain ⟨body, hexec, hbody⟩ := rspawn_body hq h ha stl halign hload rd
  obtain ⟨hloads, -⟩ := loadOnly_loadWordsM hload
  obtain ⟨g', hg', hrcb', -, -⟩ := region_loaded hloads hg
  have hcur : s1.cur = s.cur := hloads.cur
  have hplain : s1.plain rd := plain_of_gens (s := s.at 4) hloads.cur hloads.gens (plain_at hd)
  have hrun := hbody.trans (rspawnM_foreign hg' hplain (by rwa [fieldNat_zero, hrcb']))
  rw [hexec, issue_ok hrun, State.past, State.modCore_cur, hcur]

theorem rspawn_own (hrcb : (w.getD 0 0).toNat % 2 ^ 53 = g.rcb) :
    let s2 := s1.release s.cur s1.regionScope
    let r := s2.activate g.func g.proc ((s.me.reg ra.toNat).toNat % 2 ^ 53) w false
    exec (.rspawn ra rd stl) s = if s2.tooSoon r.1 then .next s
      else .next ((r.1.modCore s.cur fun c => Spec.closed (c.putReg rd.toNat (BitVec.ofNat 64 r.2) 0)).past stl) := by
  intro s2 r
  obtain ⟨body, hexec, hbody⟩ := rspawn_body hq h ha stl halign hload rd
  obtain ⟨hloads, -⟩ := loadOnly_loadWordsM hload
  obtain ⟨g', hg', hrcb', hfunc, hproc⟩ := region_loaded hloads hg
  have hcur : s1.cur = s.cur := hloads.cur
  have hown : fieldNat (w.getD 0 0) 0 53 = g'.rcb := by rw [fieldNat_zero, hrcb', hrcb]
  have hs2 : s1.release s1.cur s1.regionScope = s2 := by rw [hcur]
  have hr : s2.activate g'.func g'.proc (vaOf (s.me.reg ra.toNat)) w false = r := by rw [hfunc, hproc]; rfl
  have hcur2 : s2.cur = s.cur := (congrArg State.cur (beyondMemory_release s1 s.cur s1.regionScope) :).trans hcur
  have hgens2 : (s2.core s.cur).gens = (s1.core s.cur).gens := (congrArg Core.gens (cacheOnly_release s1 s.cur s1.regionScope).core :)
  obtain ⟨hcur3, hgens3⟩ := activate_core s2 g.func g.proc ((s.me.reg ra.toNat).toNat % 2 ^ 53) w false
  have hrcur : r.1.cur = s.cur := hcur3.trans hcur2
  have hplain : r.1.plain rd :=
    plain_of_gens (s := s.at 4) hrcur ((hgens3 s.cur).trans (hgens2.trans hloads.gens)) (plain_at hd)
  cases hsoon : s2.tooSoon r.1 with
  | true =>
    have hrun := hbody.trans (rspawnM_waits (rd := rd) hg' hown hs2 (by rw [hr, hsoon]))
    rw [if_pos rfl, hexec, issue_stall hrun, State.stalled_quiet hq.pend]
  | false =>
    have hrun := hbody.trans (rspawnM_own (u := r.1) (n := r.2) hg' hown hs2 hr hsoon hplain)
    rw [if_neg (by decide), hexec, issue_ok hrun, State.past, State.modCore_cur, hrcur]

end Loaded

end Rspawn

end Sys2Proof.Machine

/-! The statement on regions and their children (R64, R66, R74, R217 to R225, R378). -/

namespace Sys2Proof.Machine
open Host

section RootActivation

variable {s : State} {func proc rcb : Nat} {w : List Word} {hold : Bool}

theorem activate_fails (h0 : fieldNat (w.getD 0 0) 0 53 = 0) {i : Nat} (hlo : 1 ≤ i) (hhi : i ≤ 6) (hfails : Spec.FailsCheck s func proc rcb w i)
    (hbefore : ∀ j, 1 ≤ j → j < i → ¬ Spec.FailsCheck s func proc rcb w j) : (s.activate func proc rcb w hold).2 = i := by
  have hrun := activationChk_root h0 hlo hhi hfails hbefore
  rw [← parent_root (s := s) (func := func) (proc := proc) h0] at hrun
  exact (activate_error hrun).1

variable (h0 : fieldNat (w.getD 0 0) 0 53 = 0) (hgood : ∀ i, 1 ≤ i → i ≤ 6 → ¬ Spec.FailsCheck s func proc rcb w i)
include h0 hgood

theorem activation_tables :
    (activationChk func proc rcb w (Spec.parent s func proc w)).run.run s = (tablesChk (func * 256 + proc) none w).run.run s := by
  rw [parent_root h0]
  exact activationChk_good h0 hgood

theorem activate_unread {s1 : State} {e : MemErr × Nat} (hkinds : s.devWords (func * 256 + proc) (fieldNat (w.getD 3 0) 0 53) 2 = (s1, .error e)) :
    (s.activate func proc rcb w hold).2 = 15 :=
  (activate_error ((activation_tables h0 hgood).trans (tablesChk_unread hkinds))).1

theorem activate_badKinds {s1 : State} {x y : Word} (hkinds : s.devWords (func * 256 + proc) (fieldNat (w.getD 3 0) 0 53) 2 = (s1, .ok [x, y]))
    (hbad : ¬ (2 ≤ x.toNat ∧ x.toNat ≤ 65536 ∧ y = 0)) : (s.activate func proc rcb w hold).2 = 7 :=
  (activate_error ((activation_tables h0 hgood).trans (tablesChk_kinds hkinds hbad))).1

theorem activate_plain {s1 s2 s3 s4 : State} {x y r0 r1 r4 r6 : Word} {e : Word × Word} {kb : List Word} (hcount : fieldNat (w.getD 1 0) 48 9 = 1)
    (hkinds : s.devWords (func * 256 + proc) (fieldNat (w.getD 3 0) 0 53) 2 = (s1, .ok [x, y])) (hok : 2 ≤ x.toNat ∧ x.toNat ≤ 65536 ∧ y = 0)
    (hrule : s1.devWords (func * 256 + proc) (fieldNat (w.getD 2 0) 0 53) 8 = (s2, .ok (plainRecord r0 r1 r4 r6)))
    (hentry : s2.kindEntry (func * 256 + proc) (fieldNat (w.getD 3 0) 0 53) r1.toNat = (s3, .ok (some e))) (hplain : Spec.PlainRule r0 r1 r4 e)
    (hkbank : s3.devWords (func * 256 + proc) (fieldNat (w.getD 5 0) 0 53) 32 = (s4, .ok kb)) :
    (s.activate func proc rcb w hold).2 = 0 ∧ ((∀ z ∈ s.regions, z.id ≠ s.nextRegion) →
      ∃ g, (s.activate func proc rcb w hold).1.region? s.nextRegion = some g ∧ g.eff.rules = [plainRecord r0 r1 r4 r6] ∧ g.eff.kbank = kb) := by
  have hrun := (activation_tables h0 hgood).trans (tablesChk_plain (ruleCount_root.trans hcount) hkinds hok hrule hentry hplain hkbank)
  have hread : ReadOnly s s4 := by
    obtain ⟨hread, -⟩ := reads_activationChk func proc rcb w (Spec.parent s func proc w) s
    rwa [hrun] at hread
  obtain ⟨u, esc, hpool, hactivate⟩ := activate_ok (hold := hold) hrun
  rw [hactivate, hread.samePool.nextRegion]
  exact ⟨rfl, fun hfresh => ⟨_, region?_append (fresh_of_sameWork (hread.samePool.trans hpool).toSameWork hfresh), rfl, rfl⟩⟩

end RootActivation

/-- Settles O41: each instruction is run step by step; the checks of an activation only read, so that each check that the spec names is made in the
state before the activation, and what follows them keeps the regions that are there. -/
theorem regionsAndChildren : Obligations.RegionsAndChildren := by
  unfold Obligations.RegionsAndChildren
  refine ⟨?_, fun c e0 obj arg k hwf hucnt hk => pushUndo_spec hwf hucnt hk e0 obj arg, ?_⟩
  · intro s f g kh kn rb ra kl rd stl hq ha a
    refine ⟨fun hthread hundo => ?_, fun hthread => idem_thread hq ha hthread stl,
      fun hd hg => ⟨kld_at hq hd hg kn stl, fun hi => kldX_at hq ha hd hg hi stl⟩, fun hi => kldX_illop hq ha hi rd stl,
      fun hin hg hclass hb hwf => ?_, fun hin hg hd => ⟨rspawn_misaligned hq hin ha stl, fun w s1 halign hload => ?_⟩⟩
    · rw [idem_opens hq ha hthread hundo]
      exact congrArg _ (congrArg (s.after 4 stl) (funext fun c => openRegion_idem c _))
    · intro k read rivals shut
      refine ⟨bopEnd_at hq hin hclass stl, fun hk => bop_illop hq hin hg hclass kh stl hk,
        fun hk hread hucnt => bop_full hq hin hg hclass hwf ha hb stl rfl hk hread hucnt, fun hk hroom => ⟨fun hold => ?_, fun hsome hyoung => ?_,
          fun hnone hrecord => ?_, fun u hnone hrecord => ?_⟩⟩
      · exact bop_older hq hin hg hclass hwf ha hb stl rfl hk hroom hold
      · exact bop_younger hq hin hg hclass hwf ha hb stl rfl hk hroom rfl hsome hyoung
      · exact bop_noEntry hq hin hg hclass hwf ha hb stl rfl hk hroom hnone hrecord
      · exact bop_records hq hin hg hclass hwf ha hb stl rfl hk hroom hnone hrecord
    · obtain ⟨hplain, -⟩ := hd
      exact ⟨rspawn_foreign hq hin ha stl hplain hg halign hload, rspawn_own hq hin ha stl hplain hg halign hload⟩
  · intro s func proc rcb w hold r space kinds good
    refine ⟨fun h0 => ⟨fun i hlo hhi => activate_fails h0 hlo hhi, fun s1 e hgood => activate_unread h0 hgood,
      fun s1 x y hgood => activate_badKinds h0 hgood, activate_refused,
      fun s1 s2 s3 s4 x y r0 r1 r4 r6 e kb hgood hcount hkinds hlo hhi hy hrule hentry hplain hkbank => ?_⟩, fun hr hfresh => ?_⟩
    · exact activate_plain h0 hgood hcount hkinds ⟨hlo, hhi, hy⟩ hrule hentry hplain hkbank
    · obtain ⟨hnext, e, esc, haccepted, hregion⟩ := activate_accepted hr hfresh
      exact ⟨hnext, _, hregion, rfl, rfl, activated_born haccepted _ _⟩

end Sys2Proof.Machine
